-- ==== Sys2Proof/Word.lean ====
section
/-! DEFINITION. The word types of the FL7 (spec R8, R48): bytes, the 32-bit unit, the 64-bit register. -/

namespace Sys2Proof

/-- One byte of memory. -/
abbrev Byte := BitVec 8

/-- A 16-bit mask: one bit per thread of a temporal group (R14, R171). -/
abbrev Mask := BitVec 16

/-- A 32-bit unit or main-file register (R69, R174). -/
abbrev Word := BitVec 32

/-- A 64-bit scalar, group or control register (R112, R174, R166). -/
abbrev DWord := BitVec 64

end Sys2Proof
end

