-- ==== Sys2Proof/Syntax.lean ====
section
/-! DEFINITION. The steps of the FL7 as syntax: one constructor of `Instr` per row of spec/opcode_table.json.
Operand positions, modifier fields and record fields are decoded into names here; the machine never sees
an encoding. -/

namespace Sys2Proof

/-! ## Operands (R71, R75 to R79) -/

/-- The header fields of a full-form instruction and the literal of its 96-bit form (R71, R79).
`lit` is present exactly in the 96-bit form. -/
structure Hd where
  pred : BitVec 3
  pn : Bool
  u : Bool
  lit : Option Word
  deriving DecidableEq, Repr

/-- A source operand (R75, R76). In Spur code `main` names `s` and `pred` names `q`. -/
inductive Src
  | main (n : BitVec 8)
  | opnd (n : BitVec 3)
  | l0
  | pred (n : Fin 7)
  | grp (n : BitVec 5)
  | imm (b : BitVec 8)
  | lit
  deriving DecidableEq, Repr

/-- A destination operand (R77). In Spur code `main` names `s` and `pred` names `q`. -/
inductive Dst
  | main (n : BitVec 8)
  | opnd (n : BitVec 3)
  | pred (n : Fin 7)
  | grp (n : BitVec 5)
  deriving DecidableEq, Repr

/-! ## Modifier fields -/

/-- Spur width field W (R140). -/
inductive SW | s64 | s32 | z32 | z64
  deriving DecidableEq, Repr

/-- Lane integer type field T (R201). -/
inductive LT | s32 | z32 | s64 | z64
  deriving DecidableEq, Repr

/-- Integer comparison codes (R150). -/
inductive CC | eq | ne | lt | le | gt | ge | tst
  deriving DecidableEq, Repr

/-- Scopes (R37). -/
inductive Scope | tg | core | clu | dev | dom
  deriving DecidableEq, Repr

/-- Ordering kind of a load or store: plain, or acquire (loads) and release (stores) at a scope (R153, R270). -/
inductive Ord | plain | sync (s : Scope)
  deriving DecidableEq, Repr

/-- Sizes of SLD and SST (R153). -/
inductive SSz | b64 | s8 | z8 | s16 | z16 | s32 | z32
  deriving DecidableEq, Repr

/-- Sizes of LD, ST, LDS and STS (R270). -/
inductive LSz | b32 | s8 | z8 | s16 | z16 | b64 | b128
  deriving DecidableEq, Repr

/-- SAMO operations (R154). -/
inductive SAop | add | min | max | and | or | xor | xchg | cas
  deriving DecidableEq, Repr

/-- ATOM and ATOMS operations (R275). -/
inductive Aop | add | smin | smax | zmin | zmax | and | or | xor | xchg | pmax
  deriving DecidableEq, Repr

/-- ATOMF operations (R277). -/
inductive Fop | add | min | max
  deriving DecidableEq, Repr

/-- ATOMF formats (R277). -/
inductive AFt | f32 | f16x2 | bf16x2
  deriving DecidableEq, Repr

/-- Gang widths of WSPAWN, HREG and fork descriptors (R155, R349). -/
inductive Wid | w16 | w32 | w64
  deriving DecidableEq, Repr

/-- LAUNCH targets (R118, R155). -/
inductive Tgt | self | next | prev | cluster
  deriving DecidableEq, Repr

/-- Scalar float formats FT (R207). -/
inductive Ft | f32 | f16 | bf16
  deriving DecidableEq, Repr

/-- Packed formats PF (R207). -/
inductive Pf | f16x2 | bf16x2
  deriving DecidableEq, Repr

/-- Float comparison codes (R210). -/
inductive Fc | eq | ne | lt | le | gt | ge | un | ord
  deriving DecidableEq, Repr

/-- FRND modes RMS (R211). -/
inductive Rms | dyn | rne | rtz | rup | rdn
  deriving DecidableEq, Repr

/-- CVT type codes (R216). -/
inductive Cvt | f32 | f16 | bf16 | e4m3 | e5m2 | s32 | z32 | s8
  deriving DecidableEq, Repr

/-- Block types (R54, R218). -/
inductive Bt | uint | e2m1 | pow2 | hyb
  deriving DecidableEq, Repr

/-- Element format of QPACK, QSCALE input and QUNPK output (R218). -/
inductive Qf | f32 | bf16x2
  deriving DecidableEq, Repr

/-- SHFL modes (R223). -/
inductive Sm | idx | up | down | xor
  deriving DecidableEq, Repr

/-- VOTE modes (R224). -/
inductive Vm | all | any | eq | ballot
  deriving DecidableEq, Repr

/-- REDUX and SCAN operations (R225). -/
inductive Rop | add | smin | smax | zmin | zmax | and | or | xor | fadd | fmin | fmax
  deriving DecidableEq, Repr

/-- Fence kinds (R43, R279). -/
inductive Fk | ar | acq | rel | cum
  deriving DecidableEq, Repr

/-- SBAR scopes (R235). -/
inductive Sc | core | clu | dev
  deriving DecidableEq, Repr

/-- CAIRN modes (R287). -/
inductive Cm | as | off | precise | report | once
  deriving DecidableEq, Repr

/-- WSTAT items (R355). -/
inductive Wi | state | steps | pstall | cstall | fstall | upcalls
  deriving DecidableEq, Repr

/-- ACLD word counts (R349). -/
inductive Nw | x1 | x2 | x4
  deriving DecidableEq, Repr

/-- TRIGW actions (R466). -/
inductive Act | pulse | set | clr
  deriving DecidableEq, Repr

/-- CCPY conversions (R379). -/
inductive Conv | none | bf16 | f16 | e4m3
  deriving DecidableEq, Repr

/-- What an ENGINE_FAULT_SERVICE or similar firmware decision does (R363, R395). -/
inductive Serve | serve | decline
  deriving DecidableEq, Repr

/-! ## Requests (R418, R420) -/

/-- The delivery context that carries a message (R424): the host port, the number of the context at the port, and the delivery
service, reliable ordered or reliable unordered. -/
structure Carrier where
  port : Nat := 0
  ctx : Nat := 0
  rod : Bool := false
  deriving DecidableEq, Repr, Inhabited

/-- What every FRS request carries besides its arguments: the interface it arrived for, its TAG, its reply VA, and the context
that its reply returns on (R420). -/
structure Rq where
  vif : Nat
  tag : Word
  reply : DWord
  via : Carrier := {}
  deriving DecidableEq, Repr

/-- A request that cannot be served, with the ASID that it names, if it names one (R418, R420). -/
structure BadRq where
  rq : Rq
  asid : Option (BitVec 14)
  deriving DecidableEq, Repr

/-- The statuses that LOAD_IMAGE's checks end with (R111). -/
inductive LoadStatus | badTof | badSignature | capsMissing | layoutConflict
  deriving DecidableEq, Repr

/-- A debug target (R468): device core number and actor low byte, 0xFF for the whole core. -/
structure DbgTarget where
  core : BitVec 10
  low : BitVec 8
  deriving DecidableEq, Repr

/-- One step of the device. Ordering-machine steps and events name the actor, entry, line or engine they
concern, in their fields or as the subject of the turn; instructions hold their decoded operands; commands and
requests hold their decoded fields. -/
inductive Instr
  -- steps of the ordering machine (R39)
  | perform (actor pos : Nat) (lanes : Mask)
  | drain (actor uid : Nat)
  | forward (dest : Nat)
  | apply (uid : Nat)
  | acknowledge (uid : Nat)
  | fenceComplete (actor pos : Nat)
  | fill (core : Nat) (asid : Nat) (line : Nat)
  | evict (core : Nat) (asid : Nat) (line : Nat)
  | disown (core queue : Nat) (item : Nat)
  -- engine, fault and front-end events
  | lineLand (core queue : Nat) (item : Nat)
  | launchKill (core : Nat) (cause : BitVec 8)
  | preemptRequest (core : Nat) (withdraw : Bool)
  | fetchLand (core ctx : Nat) (opB : Bool) (slot : Nat) (line : Nat)
  | fetchFault (core ctx : Nat) (opB : Bool) (slot : Nat) (line : Nat)
  | chunkComplete (core ctx : Nat) (ksteps : Nat)
  | copyFault (core queue : Nat) (item : Nat)
  | saddleEnd (heads : List (BitVec 8)) (caps : List (BitVec 6))
  | remoteWrite (port asid : Nat) (va : DWord) (data : List Byte)
  | remoteRead (port asid : Nat) (va : DWord) (size : Nat)
  | triggerAssert (line : Nat) (pin : Bool)
  -- CSR writes and reads with an effect of their own
  | csrwRaceidx (h : Hd) (a : Src)
  | csrrTrctl (h : Hd) (d : Dst)
  | csrwTrctl (h : Hd) (a : Src)
  | csrwTrrd (h : Hd) (a : Src)
  | csrwHpool (h : Hd) (a : Src)
  | csrwRlgeom (h : Hd) (n : BitVec 4) (a : Src)
  | csrwRlpos (h : Hd) (n : BitVec 4) (a : Src)
  | csrwHshare (h : Hd) (a : Src)
  | csrwMreqcap (h : Hd) (a : Src)
  | csrwDbgctl (h : Hd) (a : Src)
  -- Spur scalar (R144)
  | add (h : Hd) (w : SW) (d : Dst) (a b : Src)
  | sub (h : Hd) (w : SW) (d : Dst) (a b : Src)
  | mul (h : Hd) (w : SW) (d : Dst) (a b : Src)
  | mulh (h : Hd) (w : SW) (d : Dst) (a b : Src)
  | divs (h : Hd) (w : SW) (rem : Bool) (d : Dst) (a b : Src)
  | divz (h : Hd) (w : SW) (rem : Bool) (d : Dst) (a b : Src)
  | spurAnd (h : Hd) (w : SW) (d : Dst) (a b : Src)
  | spurOr (h : Hd) (w : SW) (d : Dst) (a b : Src)
  | spurXor (h : Hd) (w : SW) (d : Dst) (a b : Src)
  | spurAndn (h : Hd) (w : SW) (d : Dst) (a b : Src)
  | spurShl (h : Hd) (w : SW) (d : Dst) (a b : Src)
  | spurShr (h : Hd) (w : SW) (d : Dst) (a b : Src)
  | spurSar (h : Hd) (w : SW) (d : Dst) (a b : Src)
  | rot (h : Hd) (w : SW) (d : Dst) (a b : Src)
  | min (h : Hd) (w : SW) (d : Dst) (a b : Src)
  | max (h : Hd) (w : SW) (d : Dst) (a b : Src)
  | spurClz (h : Hd) (w : SW) (d : Dst) (a : Src)
  | spurPopc (h : Hd) (w : SW) (d : Dst) (a : Src)
  | spurBfx (h : Hd) (w : SW) (d : Dst) (a b c : Src)
  | spurBfi (h : Hd) (w : SW) (d : BitVec 8) (a b c : Src)
  | lea (h : Hd) (sh : BitVec 3) (d : Dst) (a b c : Src)
  | spurMov (h : Hd) (w : SW) (d : Dst) (a : Src)
  | spurLi (h : Hd) (w : SW) (hi : Bool) (d : BitVec 8) (a : Src)
  | spurSel (h : Hd) (d : Dst) (a b c : Src)
  | cmp (h : Hd) (w : SW) (cc : CC) (d : Dst) (a b : Src)
  | br (h : Hd) (off : BitVec 20)
  | call (h : Hd) (d : BitVec 8) (off : BitVec 20)
  | loopn (h : Hd) (d : BitVec 8) (off : BitVec 20)
  | jmp (h : Hd) (d : BitVec 8) (a : Src)
  | ret (h : Hd) (a : Src)
  | sld (h : Hd) (sz : SSz) (ord : Ord) (d : Dst) (a b : Src)
  | sst (h : Hd) (sz : SSz) (ord : Ord) (d : BitVec 8) (a b : Src)
  | samo (h : Hd) (op : SAop) (w : SW) (sc : Scope) (d : Dst) (a b : Src) (c : Option Src)
  -- Spur engine and launch (R155)
  | fork (h : Hd) (d : BitVec 8) (a : Src)
  | rdzv (h : Hd) (d : Dst) (a : Src)
  | wspawn (h : Hd) (wid : Wid) (d : Dst) (a b c : Src)
  | dqput (h : Hd) (a : Src)
  | launch (h : Hd) (tgt : Tgt) (try_ : Option Dst) (a : Src)
  | ljoin (h : Hd) (a b : Src)
  | cprog (h : Hd) (d : Dst) (a b c : Src)
  | yield (h : Hd)
  | trap (h : Hd) (a : Src)
  | sdone (h : Hd)
  -- lane integer (R200)
  | iaddCompact (pred : BitVec 3) (pn : Bool) (d a : BitVec 8)
  | iadd (h : Hd) (t : LT) (sat : Bool) (d : Dst) (a b : Src)
  | isubCompact (pred : BitVec 3) (pn : Bool) (d a : BitVec 8)
  | isub (h : Hd) (t : LT) (sat : Bool) (d : Dst) (a b : Src)
  | imulCompact (pred : BitVec 3) (pn : Bool) (d a : BitVec 8)
  | imul (h : Hd) (t : LT) (d : Dst) (a b : Src)
  | imad (h : Hd) (t : LT) (sat : Bool) (d : Dst) (a b c : Src)
  | imulh (h : Hd) (t : LT) (d : Dst) (a b : Src)
  | idot4 (h : Hd) (az bz sat : Bool) (d : Dst) (a b c : Src)
  | iabs (h : Hd) (t : LT) (sat : Bool) (d : Dst) (a : Src)
  | iminCompact (pred : BitVec 3) (pn : Bool) (d a : BitVec 8)
  | imin (h : Hd) (t : LT) (d : Dst) (a b : Src)
  | imaxCompact (pred : BitVec 3) (pn : Bool) (d a : BitVec 8)
  | imax (h : Hd) (t : LT) (d : Dst) (a b : Src)
  | andCompact (pred : BitVec 3) (pn : Bool) (d a : BitVec 8)
  | and (h : Hd) (t : LT) (d : Dst) (a b : Src)
  | orCompact (pred : BitVec 3) (pn : Bool) (d a : BitVec 8)
  | or (h : Hd) (t : LT) (d : Dst) (a b : Src)
  | xorCompact (pred : BitVec 3) (pn : Bool) (d a : BitVec 8)
  | xor (h : Hd) (t : LT) (d : Dst) (a b : Src)
  | andnCompact (pred : BitVec 3) (pn : Bool) (d a : BitVec 8)
  | andn (h : Hd) (t : LT) (d : Dst) (a b : Src)
  | shlCompact (pred : BitVec 3) (pn : Bool) (d a : BitVec 8)
  | shl (h : Hd) (t : LT) (d : Dst) (a b : Src)
  | shrCompact (pred : BitVec 3) (pn : Bool) (d a : BitVec 8)
  | shr (h : Hd) (t : LT) (d : Dst) (a b : Src)
  | sarCompact (pred : BitVec 3) (pn : Bool) (d a : BitVec 8)
  | sar (h : Hd) (t : LT) (d : Dst) (a b : Src)
  | bfx (h : Hd) (t : LT) (d : Dst) (a b c : Src)
  | bfi (h : Hd) (t : LT) (d : Dst) (a b c : Src)
  | popc (h : Hd) (t : LT) (d : Dst) (a : Src)
  | clz (h : Hd) (t : LT) (d : Dst) (a : Src)
  | brev (h : Hd) (t : LT) (d : Dst) (a : Src)
  | icmp (h : Hd) (t : LT) (cc : CC) (d : Dst) (a b : Src)
  | sel (h : Hd) (t : LT) (d : Dst) (a b c : Src)
  | movCompact (pred : BitVec 3) (pn : Bool) (d a : BitVec 8)
  | mov (h : Hd) (t : LT) (d : Dst) (a : Src)
  | li (h : Hd) (d : Dst) (a : Src)
  -- lane float (R206)
  | faddCompact (pred : BitVec 3) (pn : Bool) (d a : BitVec 8)
  | fadd (h : Hd) (ft : Ft) (d : Dst) (a b : Src)
  | fsubCompact (pred : BitVec 3) (pn : Bool) (d a : BitVec 8)
  | fsub (h : Hd) (ft : Ft) (d : Dst) (a b : Src)
  | fmulCompact (pred : BitVec 3) (pn : Bool) (d a : BitVec 8)
  | fmul (h : Hd) (ft : Ft) (d : Dst) (a b : Src)
  | ffma (h : Hd) (ft : Ft) (d : Dst) (a b c : Src)
  | fminCompact (pred : BitVec 3) (pn : Bool) (d a : BitVec 8)
  | fmin (h : Hd) (ft : Ft) (d : Dst) (a b : Src)
  | fmaxCompact (pred : BitVec 3) (pn : Bool) (d a : BitVec 8)
  | fmax (h : Hd) (ft : Ft) (d : Dst) (a b : Src)
  | fcmp (h : Hd) (ft : Ft) (fc : Fc) (d : Dst) (a b : Src)
  | frnd (h : Hd) (ft : Ft) (rms : Rms) (d : Dst) (a : Src)
  | fclass (h : Hd) (ft : Ft) (d : Dst) (a : Src)
  | f2addCompact (pred : BitVec 3) (pn : Bool) (d a : BitVec 8)
  | f2add (h : Hd) (pf : Pf) (d : Dst) (a b : Src)
  | f2mulCompact (pred : BitVec 3) (pn : Bool) (d a : BitVec 8)
  | f2mul (h : Hd) (pf : Pf) (d : Dst) (a b : Src)
  | f2fma (h : Hd) (pf : Pf) (d : Dst) (a b c : Src)
  | fdot2 (h : Hd) (pf : Pf) (d : Dst) (a b c : Src)
  | rcpCompact (pred : BitVec 3) (pn : Bool) (d a : BitVec 8)
  | rcp (h : Hd) (d : Dst) (a : Src)
  | rsqCompact (pred : BitVec 3) (pn : Bool) (d a : BitVec 8)
  | rsq (h : Hd) (d : Dst) (a : Src)
  | sqrtCompact (pred : BitVec 3) (pn : Bool) (d a : BitVec 8)
  | sqrt (h : Hd) (d : Dst) (a : Src)
  | exp2Compact (pred : BitVec 3) (pn : Bool) (d a : BitVec 8)
  | exp2 (h : Hd) (d : Dst) (a : Src)
  | log2Compact (pred : BitVec 3) (pn : Bool) (d a : BitVec 8)
  | log2 (h : Hd) (d : Dst) (a : Src)
  | sinCompact (pred : BitVec 3) (pn : Bool) (d a : BitVec 8)
  | sin (h : Hd) (d : Dst) (a : Src)
  | cosCompact (pred : BitVec 3) (pn : Bool) (d a : BitVec 8)
  | cos (h : Hd) (d : Dst) (a : Src)
  | tanhCompact (pred : BitVec 3) (pn : Bool) (d a : BitVec 8)
  | tanh (h : Hd) (d : Dst) (a : Src)
  | cvt (h : Hd) (dt st : Cvt) (sat sr : Bool) (d : Dst) (a : Src)
  | qpack (h : Hd) (qf : Qf) (d : Dst) (a b : Src)
  | qunpk (h : Hd) (qf : Qf) (d : Dst) (a b : Src)
  | qscale (h : Hd) (qf : Qf) (bt : Bt) (d : Dst) (a : Src)
  -- lane cross-lane, control and barriers (R222, R227, R235)
  | shfl (h : Hd) (sm : Sm) (d : Dst) (a b : Src)
  | vote (h : Hd) (vm : Vm) (d : Dst) (a : Src)
  | redux (h : Hd) (rop : Rop) (d : Dst) (a : Src)
  | scan (h : Hd) (rop : Rop) (ex : Bool) (d : Dst) (a : Src)
  | prmt (h : Hd) (d : Dst) (a b c : Src)
  | bra (h : Hd) (rec_ : Option Src) (off : BitVec 20)
  | reconv (h : Hd)
  | fuse (h : Hd)
  | dpush (h : Hd) (g : BitVec 5)
  | dpop (h : Hd) (g : BitVec 5)
  | dqpop (h : Hd) (g : BitVec 5)
  | exit (h : Hd)
  | bar (h : Hd) (a b : Src)
  | barm (h : Hd) (a : Src)
  | arrive (h : Hd) (a b : Src)
  | await (h : Hd) (a : Src)
  | sbar (h : Hd) (sc : Sc) (a : Src)
  -- memory (R268)
  | ld (h : Hd) (sz : LSz) (ord : Ord) (d : Dst) (a b : Src)
  | st (h : Hd) (sz : LSz) (ord : Ord) (d : Dst) (a b : Src)
  | lds (h : Hd) (sz : LSz) (ord : Ord) (d : Dst) (a b : Src)
  | sts (h : Hd) (sz : LSz) (ord : Ord) (d : Dst) (a b : Src)
  | atom (h : Hd) (op : Aop) (w64 : Bool) (sc : Scope) (d : Dst) (a b : Src)
  | atomf (h : Hd) (op : Fop) (ft : AFt) (sc : Scope) (d : Dst) (a b : Src)
  | atoms (h : Hd) (op : Aop) (w64 : Bool) (sc : Scope) (d : Dst) (a b : Src)
  | cas (h : Hd) (w64 : Bool) (sc : Scope) (d : Dst) (a b c : Src)
  | fence (h : Hd) (k : Fk) (sc : Scope)
  | waitst (h : Hd)
  | pref (h : Hd) (l2 : Bool) (a b : Src)
  | rres (h : Hd) (d : Dst) (a : Src)
  | rpub (h : Hd) (a b : Src)
  | rget (h : Hd) (d : Dst) (a : Src)
  | rrel (h : Hd) (a b : Src)
  | cairn (h : Hd) (cm : Cm) (d : Dst)
  | cscrub (h : Hd) (a b : Src)
  -- Traverse and handler (R349)
  | walk (h : Hd) (d : BitVec 8) (a : Src)
  | wstat (h : Hd) (item : Wi) (d : Dst) (a : Src)
  | wpause (h : Hd) (d : Dst) (a : Src)
  | wresume (h : Hd) (d : Dst) (a : Src)
  | wcancel (h : Hd) (d : Dst) (a : Src)
  | hreg (h : Hd) (wid : Wid) (a b c : Src)
  | hunreg (h : Hd) (a : Src)
  | hdesc (h : Hd) (d : Dst) (a : Src)
  | acld (h : Hd) (nw : Nw) (d : Dst) (a b : Src)
  | hret (h : Hd) (a : Src)
  -- system, saddle and debug (R91)
  | nopCompact (pred : BitVec 3) (pn : Bool)
  | nop (h : Hd)
  | csrr (h : Hd) (d : Dst) (csr : BitVec 8)
  | csrw (h : Hd) (csr : BitVec 8) (a : Src)
  | time (h : Hd) (d : Dst)
  | cyc (h : Hd) (d : Dst)
  | xret (h : Hd) (skip : Bool)
  | sadl (h : Hd) (info : Bool) (d : Dst) (a : Src)
  | sclr (h : Hd) (d : Dst) (a : Src)
  | scle (h : Hd)
  | bkpt (h : Hd) (a : Src)
  | trigw (h : Hd) (act : Act) (a : Src)
  | mark (h : Hd) (a : Src)
  -- Couloir commands (R379)
  | ccpy (conv : Conv) (len : BitVec 16) (glob : DWord) (scr : Word)
  | ccpyG (conv : Conv) (len : BitVec 16) (glob : DWord) (scr : Word)
  | ccpyD2 (conv : Conv) (desc : DWord)
  | ccpyD3 (conv : Conv) (desc : DWord)
  | cgth (i16 : Bool) (desc : DWord)
  | csct (i16 : Bool) (desc : DWord)
  | cfil (len : BitVec 16) (pat : Word) (scr : Word)
  | cfilG (len : BitVec 16) (glob : DWord) (pat : Word)
  | cdec (blocks : BitVec 16) (src : DWord) (scr : Word)
  | csig (ctr : DWord) (val : Word)
  | csigArrive (bar : BitVec 4) (cnt : BitVec 8)
  | cwat (ctr : DWord) (target : Word)
  | cwatBar (bar : BitVec 4)
  | cjmp (off : Word)
  -- FRS requests (R419)
  | createAs (rq : Rq) (psalt : Word)
  | destroyAs (rq : Rq) (asid : BitVec 14)
  | map (rq : Rq) (asid : BitVec 14) (va len : DWord) (attrs : BitVec 9)
  | protect (rq : Rq) (asid : BitVec 14) (va len : DWord) (attrs : BitVec 9)
  | unmap (rq : Rq) (asid : BitVec 14) (va len : DWord)
  | place (rq : Rq) (asid : BitVec 14) (tab : DWord)
  | loadImage (rq : Rq) (asid : BitVec 14) (va len : DWord)
  | start (rq : Rq) (asid : BitVec 14) (hdr : DWord) (core : BitVec 10) (staddr ctr : DWord) (ccinc : Word)
  | setCairn (rq : Rq) (asid : BitVec 14) (mode : BitVec 3)
  | scrub (rq : Rq) (asid : BitVec 14) (list : DWord) (count : BitVec 13)
  | attest (rq : Rq) (nonce : List Byte)
  | resetVif (rq : Rq)
  | peerGrant (rq : Rq) (dev : BitVec 8) (srcAsid asid : BitVec 14) (base limit : DWord)
  -- DEBUG subcommands (R468)
  | halt (rq : Rq) (t : DbgTarget)
  | resume (rq : Rq) (t : DbgTarget)
  | step (rq : Rq) (t : DbgTarget)
  | inflight (rq : Rq) (t : DbgTarget) (most : DWord)
  | route (rq : Rq) (line : BitVec 5) (entry : DWord)
  | ctl (rq : Rq) (t : DbgTarget) (val : DWord)
  -- remaining events
  | engineFaultService (actor : Nat) (item : Nat) (d : Serve)
  | badRequest (r : BadRq)
  -- events whose operands, where they have any, are the subject of the turn (`State.subj`)
  | commandComplete  -- core, queue
  | compressionMerge  -- block number
  | readRecord  -- record uid
  | lateFault  -- core, slot
  | faultServiceResume  -- actor
  | launchComplete  -- core
  | placement  -- core
  | imageRestore  -- core
  | saveOutstandingTimeout  -- core
  | imageWrite  -- core
  | forcedSave  -- core
  | parkshareSwitch  -- core
  | swapOut  -- core
  | starvationBoost  -- core, slot
  | fuseTimeout  -- core, slot
  | barrierWave  -- core, barrier
  | upcallDispatch  -- core
  | stepStart  -- core, context
  | drainHorizon
  | saddleStart
  | saddleOverrun
  | droop  -- cluster
  | stretchEnd  -- cluster
  | halvedIssueEnd  -- cluster
  | timingError  -- actor
  | ballast
  | peerUnreachable  -- path entry uid
  | packageReset
  | traceSample  -- core
  | triggerDeassert  -- line
  | stepNotIssued  -- actor
  | droppedPacket  -- port
  | cend
  deriving DecidableEq, Repr

/-! ## Turns of the schedule -/

/-- What moves in a turn: an agent that issues its next instruction, an event, a request of an interface as the words of its
UET send, or the next instruction of FRS on a firmware core, whose code the spec does not give (R34, R39, R415, R418). -/
inductive Move
  | spur (core : Nat)
  | tg (core slot : Nat) (arm : Bool)
  | queue (core q : Nat)
  | event (i : Instr) (a b : Nat)
  | request (vif : Nat) (via : Carrier) (words : List DWord)
  | firmware (core : Nat) (i : Instr)
  deriving DecidableEq, Repr, Inhabited

/-- One turn of the schedule: the reference time in ns and the local cycles of each cluster, in order, that pass before it, and
what moves (the model's own: R34 leaves the order of steps free, R29, R30 and R448 leave the times free). -/
structure Turn where
  ns : Nat
  cyc : List Nat
  move : Move
  deriving DecidableEq, Repr, Inhabited

end Sys2Proof
end

