-- ==== Sys2Proof/Config.lean ====
section
/-! DEFINITION. What the spec leaves to the device: free values, which no proof can evaluate. Every constant here is
opaque, so a statement about it holds for every value it may have. -/

namespace Sys2Proof.Config

/-- The special functions whose results R214 bounds without fixing them: a fixed function of the input bits. -/
opaque rsq : Word → Word
/-- EXP2 (R214). -/
opaque exp2 : Word → Word
/-- LOG2 (R214). -/
opaque log2 : Word → Word
/-- SIN (R214). -/
opaque sin : Word → Word
/-- COS (R214). -/
opaque cos : Word → Word
/-- TANH (R214). -/
opaque tanh : Word → Word

/-- The schedule of R34, R39: the turn taken when the agenda in State is empty, by the number of turns taken. -/
opaque freeTurn : Nat → Turn

/-- Whether the home slice holds a line, with its translation, in the drain and the saddle of a number, so that its accesses need no
DRAM (R250, R434): replacement is free. -/
opaque l2Holds : Nat → Nat → Bool

/-- Whether a ready group's instruction could enter its pipeline in the issue slot of a turn (R126), by the number of turns taken
and the actor: the latencies of the pipelines are no state. -/
opaque pipeReady : Nat → Nat → Bool

/-- Fused values: GUARD, FMAX, SLOW of sys.margin per cluster (R444), as one word. -/
opaque margin : Nat → DWord

/-- HEAD of sys.therm per cluster and saddle (R457). -/
opaque therm : Nat → BitVec 8

/-- Bytes whose value the spec does not give: the digests of firmware and fuses, and the arrangement of saved-image bodies, by kind
and counter (R406, R423). -/
opaque freeByte : Nat → Nat → Byte

/-- Blocks 1 and 2 of a saved image, by type, index and the image's order: only the front end reads them (R406). -/
opaque stateBlock : Nat → Nat → Nat → List Byte

/-- The operator root that was registered at first boot and stands in the fuses, if any (R421). -/
opaque operatorRoot : Option Nat

/-- An operator root is certified by Tyber's (R421). -/
opaque rootCertified : Nat → Bool

/-- The RSA keys, modulus and exponent, that are certified in a chain that ends at Tyber's fused root (`none`) or at an operator
root (R421). -/
opaque keysUnder : Option Nat → List (Nat × Nat)

/-- The device identity key: the modulus and the private exponent of its RSA-3072 key (R422). -/
opaque identityKey : Nat × Nat

/-- The number of a status that R111 names and does not number. -/
opaque loadStatus : LoadStatus → Word

end Sys2Proof.Config
end

