-- ==== Sys2Proof/Machine/Float.lean ====
section
/-! DEFINITION. Number formats and rounding (R48 to R65, R208, R209, R213 to R215): exact values, `Round`, the
stochastic neighbour function, quantisation, and the special functions. -/

namespace Sys2Proof.Machine

/-- The five sticky flags in the order of sys.fpctl bits 12 to 8: NV, DZ, OF, UF, NX (R59). -/
abbrev FFlags := BitVec 5

/-- Invalid operation. -/
def fNV : FFlags := 16
/-- Divide by zero. -/
def fDZ : FFlags := 8
/-- Overflow. -/
def fOF : FFlags := 4
/-- Underflow. -/
def fUF : FFlags := 2
/-- Inexact. -/
def fNX : FFlags := 1

/-- The rounding modes (R59). -/
inductive Rm | rne | rtz | rup | rdn | sr
  deriving DecidableEq, Repr

/-- The mode that the RM field names; the reserved codes never stand in sys.fpctl (R59). -/
def Rm.ofCode (n : Nat) : Rm :=
  match n with
  | 1 => .rtz | 2 => .rup | 3 => .rdn | 4 => .sr | _ => .rne

/-- A floating-point format (R49). `wide` marks FP32, FP16 and BF16; `hasInf` is false for E4M3 only; `maxM` is the
largest finite significand at the top binade's spacing. -/
structure Fmt where
  eb : Nat
  fb : Nat
  bias : Nat
  wide : Bool
  hasInf : Bool
  maxM : Nat
  deriving DecidableEq, Repr

/-- FP32 (R49). -/
def fp32 : Fmt := ⟨8, 23, 127, true, true, 0xFFFFFF⟩
/-- FP16 (R49). -/
def fp16 : Fmt := ⟨5, 10, 15, true, true, 0x7FF⟩
/-- BF16 (R49). -/
def bf16 : Fmt := ⟨8, 7, 127, true, true, 0xFF⟩
/-- E4M3 (R49). -/
def e4m3 : Fmt := ⟨4, 3, 7, false, false, 14⟩
/-- E5M2 (R49). -/
def e5m2 : Fmt := ⟨5, 2, 15, false, true, 7⟩

/-- The sign bit's weight. -/
def Fmt.signBit (f : Fmt) : Nat := 2 ^ (f.eb + f.fb)
/-- The exponent field of all ones, in place. -/
def Fmt.expMask (f : Fmt) : Nat := (2 ^ f.eb - 1) * 2 ^ f.fb
/-- The exponent of the smallest subnormal. -/
def Fmt.minQ (f : Fmt) : Int := 1 - f.bias - f.fb
/-- The spacing exponent of the top binade. -/
def Fmt.maxQ (f : Fmt) : Int := 2 ^ f.eb - (if f.hasInf then 2 else 1) - f.bias - f.fb
/-- The largest finite pattern. -/
def Fmt.maxBits (f : Fmt) : Nat := f.expMask - (if f.hasInf then 1 else 0) + (if f.hasInf then 0 else 6)
/-- The canonical NaN (R50). -/
def Fmt.canon (f : Fmt) : Nat := if f.hasInf then f.expMask + 2 ^ (f.fb - 1) else f.expMask + 7

/-- An exact value: a NaN (signalling or not), an infinity, or ±m × 2^e. -/
inductive FV
  | nan (sig : Bool)
  | inf (neg : Bool)
  | fin (neg : Bool) (m : Nat) (e : Int)
  deriving DecidableEq, Repr

/-- The value +0. -/
def FV.zero : FV := .fin false 0 0

/-- The value of a pattern; `daz` reads a subnormal of a wide format as zero of its sign (R49, R59). -/
def FV.ofBits (f : Fmt) (daz : Bool) (bits : Nat) : FV :=
  let neg := bits / f.signBit % 2 = 1
  let ex := bits / 2 ^ f.fb % 2 ^ f.eb
  let fr := bits % 2 ^ f.fb
  if ex = 2 ^ f.eb - 1 && f.hasInf then
    if fr = 0 then .inf neg else .nan (fr < 2 ^ (f.fb - 1))
  else if ex = 2 ^ f.eb - 1 && fr = 7 && !f.hasInf then .nan false
  else if ex = 0 then
    if daz && f.wide then .fin neg 0 0 else .fin neg fr f.minQ
  else .fin neg (2 ^ f.fb + fr) (f.minQ + (ex - 1 : Int))

/-- NV when the input is a signalling NaN (R50, R65). -/
def FV.sigFlag : FV → FFlags
  | .nan true => fNV
  | _ => 0

/-- Whether the value is a NaN. -/
def FV.isNan : FV → Bool
  | .nan _ => true
  | _ => false

/-- Whether the value is zero. -/
def FV.isZero : FV → Bool
  | .fin _ m _ => m = 0
  | _ => false

/-- Whether the value is infinite. -/
def FV.isInf : FV → Bool
  | .inf _ => true
  | _ => false

/-- The sign. -/
def FV.neg : FV → Bool
  | .nan _ => false
  | .inf n => n
  | .fin n _ _ => n

/-- The value with its sign changed. -/
def FV.negate : FV → FV
  | .nan s => .nan s
  | .inf n => .inf (!n)
  | .fin n m e => .fin (!n) m e

/-! ## Exact arithmetic -/

/-- m × 2^e as an integer multiple of 2^q, for q at most e. -/
def scaleTo (m : Nat) (e q : Int) : Nat := m <<< (e - q).toNat

/-- A signed magnitude. -/
def signed (neg : Bool) (n : Nat) : Int := if neg then -(n : Int) else n

/-- The exact product; an infinity times zero is NaN and sets NV, and so does a signalling NaN (R65, R208). -/
def FV.mul (a b : FV) : FV × FFlags :=
  let fl := a.sigFlag ||| b.sigFlag
  if a.isNan || b.isNan then (.nan false, fl)
  else
    let s := a.neg != b.neg
    match a, b with
    | .fin _ m e, .fin _ n g => (.fin s (m * n) (e + g), fl)
    | _, _ => if a.isZero || b.isZero then (.nan false, fl ||| fNV) else (.inf s, fl)

/-- The least exponent of the finite values of a list. -/
def minExp : List FV → Int
  | [] => 0
  | [.fin _ _ e] => e
  | .fin _ _ e :: l => min e (minExp l)
  | _ :: l => minExp l

/-- The exact sum of finite values, in units of 2^q. -/
def finSum (q : Int) : List FV → Int
  | [] => 0
  | .fin n m e :: l => signed n (scaleTo m e q) + finSum q l
  | _ :: l => finSum q l

/-- The exact sum of a list of values: a NaN gives NaN, infinities of both signs give NaN with NV; an exact zero has the
common sign of its terms, else + or, under RDN, − (R61, R66, R208, R213). -/
def FV.sum (rdn : Bool) (l : List FV) : FV × FFlags :=
  let fl := l.foldl (fun f x => f ||| x.sigFlag) 0
  if l.any FV.isNan then (.nan false, fl)
  else
    let pos := l.any fun x => x.isInf && !x.neg
    let ngi := l.any fun x => x.isInf && x.neg
    if pos && ngi then (.nan false, fl ||| fNV)
    else if pos then (.inf false, fl)
    else if ngi then (.inf true, fl)
    else
      let q := minExp l
      let t := finSum q l
      if t = 0 then
        (.fin (if l.all FV.neg && !l.isEmpty then true else if l.all fun x => !x.neg then false else rdn) 0 0, fl)
      else (.fin (t < 0) t.natAbs q, fl)

/-- The exact sum of two values. -/
def FV.add (rdn : Bool) (a b : FV) : FV × FFlags := FV.sum rdn [a, b]

/-- a × b + c, exact; NV for 0 × ∞ even when c is a quiet NaN (R208). -/
def FV.fma (rdn : Bool) (a b c : FV) : FV × FFlags :=
  let (p, f) := a.mul b
  let (s, g) := FV.sum rdn [p, c]
  (s, f ||| g)

/-- The order of two values that are not NaN; the zeros are equal. -/
def FV.compare (a b : FV) : Ordering :=
  match a, b with
  | .inf n, .inf k => if n = k then .eq else if n then .lt else .gt
  | .inf n, _ => if n then .lt else .gt
  | _, .inf n => if n then .gt else .lt
  | .fin n m e, .fin k p g =>
    let q := min e g
    order (signed n (scaleTo m e q)) (signed k (scaleTo p g q))
  | _, _ => .eq
where
  order (x y : Int) : Ordering := if x < y then .lt else if x = y then .eq else .gt

/-! ## Rounding (R61 to R64) -/

/-- The neighbour hash of R64. -/
def srMix (a b : Nat) : Nat :=
  let t := (a * 0x9E37 + b * 0x7F4B + 0x3C6D) % 65536
  let t := t ^^^ (t >>> 7)
  let t := t * 0xA5B3 % 65536
  t ^^^ (t >>> 9)

/-- Bits in the binary form of a positive number. -/
def bitLen (n : Nat) : Nat := if n = 0 then 0 else n.log2 + 1

/-- A magnitude against a grid of spacing 2^q: how many spacings, and the remainder in 2^-k of a spacing. -/
structure GridPt where
  n : Nat
  rem : Nat
  k : Nat
  deriving DecidableEq, Repr

/-- The grid point at or below m × 2^e. -/
def gridAt (m : Nat) (e q : Int) : GridPt :=
  if q ≤ e then ⟨scaleTo m e q, 0, 0⟩
  else
    let k := (q - e).toNat
    ⟨m >>> k, m % 2 ^ k, k⟩

/-- The spacing exponent of the format's grid at a magnitude: subnormal spacing below, the top binade's above
(R61 step 3). -/
def Fmt.spacing (f : Fmt) (m : Nat) (e : Int) : Int :=
  min (max (e + bitLen m - 1 - f.fb) f.minQ) f.maxQ

/-- The discard word of a grid remainder (R62). -/
def GridPt.discard (g : GridPt) : Nat := (g.rem <<< 16) >>> g.k

/-- Whether the magnitude is rounded up (R61 step 3, R64). `t` is the neighbour hash. -/
def GridPt.up (g : GridPt) (mode : Rm) (neg : Bool) (t : Nat) : Bool :=
  g.rem != 0 &&
  match mode with
  | .rne => 2 * g.rem > 2 ^ g.k || (2 * g.rem = 2 ^ g.k && g.n % 2 = 1)
  | .rtz => false
  | .rup => !neg
  | .rdn => neg
  | .sr => g.discard + t ≥ 65536

/-- The discard word of a value rounded to a format (R62). -/
def Fmt.discard (f : Fmt) : FV → Nat
  | .fin _ m e => if m = 0 then 0 else (gridAt m e (f.spacing m e)).discard
  | _ => 0

/-- How a rounding is done: mode, FTZ, saturation of 8-bit targets, and the neighbour hash for SR. -/
structure RCtl where
  mode : Rm
  ftz : Bool := false
  sat : Bool := false
  t : Nat := 0
  deriving DecidableEq, Repr

/-- A result that is too large (R51, R61 step 4). `up` says whether the magnitude was rounded up. -/
def Fmt.overflow (f : Fmt) (c : RCtl) (neg up : Bool) : Nat :=
  let toInf := match c.mode with
    | .rne => true
    | .rup => !neg
    | .rdn => neg
    | .rtz => false
    | .sr => up && f.wide
  if !f.wide && c.sat then f.maxBits
  else if !f.hasInf then f.canon
  else if toInf then f.expMask else f.maxBits

/-- The pattern of n spacings of 2^q, where the value is on the format's grid and not too large. -/
def Fmt.packMag (f : Fmt) (n : Nat) (q : Int) : Nat :=
  if n ≥ 2 ^ (f.fb + 1) then (q + 1 - f.minQ + 1).toNat * 2 ^ f.fb + (n / 2 - 2 ^ f.fb)
  else if n ≥ 2 ^ f.fb then (q - f.minQ + 1).toNat * 2 ^ f.fb + (n - 2 ^ f.fb)
  else n

/-- `Round(x, mode)` (R61, with R51 for 8-bit targets): the pattern and the flags. -/
def Fmt.round (f : Fmt) (c : RCtl) (x : FV) : Nat × FFlags :=
  match x with
  | .nan s => (f.canon, if s then fNV else 0)
  | .inf neg =>
    let sg := if neg then f.signBit else 0
    if f.wide then (f.expMask + sg, 0)
    else if c.sat then (f.maxBits + sg, fOF ||| fNX)
    else if f.hasInf then (f.expMask + sg, 0)
    else (f.canon, fOF ||| fNX)
  | .fin neg m e =>
    let sg := if neg then f.signBit else 0
    if m = 0 then (sg, 0)
    else
      let q := f.spacing m e
      let g := gridAt m e q
      let up := g.up c.mode neg c.t
      let n := if up then g.n + 1 else g.n
      let nx : FFlags := if g.rem = 0 then 0 else fNX
      if q = f.maxQ && n > f.maxM then
        let r := f.overflow c neg up
        (if f.hasInf || c.sat then r + sg else r, fOF ||| fNX)
      else if n = 0 then (sg, nx)
      else if n < 2 ^ f.fb && q = f.minQ then
        if c.ftz && f.wide then (sg, fUF ||| fNX)
        else (n + sg, if g.rem = 0 then 0 else fNX ||| fUF)
      else (f.packMag n q + sg, nx)

/-- The value rounded to an integer (R48, R211): grid of integers, the discard word and the rounded magnitude. -/
def intGrid (m : Nat) (e : Int) : GridPt := gridAt m e 0

/-- The discard word against the integers (R62). -/
def intDiscard : FV → Nat
  | .fin _ m e => if m = 0 then 0 else (intGrid m e).discard
  | _ => 0

/-- A conversion to an integer range (R48): NaN gives 0 with NV, saturation sets NV, other inexact results NX. -/
def FV.toInt (c : RCtl) (lo hi : Int) : FV → Int × FFlags
  | .nan _ => (0, fNV)
  | .inf neg => (if neg then lo else hi, fNV)
  | .fin neg m e =>
    let g := intGrid m e
    let v := signed neg (if g.up c.mode neg c.t then g.n + 1 else g.n)
    if v < lo then (lo, fNV)
    else if v > hi then (hi, fNV)
    else (v, if g.rem = 0 then 0 else fNX)

/-- The exact value of an integer; zero is +0. -/
def FV.ofInt (v : Int) : FV := .fin (v < 0) v.natAbs 0

/-! ## Minimum, maximum, comparison, class (R209 to R212) -/

/-- Whether a value is ordered below another, with −0 below +0. -/
def FV.lessZ (a b : FV) : Bool :=
  match a.compare b with
  | .lt => true
  | .gt => false
  | .eq => a.isZero && b.isZero && a.neg && !b.neg

/-- FMIN (`mx` false) or FMAX of two values (R209): the chosen value; a single NaN is passed over. -/
def FV.minMax (mx : Bool) (a b : FV) : FV :=
  if a.isNan then b
  else if b.isNan then a
  else if mx then (if a.lessZ b then b else a) else (if b.lessZ a then b else a)

/-- A pattern of a value that is already on the format's grid, without FTZ. -/
def Fmt.exact (f : Fmt) (x : FV) : Nat := (f.round { mode := .rne } x).1

/-- The class mask of a raw pattern (R212). -/
def Fmt.classMask (f : Fmt) (bits : Nat) : Nat :=
  match FV.ofBits f false bits with
  | .nan s => if s then 256 else 512
  | .inf n => if n then 1 else 128
  | .fin n m _ =>
    if m = 0 then (if n then 8 else 16)
    else if m < 2 ^ f.fb then (if n then 4 else 32)
    else if n then 2 else 64

/-- FRND (R211): the value rounded to an integral value, sign kept. -/
def FV.integral (c : RCtl) (x : FV) : FV :=
  match x with
  | .fin neg m e =>
    let g := intGrid m e
    if g.rem = 0 then x else .fin neg (if g.up c.mode neg c.t then g.n + 1 else g.n) 0
  | _ => x

/-! ## Quotients and roots (R214) -/

/-- 1/(m × 2^e) to at least 64 bits below any grid used, with a sticky bit. -/
def recipMag (m : Nat) (e : Int) : Nat × Int :=
  let s := bitLen m + 90
  let q := 2 ^ s / m
  (2 * q + (if q * m = 2 ^ s then 0 else 1), -e - s - 1)

/-- Integer square root by bits: `k` bits of result are tried from the top. -/
def isqrtGo (n : Nat) : Nat → Nat → Nat
  | 0, r => r
  | k + 1, r =>
    let c := r + 2 ^ k
    isqrtGo n k (if c * c ≤ n then c else r)

/-- Integer square root. -/
def isqrt (n : Nat) : Nat := isqrtGo n (bitLen n / 2 + 1) 0

/-- √(m × 2^e) to at least 60 bits, with a sticky bit. -/
def sqrtMag (m : Nat) (e : Int) : Nat × Int :=
  let odd := e % 2 = 1
  let m' := (if odd then 2 * m else m) * 2 ^ 128
  let e' := (if odd then e - 1 else e) - 128
  let r := isqrt m'
  (2 * r + (if r * r = m' then 0 else 1), e' / 2 - 1)

/-- The special functions (R214). -/
inductive SfKind | rcp | rsq | sqrt | exp2 | log2 | sin | cos | tanh
  deriving DecidableEq, Repr

/-- FP32 patterns of special results. -/
def f32One : Nat := 0x3F800000
/-- +∞ or −∞ in FP32. -/
def f32Inf (neg : Bool) : Nat := if neg then 0xFF800000 else 0x7F800000
/-- +0 or −0 in FP32. -/
def f32Zero (neg : Bool) : Nat := if neg then 0x80000000 else 0

/-- The special values of R215: NaN, infinities, zeros, and the negative numbers of RSQ, SQRT and LOG2. -/
def sfSpecial (k : SfKind) (x : FV) : Option (Nat × FFlags) :=
  match x with
  | .nan s => some (fp32.canon, if s then fNV else 0)
  | .inf neg =>
    match k with
    | .rcp => some (f32Zero neg, 0)
    | .rsq => some (if neg then (fp32.canon, fNV) else (f32Zero false, 0))
    | .sqrt | .log2 => some (if neg then (fp32.canon, fNV) else (f32Inf false, 0))
    | .exp2 => some (if neg then f32Zero false else f32Inf false, 0)
    | .sin | .cos => some (fp32.canon, 0)
    | .tanh => some (if neg then f32One + 0x80000000 else f32One, 0)
  | .fin neg m _ =>
    if m = 0 then
      match k with
      | .rcp => some (f32Inf neg, fDZ)
      | .rsq => some (f32Inf neg, 0)
      | .log2 => some (f32Inf true, fDZ)
      | .exp2 | .cos => some (f32One, 0)
      | .sqrt | .sin | .tanh => some (f32Zero neg, 0)
    else if neg then
      match k with
      | .rsq | .sqrt | .log2 => some (fp32.canon, fNV)
      | _ => none
    else none

/-- A free result under FTZ with its flags (R214, R61 steps 4 and 5). A subnormal result sets UF wherever R214 sets NX, so also that
of EXP2 at an integral argument, which FP32 holds exactly: R61 ties UF to the inexactness of its step 3 (DESIGN CHOICE, log 103). -/
def sfFlush (ftz : Bool) (r : Word) : Nat × FFlags :=
  let sub := r.toNat % 0x80000000 < 0x800000 && r.toNat % 0x80000000 != 0
  if sub then
    if ftz then (r.toNat / 0x80000000 * 0x80000000, fUF ||| fNX) else (r.toNat, fUF ||| fNX)
  else (r.toNat, if r.toNat % 0x80000000 = 0x7F800000 then fOF ||| fNX else fNX)

/-! ## The special functions as fixed-point numbers with 256 bits after the point (R214)

Each is the exact value to far beyond the last place that R214's bounds can tell. -/

/-- ln 2. -/
def fxLn2 : Nat := 0xb17217f7d1cf79abc9e3b39803f2f6af40f343267298b62d8a0d175b8baafa2b
/-- 2π, with 320 bits after the point. -/
def fxTau : Nat := 0x6487ed5110b4611a62633145c06e0e68948127044533e63a0105df531d89cd9128a5043cc71a026ef

/-- The exponential series of `y` from its term `t` of index `k`. -/
def fxExp (y : Nat) : Nat → Nat → Nat → Nat
  | 0, _, _ => 0
  | fuel + 1, k, t => t + fxExp y fuel (k + 1) (t * y / 2 ^ 256 / (k + 1))

/-- The series of artanh: `z` is the square of its argument and `t` the power whose coefficient is 1 / `k`. -/
def fxArtanh (z : Nat) : Nat → Nat → Nat → Nat
  | 0, _, _ => 0
  | fuel + 1, k, t => t / k + fxArtanh z fuel (k + 2) (t * z / 2 ^ 256)

/-- The alternating series of sine and cosine: `z` is the square of the angle and `t` the term of index `k`. -/
def fxTrig (z : Nat) : Nat → Nat → Nat → Int
  | 0, _, _ => 0
  | fuel + 1, k, t => (t : Int) - fxTrig z fuel (k + 2) (t * z / 2 ^ 256 / ((k + 1) * (k + 2)))

/-- 2^x of x = ± m × 2^e, for x below 128. -/
def fxExp2 (neg : Bool) (m : Nat) (e : Int) : Nat :=
  let x := signed neg (m <<< (e + 256).toNat)
  let n := x / 2 ^ 256
  let f := fxExp ((x % 2 ^ 256).toNat * fxLn2 / 2 ^ 256) 64 0 (2 ^ 256)
  if n < 0 then f >>> (-n).toNat else f <<< n.toNat

/-- log2 of m × 2^e: ln u = 2 artanh ((u - 1) / (u + 1)) of the significand u. -/
def fxLog2 (m : Nat) (e : Int) : Int :=
  let p := 2 ^ m.log2
  let z := (m - p) * 2 ^ 256 / (m + p)
  (e + m.log2) * 2 ^ 256 + (2 * fxArtanh (z * z / 2 ^ 256) 90 1 z * 2 ^ 256 / fxLn2 : Nat)

/-- sin or cos of ± m × 2^e, reduced by whole turns; a cosine lies below 1 even where the series is too short to tell. -/
def fxSinCos (cos neg : Bool) (m : Nat) (e : Int) : Int :=
  let y := m <<< (e + 320).toNat % fxTau / 2 ^ 64
  let z := y * y / 2 ^ 256
  if cos then (if y = 0 then 2 ^ 256 else min (2 ^ 256 - 1) (fxTrig z 64 0 (2 ^ 256))) else (if neg then -1 else 1) * fxTrig z 64 1 y

/-- tanh of ± m × 2^e, for a magnitude below 9, by e^2x. -/
def fxTanh (neg : Bool) (m : Nat) (e : Int) : Int :=
  let y := fxExp (m <<< (e + 257).toNat) 160 0 (2 ^ 256)
  signed neg ((y - 2 ^ 256) * 2 ^ 256 / (y + 2 ^ 256))

/-- `n` FP32 ulp of a value. R214 defines no ulp: here it is that of the exact value's binade (DESIGN CHOICE, log 102). -/
def fxUlps (n : Nat) (a : Int) : Nat := n * 2 ^ (Nat.max (a.natAbs.log2 - 23) 107)

/-- A free FP32 pattern where it lies within `b` of the value `a`; else the nearest value. The value lies within 2^-247 of the exact
one, on the same side of every FP32 pattern and of every bound (log 15). -/
def fxKeep (a : Int) (b : Nat) (r : Word) : Word :=
  let near :=
    match FV.ofBits fp32 false r.toNat with
    | .fin neg m e => decide ((signed neg (m <<< (e + 256).toNat) - a).natAbs ≤ b)
    | _ => false
  if near then r
  else BitVec.ofNat 32 (fp32.round { mode := .rne } (.fin (decide (a < 0)) a.natAbs (-256))).1

/-- Whether an FP32 pattern lies within 1 ulp of 1/√(m × 2^e), for a normal positive pattern (R214): the ulp is that of the result's
binade (DESIGN CHOICE, log 102). -/
def rsqWithin (m : Nat) (e : Int) (r : Word) : Bool :=
  match FV.ofBits fp32 false r.toNat with
  | .fin false n g =>
    -- (n - 1)^2 * 2^2g * m * 2^e ≤ 1 ≤ (n + 1)^2 * 2^2g * m * 2^e
    let p : Int := 2 * g + e
    n > 1 && r.toNat ≥ 0x800000 &&
    decide (((n - 1) * (n - 1) * m) <<< p.toNat ≤ 1 <<< (-p).toNat) &&
    decide (1 <<< (-p).toNat ≤ ((n + 1) * (n + 1) * m) <<< p.toNat)
  | _ => false

/-- 1/√x rounded to nearest, used where the free value breaks its bound. -/
def rsqNearest (m : Nat) (e : Int) : Nat :=
  let (rm, re) := recipMag m e
  let (s, g) := sqrtMag rm re
  (fp32.round { mode := .rne } (.fin false s g)).1

/-- Whether m × 2^e is a power of four. -/
def isPow4 (m : Nat) (e : Int) : Bool := 2 ^ m.log2 = m && (e + m.log2) % 2 = 0

/-- A special function of an FP32 value read under DAZ (R214, R215). RCP and SQRT are correctly rounded. The others are
exact where R214 says so and otherwise free values of `Config`, each within its bound. -/
def sfEval (k : SfKind) (c : RCtl) (bits : Word) (daz : Bool) : Nat × FFlags :=
  let x := FV.ofBits fp32 daz bits.toNat
  match sfSpecial k x, x with
  | some r, _ => r
  | none, .fin neg m e =>
    let b := BitVec.ofNat 32 (fp32.exact x)
    match k with
    | .rcp => let (q, g) := recipMag m e; fp32.round c (.fin neg q g)
    | .sqrt => let (q, g) := sqrtMag m e; fp32.round c (.fin neg q g)
    | .rsq =>
      if isPow4 m e then ((fp32.round { mode := .rne } (.fin false 1 (-(e + m.log2) / 2))).1, 0)
      else
        let r := Config.rsq b
        (if rsqWithin m e r then r.toNat else rsqNearest m e, fNX)
    | .exp2 =>
      let g := intGrid m e
      let v := signed neg g.n
      if g.rem = 0 && -126 ≤ v && v ≤ 127 then ((fp32.round { mode := .rne } (.fin false 1 v)).1, 0)
      else if 128 ≤ v then (f32Inf false, fOF ||| fNX)
      else
        let a := (fxExp2 neg m e : Int)
        sfFlush c.ftz (fxKeep a (fxUlps 2 a) (Config.exp2 b))
    | .log2 =>
      if 2 ^ m.log2 = m then ((fp32.round { mode := .rne } (FV.ofInt (e + m.log2))).1, 0)
      else
        let a := fxLog2 m e
        let centre := (FV.fin false m (e + 1)).compare (.fin false 1 0) != .lt && (FV.fin false m e).compare (.fin false 2 0) != .gt
        sfFlush c.ftz (fxKeep a (if centre then 2 ^ 234 else fxUlps 2 a) (Config.log2 b))
    | .sin => sfFlush c.ftz (fxKeep (fxSinCos false neg m e) (2 ^ 234) (Config.sin b))
    | .cos => sfFlush c.ftz (fxKeep (fxSinCos true neg m e) (2 ^ 234) (Config.cos b))
    | .tanh =>
      if (FV.fin false m e).compare (.fin false 9 0) = .lt then
        let a := fxTanh neg m e
        sfFlush c.ftz (fxKeep a (fxUlps 2 a) (Config.tanh b))
      else (if neg then f32One + 0x80000000 else f32One, fNX)
  | none, _ => (fp32.canon, 0)

/-- The discard word of a special function's element (R62): RCP and SQRT only. -/
def sfDiscard (k : SfKind) (bits : Word) (daz : Bool) : Nat :=
  match sfSpecial k (FV.ofBits fp32 daz bits.toNat), FV.ofBits fp32 daz bits.toNat with
  | none, .fin neg m e =>
    match k with
    | .rcp => let (q, g) := recipMag m e; fp32.discard (.fin neg q g)
    | .sqrt => let (q, g) := sqrtMag m e; fp32.discard (.fin neg q g)
    | _ => 0
  | _, _ => 0

/-! ## Blocks (R52 to R58, R218 to R221) -/

/-- Eight times the magnitudes of codes 0 to 7 of the block types 1, 2 and 3 (R54). -/
def blockMag (t : Nat) : List Nat :=
  match t with
  | 1 => [0, 4, 8, 12, 16, 24, 32, 48]
  | 2 => [0, 1, 2, 4, 8, 16, 32, 64]
  | _ => [0, 8, 16, 24, 32, 40, 64, 96]

/-- Eight times the value of a code, with its sign (R54). -/
def blockCode (t c : Nat) : Bool × Nat :=
  if t = 0 then (c ≥ 8, 8 * (if c ≥ 8 then 16 - c else c))
  else (c ≥ 8, (blockMag t).getD (c % 8) 0)

/-- The exact value of a code under a scale exponent field (R53, R54). -/
def blockValue (t c sexp : Nat) : FV :=
  let (n, m) := blockCode t c
  .fin n m ((sexp : Int) - 35)

/-- The table of a type, ascending, as eight times the value and its code; the zero is code 0 (R54, R55). -/
def blockTable (t : Nat) : List (Int × Nat) :=
  let negs := if t = 0 then [15, 14, 13, 12, 11, 10, 9, 8] else [9, 10, 11, 12, 13, 14, 15]
  (negs.reverse ++ [0, 1, 2, 3, 4, 5, 6, 7]).map fun c =>
    let (n, m) := blockCode t c
    (signed n m, c)

/-- The two neighbouring table entries that bracket y, as (below, above). -/
def bracketIn (lt : Int → Bool) : List (Int × Nat) → Option ((Int × Nat) × (Int × Nat))
  | a :: b :: l => if lt b.1 then some (a, b) else bracketIn lt (b :: l)
  | _ => none

/-- How a value stands to a block's table: out of range, on an entry, or between two with the numerator over 2^k. -/
inductive QPos
  | out (code : Nat)
  | on (code : Nat)
  | mid (below above : Int × Nat) (y : Int) (k : Nat)
  deriving DecidableEq, Repr

/-- Eight times x/σ as an integer over 2^k. -/
def quantPos (t sexp : Nat) (neg : Bool) (m : Nat) (e : Int) : QPos :=
  let p : Int := e + 35 - sexp
  let k := (-p).toNat
  let y := signed neg (m <<< p.toNat)
  let tab := blockTable t
  let lo := tab.headD (0, 0)
  let hi := tab.getLastD (0, 0)
  if y > hi.1 * 2 ^ k then .out hi.2
  else if y < lo.1 * 2 ^ k then .out lo.2
  else
    match tab.find? fun a => a.1 * 2 ^ k = y with
    | some a => .on a.2
    | none =>
      match bracketIn (fun v => y < v * 2 ^ k) tab with
      | some (b, a) => .mid b a y k
      | none => .on 0

/-- The discard word of a quantisation (R55, R62). -/
def quantDiscard (t sexp : Nat) : FV → Nat
  | .fin neg m e =>
    match quantPos t sexp neg m e with
    | .mid b a y k =>
      let (lo, hi) := if neg then (a.1, b.1) else (b.1, a.1)
      ((y - lo * 2 ^ k).natAbs <<< 16) / ((hi - lo).natAbs * 2 ^ k)
    | _ => 0
  | _ => 0

/-- Quantising a value to a code (R55). -/
def quantise (t sexp : Nat) (c : RCtl) (x : FV) : Nat × FFlags :=
  match x with
  | .nan _ => (0, fNV)
  | .inf neg => (if neg then (if t = 0 then 8 else 15) else 7, fOF ||| fNX)
  | .fin neg m e =>
    match quantPos t sexp neg m e with
    | .out code => (code, fOF ||| fNX)
    | .on code => (code, 0)
    | .mid b a y k =>
      let below := y - b.1 * 2 ^ k
      let above := a.1 * 2 ^ k - y
      let (lo, hi) := if neg then (a, b) else (b, a)
      let pick := match c.mode with
        | .rne => if below < above then b else if above < below then a else if b.2 % 2 = 0 then b else a
        | .rtz => lo
        | .rup => a
        | .rdn => b
        | .sr => if quantDiscard t sexp x + c.t ≥ 65536 then hi else lo
      (pick.2, fNX)

/-- The largest code magnitude of a type, times one (R219). -/
def blockMax (t : Nat) : Nat :=
  match t with
  | 0 => 7 | 1 => 6 | 2 => 8 | _ => 12

/-- The smallest s of `k` tried upward from `s` with amax ≤ m × 2^(s − 32) (R219). -/
def scaleSearch (amax : FV) (m : Nat) : Nat → Nat → Nat
  | 0, s => s
  | k + 1, s => if amax.compare (.fin false m ((s : Int) - 32)) = .gt then scaleSearch amax m k (s + 1) else s

/-- QSCALE's scale byte (R219). -/
def qscaleByte (t : Nat) (amax : FV) : Nat :=
  64 * t +
  (if amax.isZero then 0 else if amax.isInf then 63 else scaleSearch amax (blockMax t) 63 0)

/-- The fields of a format word (R56). -/
structure FmtWord where
  sparse : Bool
  cplx : Bool
  splane : Bool
  bov : Bool
  btype : Nat
  efmt : Nat
  deriving DecidableEq, Repr

/-- A format word's fields (R56). -/
def FmtWord.ofWord (w : Word) : FmtWord where
  sparse := w.getLsbD 9
  cplx := w.getLsbD 8
  splane := w.getLsbD 7
  bov := w.getLsbD 6
  btype := (w.extractLsb' 4 2).toNat
  efmt := (w.extractLsb' 0 4).toNat

/-- Malformed format words, but for the agreement of two words in CPLX (R57, R58). -/
def fmtMalformed (isA : Bool) (w : Word) : Bool :=
  let f := FmtWord.ofWord w
  w.extractLsb' 10 22 != 0 || f.efmt = 0 || f.efmt > 5 ||
  (f.efmt != 5 && (f.splane || f.bov || f.btype != 0)) ||
  (f.efmt = 5 && !f.splane && !f.bov) ||
  (f.cplx && f.efmt = 5) || (f.sparse && isA)

/-- The float format of an EFMT code other than Q4 (R56). -/
def efmtOf (n : Nat) : Fmt :=
  match n with
  | 1 => fp16 | 2 => bf16 | 3 => e4m3 | _ => e5m2

end Sys2Proof.Machine
end

