-- ==== Sys2Proof/Machine/Alu.lean ====
section
/-! DEFINITION. Integer arithmetic that the Spur and the lane engine share (R140, R145 to R147, R150, R201 to R205). -/

namespace Sys2Proof.Machine

/-- The low `w` bits. -/
def lowOfW (w : Nat) (x : DWord) : Nat := x.toNat % 2 ^ w

/-- A number of `w` bits as a signed integer. -/
def signedW (w n : Nat) : Int := if n ≥ 2 ^ (w - 1) then (n : Int) - 2 ^ w else n

/-- `View(x)` (R140): the low `w` bits as signed or unsigned. -/
def viewW (w : Nat) (sg : Bool) (x : DWord) : Int := if sg then signedW w (lowOfW w x) else lowOfW w x

/-- `Ext(r)` (R140): r mod 2^w, sign- or zero-extended to 64 bits. -/
def extW (w : Nat) (sg : Bool) (r : Int) : DWord :=
  let n := (r % 2 ^ w).toNat
  if sg then BitVec.ofInt 64 (signedW w n) else BitVec.ofNat 64 n

/-- Shift count: the source mod w (R145, R204). -/
def shiftCnt (w : Nat) (b : DWord) : Nat := b.toNat % w

/-- SHL. -/
def aluShl (w : Nat) (a b : DWord) : Int := (lowOfW w a * 2 ^ shiftCnt w b : Nat)
/-- SHR: zeros enter. -/
def aluShr (w : Nat) (a b : DWord) : Int := (lowOfW w a / 2 ^ shiftCnt w b : Nat)
/-- SAR: copies of bit w − 1 enter, whatever the signedness. -/
def aluSar (w : Nat) (a b : DWord) : Int := signedW w (lowOfW w a) / (2 ^ shiftCnt w b : Nat)
/-- ROT: rotated left. -/
def aluRot (w : Nat) (a b : DWord) : Int :=
  let k := shiftCnt w b
  (lowOfW w a * 2 ^ k % 2 ^ w + lowOfW w a / 2 ^ (w - k) : Nat)
/-- MULH: floor(a × b / 2^w). -/
def aluMulh (w : Nat) (a b : Int) : Int := (a * b) / (2 ^ w : Nat)
/-- ANDN. -/
def aluAndn (w : Nat) (a b : DWord) : Int := (lowOfW w (a &&& ~~~b) : Nat)
/-- CLZ. -/
def aluClz (w : Nat) (a : DWord) : Int := (w - bitLen (lowOfW w a) : Nat)
/-- POPC. -/
def aluPopc (w : Nat) (a : DWord) : Int := ((List.range w).filter fun i => a.getLsbD i).length
/-- BREV: bit k moves to bit w − 1 − k. -/
def aluBrev (w : Nat) (a : DWord) : Int :=
  ((List.range w).foldl (fun n i => n + if a.getLsbD i then 2 ^ (w - 1 - i) else 0) 0 : Nat)

/-- A field of the low bits, extended from its top bit when signed; an empty field is 0 (R147, R205). -/
def aluBfx (sg : Bool) (a : DWord) (pos len : Nat) : Int :=
  if len = 0 then 0
  else
    let f := a.toNat / 2 ^ pos % 2 ^ len
    if sg then signedW len f else f

/-- A field inserted (R147, R205). -/
def aluBfi (t a : DWord) (pos len : Nat) : Int :=
  (t.toNat - t.toNat / 2 ^ pos % 2 ^ len * 2 ^ pos + a.toNat % 2 ^ len * 2 ^ pos : Nat)

/-- The condition of a comparison code (R150). -/
def aluCmp (w : Nat) (sg : Bool) (cc : CC) (a b : DWord) : Bool :=
  let x := viewW w sg a
  let y := viewW w sg b
  match cc with
  | .eq => x = y
  | .ne => x ≠ y
  | .lt => x < y
  | .le => x ≤ y
  | .gt => x > y
  | .ge => x ≥ y
  | .tst => lowOfW w (a &&& b) ≠ 0

/-- Quotient or remainder of DIVS and DIVZ (R146). -/
def aluDiv (w : Nat) (sg rem : Bool) (a b : DWord) : Int :=
  let x := viewW w sg a
  let y := viewW w sg b
  if y = 0 then (if rem then x else if sg then -1 else 2 ^ w - 1)
  else
    let q := x.tdiv y
    if rem then x - q * y else q

end Sys2Proof.Machine
end

