-- ==== Sys2Proof/WellFormed.lean ====
section
/-! DEFINITION. Which instructions are well formed: the operand positions of every instruction with the width or
kind each position takes (R139, R144, R155, R197, R200, R206, R222, R227, R235, R268, R349, R432, R440, R466),
and the checks 5 to 7 of R83 over them. The encoder and the round-trip claims are stated for these. -/

namespace Sys2Proof

/-- The engine that decodes an instruction (R84 to R91). -/
inductive Engine | spur | lane
  deriving DecidableEq, Repr

/-- The context of the decode checks: the engine, and the declared main-file count of the TG (R78). -/
structure Cx where
  eng : Engine
  regs : Nat
  deriving DecidableEq, Repr

/-- Kinds of source position. `w32m` is a 32-bit position that takes no predicate in a uniform instruction (R270);
`imm` takes file 0b11 only (R149, R204). -/
inductive SK | w32 | w32m | w64 | imm
  deriving DecidableEq, Repr

/-- Kinds of destination position. `vo` is `v` or `o`; `w32g`, `vog`, `w64g` name a whole-TG destination too (R77);
`vog`, `w64s` and `w64gs` are `s` only in Spur code (R287, R167, R349). -/
inductive DK | w32 | vo | w64 | quad | w32g | vog | w64g | w64s | w64gs
  deriving DecidableEq, Repr

/-- How an instruction's U bit may stand (R72). -/
inductive UC | no | opt | req
  deriving DecidableEq, Repr

/-- One operand position. -/
inductive Slot
  | none
  | src (k : SK) (x : Src)
  | dst (k : DK) (x : Dst)
  /-- an `s` register in file 0b00 (Spur D positions that allow nothing else) -/
  | sreg (n : BitVec 8)
  /-- a `g` register with at most the given number -/
  | greg (n : BitVec 5) (most : Nat)
  /-- a CSR number in file 0b10 -/
  | csr (n : BitVec 8)
  /-- half of a 20-bit offset (R81) -/
  | bits (x : BitVec 10)
  deriving DecidableEq, Repr

/-- The operand positions of an instruction, and its U column. `extra` holds the modifier rules that tie fields
together. -/
structure Shape where
  h : Hd
  u : UC
  d : Slot := .none
  a : Slot := .none
  b : Slot := .none
  c : Slot := .none
  extra : Bool := true
  deriving DecidableEq, Repr

/-- A position of the width the lane type names. -/
def LT.sk : LT → SK
  | .s32 | .z32 => .w32
  | .s64 | .z64 => .w64

/-- A destination of the width the lane type names. -/
def LT.dk : LT → DK
  | .s32 | .z32 => .w32
  | .s64 | .z64 => .w64

/-- A data destination of the width the load size names (R268). -/
def LSz.dk : LSz → DK
  | .b64 => .w64
  | .b128 => .quad
  | _ => .vo

/-- A data destination of an atomic (R268). -/
def atomDk (w64 : Bool) : DK := if w64 then .w64 else .vo

/-- A data operand of an atomic (R268). -/
def atomSk (w64 : Bool) : SK := if w64 then .w64 else .w32

/-- Sizes that a store has (R270: codes 2, 4 and 7 are reserved for ST). -/
def LSz.storable : LSz → Bool
  | .z8 | .z16 => false
  | _ => true

/-- Sizes that SST has (R153). -/
def SSz.storable : SSz → Bool
  | .z8 | .z16 | .z32 => false
  | _ => true

/-- CVT types that are floats (R216). -/
def Cvt.isFloat : Cvt → Bool
  | .f32 | .f16 | .bf16 | .e4m3 | .e5m2 => true
  | _ => false

/-- The legal CV values and the use of SAT (R216). -/
def cvtLegal (dt st : Cvt) (sat : Bool) : Bool :=
  (dt.isFloat || st.isFloat || (dt == .s8 && (st == .s32 || st == .z32)) || (dt == .s32 && st == .s8)) &&
  (!sat || dt == .e4m3 || dt == .e5m2)

/-- The low half of a 20-bit offset, held in the B position (R81). -/
def offLo (off : BitVec 20) : BitVec 10 := off.extractLsb' 0 10

/-- The high half of a 20-bit offset, held in the C position (R81). -/
def offHi (off : BitVec 20) : BitVec 10 := off.extractLsb' 10 10

/-- The positions of every instruction that has a full form (R73). Rows without one (events, compact forms,
Couloir commands, requests) answer `none`. D of ATOMF is no predicate (DESIGN CHOICE, log 105): R268's column gives it '32', which
by R197 names a predicate too, and its text gives a data destination of 32 bits as a `v` or `o` register. -/
def Instr.shape : Instr → Option Shape
  | .add h _ d a b | .sub h _ d a b | .mul h _ d a b | .mulh h _ d a b | .spurAnd h _ d a b
  | .spurOr h _ d a b | .spurXor h _ d a b | .spurAndn h _ d a b | .spurShl h _ d a b | .spurShr h _ d a b
  | .spurSar h _ d a b | .rot h _ d a b | .min h _ d a b | .max h _ d a b =>
    some { h, u := .no, d := .dst .w64 d, a := .src .w64 a, b := .src .w64 b }
  | .divs h _ _ d a b | .divz h _ _ d a b | .cmp h _ _ d a b =>
    some { h, u := .no, d := .dst .w64 d, a := .src .w64 a, b := .src .w64 b }
  | .spurClz h _ d a | .spurPopc h _ d a | .spurMov h _ d a =>
    some { h, u := .no, d := .dst .w64 d, a := .src .w64 a }
  | .spurBfx h _ d a b c | .lea h _ d a b c | .spurSel h d a b c =>
    some { h, u := .no, d := .dst .w64 d, a := .src .w64 a, b := .src .w64 b, c := .src .w64 c }
  | .spurBfi h _ d a b c =>
    some { h, u := .no, d := .sreg d, a := .src .w64 a, b := .src .w64 b, c := .src .w64 c }
  | .spurLi h w hi d a =>
    some { h, u := .no, d := .sreg d, a := .src .imm a, extra := !hi || w == .s64 }
  | .br h off => some { h, u := .no, b := .bits (offLo off), c := .bits (offHi off) }
  | .call h d off | .loopn h d off =>
    some { h, u := .no, d := .sreg d, b := .bits (offLo off), c := .bits (offHi off) }
  | .jmp h d a => some { h, u := .no, d := .sreg d, a := .src .w64 a }
  | .ret h a => some { h, u := .no, a := .src .w64 a }
  | .sld h _ _ d a b => some { h, u := .no, d := .dst .w64 d, a := .src .w64 a, b := .src .w64 b }
  | .sst h sz _ d a b =>
    some { h, u := .no, d := .sreg d, a := .src .w64 a, b := .src .w64 b, extra := sz.storable }
  | .samo h op _ _ d a b c =>
    some { h, u := .no, d := .dst .w64 d, a := .src .w64 a, b := .src .w64 b
           c := match c with | some c => .src .w64 c | none => .none
           extra := (op == .cas) == c.isSome }
  | .fork h d a => some { h, u := .no, d := .sreg d, a := .src .w64 a }
  | .rdzv h d a => some { h, u := .no, d := .dst .w64 d, a := .src .w64 a }
  | .wspawn h _ d a b c | .cprog h d a b c =>
    some { h, u := .no, d := .dst .w64 d, a := .src .w64 a, b := .src .w64 b, c := .src .w64 c }
  | .dqput h a | .trap h a => some { h, u := .no, a := .src .w64 a }
  | .launch h _ t a =>
    some { h, u := .no, a := .src .w64 a, d := match t with | some d => .dst .w64 d | none => .none }
  | .ljoin h a b => some { h, u := .no, a := .src .w64 a, b := .src .w64 b }
  | .yield h | .sdone h => some { h, u := .no }
  | .iadd h t _ d a b | .isub h t _ d a b => some { h, u := .opt, d := .dst t.dk d, a := .src t.sk a, b := .src t.sk b }
  | .imul h t d a b | .imulh h t d a b | .imin h t d a b | .imax h t d a b | .and h t d a b | .or h t d a b
  | .xor h t d a b | .andn h t d a b => some { h, u := .opt, d := .dst t.dk d, a := .src t.sk a, b := .src t.sk b }
  | .imad h t _ d a b c =>
    some { h, u := .opt, d := .dst t.dk d, a := .src t.sk a, b := .src t.sk b, c := .src t.sk c }
  | .idot4 h _ _ _ d a b c =>
    some { h, u := .no, d := .dst .w32 d, a := .src .w32 a, b := .src .w32 b, c := .src .w32 c }
  | .iabs h t _ d a =>
    some { h, u := .opt, d := .dst t.dk d, a := .src t.sk a, extra := t == .s32 || t == .s64 }
  | .shl h t d a b | .shr h t d a b | .sar h t d a b =>
    some { h, u := .opt, d := .dst t.dk d, a := .src t.sk a, b := .src .w32 b }
  | .bfx h t d a b c | .bfi h t d a b c =>
    some { h, u := .opt, d := .dst t.dk d, a := .src t.sk a, b := .src .w32 b, c := .src .w32 c }
  | .popc h t d a | .clz h t d a => some { h, u := .opt, d := .dst .w32 d, a := .src t.sk a }
  | .brev h t d a | .mov h t d a => some { h, u := .opt, d := .dst t.dk d, a := .src t.sk a }
  | .icmp h t _ d a b => some { h, u := .opt, d := .dst .w32 d, a := .src t.sk a, b := .src t.sk b }
  | .sel h t d a b c =>
    some { h, u := .opt, d := .dst t.dk d, a := .src t.sk a, b := .src t.sk b, c := .src .w32 c }
  | .li h d a => some { h, u := .opt, d := .dst .w32 d, a := .src .imm a }
  | .fadd h _ d a b | .fsub h _ d a b | .fmul h _ d a b | .fmin h _ d a b | .fmax h _ d a b
  | .fcmp h _ _ d a b | .f2add h _ d a b | .f2mul h _ d a b =>
    some { h, u := .no, d := .dst .w32 d, a := .src .w32 a, b := .src .w32 b }
  | .ffma h _ d a b c | .f2fma h _ d a b c | .fdot2 h _ d a b c | .prmt h d a b c =>
    some { h, u := .no, d := .dst .w32 d, a := .src .w32 a, b := .src .w32 b, c := .src .w32 c }
  | .frnd h _ _ d a | .fclass h _ d a | .rcp h d a | .rsq h d a | .sqrt h d a | .exp2 h d a | .log2 h d a
  | .sin h d a | .cos h d a | .tanh h d a => some { h, u := .no, d := .dst .w32 d, a := .src .w32 a }
  | .cvt h dty sty sat _ d a =>
    some { h, u := .no, d := .dst .w32 d, a := .src .w32 a, extra := cvtLegal dty sty sat }
  | .qpack h q d a b =>
    some { h, u := .no, d := .dst .w32 d, a := .src (if q = .f32 then .w64 else .w32) a, b := .src .w32 b }
  | .qunpk h q d a b =>
    some { h, u := .no, d := .dst (if q = .f32 then .w64 else .w32) d, a := .src .w32 a, b := .src .w32 b }
  | .qscale h q _ d a =>
    some { h, u := .no, d := .dst .w32g d, a := .src (if q = .f32 then .w64 else .w32) a }
  | .shfl h _ d a b => some { h, u := .no, d := .dst .vo d, a := .src .w32 a, b := .src .w32 b }
  | .vote h _ d a | .redux h _ d a => some { h, u := .no, d := .dst .w32g d, a := .src .w32 a }
  | .scan h _ _ d a => some { h, u := .no, d := .dst .vo d, a := .src .w32 a }
  | .bra h r off =>
    some { h, u := .opt, a := match r with | some a => .src .imm a | none => .none
           b := .bits (offLo off), c := .bits (offHi off), extra := !(h.u && r.isSome) }
  | .reconv h | .fuse h | .exit h | .waitst h => some { h, u := .no }
  | .dpush h g => some { h, u := .req, d := .greg g 29 }
  | .dpop h g => some { h, u := .req, a := .greg g 29 }
  | .dqpop h g => some { h, u := .req, d := .greg g 31 }
  | .bar h a b | .arrive h a b => some { h, u := .no, a := .src .w32 a, b := .src .w32 b }
  | .barm h a => some { h, u := .no, a := .src .w64 a }
  | .await h a | .sbar h _ a => some { h, u := .no, a := .src .w32 a }
  | .ld h sz _ d a b =>
    some { h, u := .opt, d := .dst sz.dk d, a := .src .w64 a, b := .src .w32m b, extra := !(h.u && sz == .b128) }
  | .st h sz _ d a b =>
    some { h, u := .no, d := .dst sz.dk d, a := .src .w64 a, b := .src .w32m b, extra := sz.storable }
  | .lds h sz _ d a b =>
    some { h, u := .opt, d := .dst sz.dk d, a := .src .w32m a, b := .src .w32m b, extra := !(h.u && sz == .b128) }
  | .sts h sz _ d a b =>
    some { h, u := .no, d := .dst sz.dk d, a := .src .w32m a, b := .src .w32m b, extra := sz.storable }
  | .atom h op w _ d a b =>
    some { h, u := .no, d := .dst (atomDk w) d, a := .src .w64 a, b := .src (atomSk w) b, extra := !(op == .pmax) }
  | .atoms h op w _ d a b =>
    some { h, u := .no, d := .dst (atomDk w) d, a := .src .w32 a, b := .src (atomSk w) b
           extra := !(op == .pmax && w) }
  | .atomf h _ _ _ d a b => some { h, u := .no, d := .dst .vo d, a := .src .w64 a, b := .src .w32 b }
  | .cas h w _ d a b c =>
    some { h, u := .no, d := .dst (atomDk w) d, a := .src .w64 a, b := .src (atomSk w) b, c := .src (atomSk w) c }
  | .fence h _ _ => some { h, u := .no }
  | .pref h _ a b => some { h, u := .no, a := .src .w64 a, b := .src .w32 b }
  | .rres h d a | .rget h d a => some { h, u := .no, d := .dst .w64g d, a := .src .w32 a }
  | .rpub h a b | .rrel h a b => some { h, u := .no, a := .src .w32 a, b := .src .w64 b }
  | .cairn h _ d => some { h, u := .no, d := .dst .vog d }
  | .cscrub h a b => some { h, u := .no, a := .src .w64 a, b := .src .w32 b }
  | .walk h d a => some { h, u := .no, d := .sreg d, a := .src .w64 a }
  | .wstat h _ d a => some { h, u := .no, d := .dst .w64gs d, a := .src .w32 a }
  | .wpause h d a | .wresume h d a | .wcancel h d a => some { h, u := .no, d := .dst .w64 d, a := .src .w64 a }
  | .hreg h _ a b c => some { h, u := .no, a := .src .w64 a, b := .src .w64 b, c := .src .w64 c }
  | .hunreg h a => some { h, u := .no, a := .src .w64 a }
  | .hdesc h d a => some { h, u := .no, d := .dst .w64g d, a := .src .w32 a }
  | .acld h nw d a b =>
    some { h, u := .no, d := .dst (match nw with | .x1 => .w32 | .x2 => .w64 | .x4 => .quad) d
           a := .src .w32 a, b := .src .w32 b }
  | .hret h a => some { h, u := .no, a := .src .w32 a }
  | .nop h | .xret h _ | .scle h => some { h, u := .no }
  | .csrr h d n => some { h, u := .opt, d := .dst .w64 d, a := .csr n }
  | .csrrTrctl h d => some { h, u := .opt, d := .dst .w64 d, a := .csr 0x91 }
  | .csrw h n a => some { h, u := .opt, d := .csr n, a := .src .w64 a }
  | .csrwRaceidx h a => some { h, u := .opt, d := .csr 0x82, a := .src .w64 a }
  | .csrwTrctl h a => some { h, u := .opt, d := .csr 0x91, a := .src .w64 a }
  | .csrwTrrd h a => some { h, u := .opt, d := .csr 0x92, a := .src .w64 a }
  | .csrwHpool h a => some { h, u := .opt, d := .csr 0x25, a := .src .w64 a }
  | .csrwRlgeom h n a => some { h, u := .opt, d := .csr (0x41 + 4 * n.setWidth 8), a := .src .w64 a }
  | .csrwRlpos h n a => some { h, u := .opt, d := .csr (0x42 + 4 * n.setWidth 8), a := .src .w64 a }
  | .csrwHshare h a => some { h, u := .opt, d := .csr 0x20, a := .src .w64 a }
  | .csrwMreqcap h a => some { h, u := .opt, d := .csr 0x9A, a := .src .w64 a }
  | .csrwDbgctl h a => some { h, u := .opt, d := .csr 0xA0, a := .src .w64 a }
  | .time h d | .cyc h d => some { h, u := .opt, d := .dst .w64s d }
  | .sadl h _ d a => some { h, u := .opt, d := .dst .w64s d, a := .src .w32 a }
  | .sclr h d a => some { h, u := .opt, d := .dst .w32 d, a := .src .w32 a }
  | .bkpt h a | .trigw h _ a | .mark h a => some { h, u := .no, a := .src .w32 a }
  | _ => none

/-- A main-file index that the TG or the Spur has, naming `n` consecutive registers from an aligned index
(R75, R78, R268). -/
def mainOk (cx : Cx) (idx : BitVec 8) (n : Nat) : Bool :=
  match cx.eng with
  | .spur => idx.toNat < 64
  | .lane => idx.toNat % n = 0 && idx.toNat + n ≤ cx.regs

/-- A source specifier allowed at a position of kind `k` (R16, R75, R76, R197, R270). -/
def Src.ok (cx : Cx) (u lit : Bool) (k : SK) (x : Src) : Bool :=
  match x with
  | .imm b => !(lit && b == 0xFF)
  | .lit => lit
  | .main n => k != .imm && !u && mainOk cx n (if k = .w64 && cx.eng = .lane then 2 else 1)
  | .pred _ => k != .imm && (cx.eng = .spur || (k != .w64 && !(u && k = .w32m)))
  | .opnd _ => k != .imm && cx.eng = .lane && k != .w64 && !u
  | .l0 => k != .imm && cx.eng = .lane && k != .w64 && !u
  | .grp _ => k != .imm && cx.eng = .lane

/-- A destination specifier allowed at a position of kind `k` (R77, R139, R197, R268). -/
def Dst.ok (cx : Cx) (u : Bool) (k : DK) (x : Dst) : Bool :=
  match cx.eng, x with
  | .spur, .main n => mainOk cx n 1
  | .spur, .pred _ => !(k = .vog || k = .w64s || k = .w64gs)
  | .spur, _ => false
  | .lane, .main n =>
    !u && mainOk cx n (match k with | .quad => 4 | .w64 | .w64g | .w64s | .w64gs => 2 | _ => 1)
  | .lane, .opnd _ => !u && (k = .w32 || k = .vo || k = .w32g || k = .vog)
  | .lane, .pred _ => k = .w32 || k = .w32g
  | .lane, .grp _ => u && !(k = .quad) || k = .w32g || k = .vog || k = .w64g || k = .w64gs

/-- A position that passes check 7 of R83. -/
def Slot.ok (cx : Cx) (u lit : Bool) : Slot → Bool
  | .none => true
  | .src k x => x.ok cx u lit k
  | .dst k x => x.ok cx u k
  | .sreg n => cx.eng = .spur && n.toNat < 64
  | .greg n most => cx.eng = .lane && n.toNat ≤ most
  | .csr _ => true
  | .bits _ => true

/-- A position that names the literal (R79). -/
def Slot.isLit : Slot → Bool
  | .src _ .lit => true
  | _ => false

/-- The header checks: PRED 7 with PN 1 is reserved, and U stands as the U column says (R72, R83 check 5). -/
def Hd.ok (cx : Cx) (h : Hd) (c : UC) : Bool :=
  !(h.pred == 7 && h.pn) &&
  match c with
  | .no => !h.u
  | .opt => !(h.u && cx.eng = .spur)
  | .req => h.u

/-- All of an instruction's positions, header and modifier rules hold; a 96-bit form names its literal. -/
def Shape.ok (cx : Cx) (s : Shape) : Bool :=
  s.h.ok cx s.u && s.extra &&
  s.d.ok cx s.h.u s.h.lit.isSome && s.a.ok cx s.h.u s.h.lit.isSome &&
  s.b.ok cx s.h.u s.h.lit.isSome && s.c.ok cx s.h.u s.h.lit.isSome &&
  (s.h.lit.isSome == (s.a.isLit || s.b.isLit || s.c.isLit))

/-- Numbers whose CSRR or CSRW is a row of its own (`csrwRaceidx` and its neighbours). -/
def csrwSpecial (n : BitVec 8) : Bool :=
  n == 0x82 || n == 0x91 || n == 0x92 || n == 0x25 || n == 0x20 || n == 0x9A || n == 0xA0 ||
  (0x40 ≤ n.toNat && n.toNat ≤ 0x7F && (n.toNat % 4 = 1 || n.toNat % 4 = 2))

/-- The engine that has the instruction (R84 to R91); shared rows are on both. -/
def Instr.onEngine (e : Engine) (i : Instr) : Bool :=
  match i with
  | .add .. | .sub .. | .mul .. | .mulh .. | .divs .. | .divz .. | .spurAnd .. | .spurOr .. | .spurXor ..
  | .spurAndn .. | .spurShl .. | .spurShr .. | .spurSar .. | .rot .. | .min .. | .max .. | .spurClz ..
  | .spurPopc .. | .spurBfx .. | .spurBfi .. | .lea .. | .spurMov .. | .spurLi .. | .spurSel .. | .cmp ..
  | .br .. | .call .. | .loopn .. | .jmp .. | .ret .. | .sld .. | .sst .. | .samo .. | .fork .. | .rdzv ..
  | .wspawn .. | .dqput .. | .launch .. | .ljoin .. | .cprog .. | .yield .. | .trap .. | .sdone ..
  | .walk .. | .wpause .. | .wresume .. | .wcancel .. | .hreg .. | .hunreg .. => e = .spur
  | .fence .. | .cairn .. | .cscrub .. | .wstat .. | .nop .. | .nopCompact .. | .csrr .. | .csrw ..
  | .csrrTrctl .. | .csrwRaceidx .. | .csrwTrctl .. | .csrwTrrd .. | .csrwHpool .. | .csrwRlgeom ..
  | .csrwRlpos .. | .csrwHshare .. | .csrwMreqcap .. | .csrwDbgctl .. | .time .. | .cyc .. | .xret ..
  | .sadl .. | .sclr .. | .scle .. | .bkpt .. | .trigw .. | .mark .. => true
  | _ => e = .lane

/-- The two registers of a compact instruction (R80). -/
def Instr.compact? : Instr → Option (BitVec 3 × Bool × BitVec 8 × BitVec 8)
  | .iaddCompact p n d a | .isubCompact p n d a | .imulCompact p n d a | .iminCompact p n d a
  | .imaxCompact p n d a | .andCompact p n d a | .orCompact p n d a | .xorCompact p n d a
  | .andnCompact p n d a | .shlCompact p n d a | .shrCompact p n d a | .sarCompact p n d a
  | .movCompact p n d a | .faddCompact p n d a | .fsubCompact p n d a | .fmulCompact p n d a
  | .fminCompact p n d a | .fmaxCompact p n d a | .f2addCompact p n d a | .f2mulCompact p n d a
  | .rcpCompact p n d a | .rsqCompact p n d a | .sqrtCompact p n d a | .exp2Compact p n d a
  | .log2Compact p n d a | .sinCompact p n d a | .cosCompact p n d a | .tanhCompact p n d a => some (p, n, d, a)
  | .nopCompact p n => some (p, n, 0, 0)
  | _ => none

/-- A well-formed instruction of an instruction stream, in the decode context `cx`: it has an encoding that
passes every check of R83. -/
def Instr.wf (cx : Cx) (i : Instr) : Bool :=
  i.onEngine cx.eng &&
  match i.compact? with
  | some (p, n, d, a) =>
    !(p == 7 && n) &&
    (match i with | .nopCompact .. => true | _ => mainOk cx d 1 && mainOk cx a 1)
  | none =>
    match i.shape with
    | none => false
    | some s =>
      s.ok cx &&
      match i with
      | .csrr _ _ n => n != 0x91
      | .csrw _ n _ => !csrwSpecial n
      | _ => true

end Sys2Proof
end

