-- ==== Sys2Proof/Decode.lean ====
section
/-! DEFINITION. Decoding and encoding (R69 to R93, R379, R418 to R420, R468): instruction units of both engines,
Couloir command records and FRS requests. Every decoder is total and rejects by name. The encoders are written from
the same tables. -/

namespace Sys2Proof

/-! ## Codes of the modifier fields -/

/-- The code of the field (R140). -/
def SW.code : SW → Nat
  | .s64 => 0 | .s32 => 1 | .z32 => 2 | .z64 => 3

/-- The field that a code names; reserved codes name none (R140). -/
def SW.of? : Nat → Option SW
  | 0 => some .s64 | 1 => some .s32 | 2 => some .z32 | 3 => some .z64
  | _ => none

/-- The code of the field (R201). -/
def LT.code : LT → Nat
  | .s32 => 0 | .z32 => 1 | .s64 => 2 | .z64 => 3

/-- The field that a code names; reserved codes name none (R201). -/
def LT.of? : Nat → Option LT
  | 0 => some .s32 | 1 => some .z32 | 2 => some .s64 | 3 => some .z64
  | _ => none

/-- The code of the field (R150). -/
def CC.code : CC → Nat
  | .eq => 0 | .ne => 1 | .lt => 2 | .le => 3 | .gt => 4 | .ge => 5
  | .tst => 6

/-- The field that a code names; reserved codes name none (R150). -/
def CC.of? : Nat → Option CC
  | 0 => some .eq | 1 => some .ne | 2 => some .lt | 3 => some .le
  | 4 => some .gt | 5 => some .ge | 6 => some .tst
  | _ => none

/-- The code of the field (R37). -/
def Scope.code : Scope → Nat
  | .tg => 0 | .core => 1 | .clu => 2 | .dev => 3 | .dom => 4

/-- The field that a code names; reserved codes name none (R37). -/
def Scope.of? : Nat → Option Scope
  | 0 => some .tg | 1 => some .core | 2 => some .clu | 3 => some .dev
  | 4 => some .dom
  | _ => none

/-- The code of the field (R153). -/
def SSz.code : SSz → Nat
  | .b64 => 0 | .s8 => 1 | .z8 => 2 | .s16 => 3 | .z16 => 4 | .s32 => 5
  | .z32 => 6

/-- The field that a code names; reserved codes name none (R153). -/
def SSz.of? : Nat → Option SSz
  | 0 => some .b64 | 1 => some .s8 | 2 => some .z8 | 3 => some .s16
  | 4 => some .z16 | 5 => some .s32 | 6 => some .z32
  | _ => none

/-- The code of the field (R270). -/
def LSz.code : LSz → Nat
  | .b32 => 0 | .s8 => 1 | .z8 => 2 | .s16 => 3 | .z16 => 4 | .b64 => 5
  | .b128 => 6

/-- The field that a code names; reserved codes name none (R270). -/
def LSz.of? : Nat → Option LSz
  | 0 => some .b32 | 1 => some .s8 | 2 => some .z8 | 3 => some .s16
  | 4 => some .z16 | 5 => some .b64 | 6 => some .b128
  | _ => none

/-- The code of the field (R154). -/
def SAop.code : SAop → Nat
  | .add => 0 | .min => 1 | .max => 2 | .and => 3 | .or => 4 | .xor => 5
  | .xchg => 6 | .cas => 7

/-- The field that a code names; reserved codes name none (R154). -/
def SAop.of? : Nat → Option SAop
  | 0 => some .add | 1 => some .min | 2 => some .max | 3 => some .and
  | 4 => some .or | 5 => some .xor | 6 => some .xchg | 7 => some .cas
  | _ => none

/-- The code of the field (R275). -/
def Aop.code : Aop → Nat
  | .add => 0 | .smin => 1 | .smax => 2 | .zmin => 3 | .zmax => 4 | .and => 5
  | .or => 6 | .xor => 7 | .xchg => 8 | .pmax => 9

/-- The field that a code names; reserved codes name none (R275). -/
def Aop.of? : Nat → Option Aop
  | 0 => some .add | 1 => some .smin | 2 => some .smax | 3 => some .zmin
  | 4 => some .zmax | 5 => some .and | 6 => some .or | 7 => some .xor
  | 8 => some .xchg | 9 => some .pmax
  | _ => none

/-- The code of the field (R277). -/
def Fop.code : Fop → Nat
  | .add => 0 | .min => 1 | .max => 2

/-- The field that a code names; reserved codes name none (R277). -/
def Fop.of? : Nat → Option Fop
  | 0 => some .add | 1 => some .min | 2 => some .max
  | _ => none

/-- The code of the field (R277). -/
def AFt.code : AFt → Nat
  | .f32 => 0 | .f16x2 => 1 | .bf16x2 => 2

/-- The field that a code names; reserved codes name none (R277). -/
def AFt.of? : Nat → Option AFt
  | 0 => some .f32 | 1 => some .f16x2 | 2 => some .bf16x2
  | _ => none

/-- The code of the field (R155). -/
def Wid.code : Wid → Nat
  | .w16 => 0 | .w32 => 1 | .w64 => 2

/-- The field that a code names; reserved codes name none (R155). -/
def Wid.of? : Nat → Option Wid
  | 0 => some .w16 | 1 => some .w32 | 2 => some .w64
  | _ => none

/-- The code of the field (R155). -/
def Tgt.code : Tgt → Nat
  | .self => 0 | .next => 1 | .prev => 2 | .cluster => 3

/-- The field that a code names; reserved codes name none (R155). -/
def Tgt.of? : Nat → Option Tgt
  | 0 => some .self | 1 => some .next | 2 => some .prev | 3 => some .cluster
  | _ => none

/-- The code of the field (R207). -/
def Ft.code : Ft → Nat
  | .f32 => 0 | .f16 => 1 | .bf16 => 2

/-- The field that a code names; reserved codes name none (R207). -/
def Ft.of? : Nat → Option Ft
  | 0 => some .f32 | 1 => some .f16 | 2 => some .bf16
  | _ => none

/-- The code of the field (R207). -/
def Pf.code : Pf → Nat
  | .f16x2 => 0 | .bf16x2 => 1

/-- The field that a code names; reserved codes name none (R207). -/
def Pf.of? : Nat → Option Pf
  | 0 => some .f16x2 | 1 => some .bf16x2
  | _ => none

/-- The code of the field (R210). -/
def Fc.code : Fc → Nat
  | .eq => 0 | .ne => 1 | .lt => 2 | .le => 3 | .gt => 4 | .ge => 5
  | .un => 6 | .ord => 7

/-- The field that a code names; reserved codes name none (R210). -/
def Fc.of? : Nat → Option Fc
  | 0 => some .eq | 1 => some .ne | 2 => some .lt | 3 => some .le
  | 4 => some .gt | 5 => some .ge | 6 => some .un | 7 => some .ord
  | _ => none

/-- The code of the field (R211). -/
def Rms.code : Rms → Nat
  | .dyn => 0 | .rne => 1 | .rtz => 2 | .rup => 3 | .rdn => 4

/-- The field that a code names; reserved codes name none (R211). -/
def Rms.of? : Nat → Option Rms
  | 0 => some .dyn | 1 => some .rne | 2 => some .rtz | 3 => some .rup
  | 4 => some .rdn
  | _ => none

/-- The code of the field (R216). -/
def Cvt.code : Cvt → Nat
  | .f32 => 0 | .f16 => 1 | .bf16 => 2 | .e4m3 => 3 | .e5m2 => 4 | .s32 => 5
  | .z32 => 6 | .s8 => 7

/-- The field that a code names; reserved codes name none (R216). -/
def Cvt.of? : Nat → Option Cvt
  | 0 => some .f32 | 1 => some .f16 | 2 => some .bf16 | 3 => some .e4m3
  | 4 => some .e5m2 | 5 => some .s32 | 6 => some .z32 | 7 => some .s8
  | _ => none

/-- The code of the field (R218). -/
def Bt.code : Bt → Nat
  | .uint => 0 | .e2m1 => 1 | .pow2 => 2 | .hyb => 3

/-- The field that a code names; reserved codes name none (R218). -/
def Bt.of? : Nat → Option Bt
  | 0 => some .uint | 1 => some .e2m1 | 2 => some .pow2 | 3 => some .hyb
  | _ => none

/-- The code of the field (R218). -/
def Qf.code : Qf → Nat
  | .f32 => 0 | .bf16x2 => 1

/-- The field that a code names; reserved codes name none (R218). -/
def Qf.of? : Nat → Option Qf
  | 0 => some .f32 | 1 => some .bf16x2
  | _ => none

/-- The code of the field (R223). -/
def Sm.code : Sm → Nat
  | .idx => 0 | .up => 1 | .down => 2 | .xor => 3

/-- The field that a code names; reserved codes name none (R223). -/
def Sm.of? : Nat → Option Sm
  | 0 => some .idx | 1 => some .up | 2 => some .down | 3 => some .xor
  | _ => none

/-- The code of the field (R224). -/
def Vm.code : Vm → Nat
  | .all => 0 | .any => 1 | .eq => 2 | .ballot => 3

/-- The field that a code names; reserved codes name none (R224). -/
def Vm.of? : Nat → Option Vm
  | 0 => some .all | 1 => some .any | 2 => some .eq | 3 => some .ballot
  | _ => none

/-- The code of the field (R225). -/
def Rop.code : Rop → Nat
  | .add => 0 | .smin => 1 | .smax => 2 | .zmin => 3 | .zmax => 4 | .and => 5
  | .or => 6 | .xor => 7 | .fadd => 8 | .fmin => 9 | .fmax => 10

/-- The field that a code names; reserved codes name none (R225). -/
def Rop.of? : Nat → Option Rop
  | 0 => some .add | 1 => some .smin | 2 => some .smax | 3 => some .zmin
  | 4 => some .zmax | 5 => some .and | 6 => some .or | 7 => some .xor
  | 8 => some .fadd | 9 => some .fmin | 10 => some .fmax
  | _ => none

/-- The code of the field (R279). -/
def Fk.code : Fk → Nat
  | .ar => 0 | .acq => 1 | .rel => 2 | .cum => 3

/-- The field that a code names; reserved codes name none (R279). -/
def Fk.of? : Nat → Option Fk
  | 0 => some .ar | 1 => some .acq | 2 => some .rel | 3 => some .cum
  | _ => none

/-- The code of the field (R287). -/
def Cm.code : Cm → Nat
  | .as => 0 | .off => 1 | .precise => 2 | .report => 3 | .once => 4

/-- The field that a code names; reserved codes name none (R287). -/
def Cm.of? : Nat → Option Cm
  | 0 => some .as | 1 => some .off | 2 => some .precise | 3 => some .report
  | 4 => some .once
  | _ => none

/-- The code of the field (R355). -/
def Wi.code : Wi → Nat
  | .state => 0 | .steps => 1 | .pstall => 2 | .cstall => 3 | .fstall => 4 | .upcalls => 5

/-- The field that a code names; reserved codes name none (R355). -/
def Wi.of? : Nat → Option Wi
  | 0 => some .state | 1 => some .steps | 2 => some .pstall | 3 => some .cstall
  | 4 => some .fstall | 5 => some .upcalls
  | _ => none

/-- The code of the field (R349). -/
def Nw.code : Nw → Nat
  | .x1 => 0 | .x2 => 1 | .x4 => 2

/-- The field that a code names; reserved codes name none (R349). -/
def Nw.of? : Nat → Option Nw
  | 0 => some .x1 | 1 => some .x2 | 2 => some .x4
  | _ => none

/-- The code of the field (R466). -/
def Act.code : Act → Nat
  | .pulse => 0 | .set => 1 | .clr => 2

/-- The field that a code names; reserved codes name none (R466). -/
def Act.of? : Nat → Option Act
  | 0 => some .pulse | 1 => some .set | 2 => some .clr
  | _ => none

/-- The code of the field (R379). -/
def Conv.code : Conv → Nat
  | .none => 0 | .bf16 => 1 | .f16 => 2 | .e4m3 => 3

/-- The field that a code names; reserved codes name none (R379). -/
def Conv.of? : Nat → Option Conv
  | 0 => some .none | 1 => some .bf16 | 2 => some .f16 | 3 => some .e4m3
  | _ => none

/-- The code of the field (R235). -/
def Sc.code : Sc → Nat
  | .core => 1 | .clu => 2 | .dev => 3

/-- The field that a code names; reserved codes name none (R235). -/
def Sc.of? : Nat → Option Sc
  | 1 => some .core | 2 => some .clu | 3 => some .dev
  | _ => none

/-- A flag of MOD as a number. -/
def flag (b : Bool) : Nat := if b then 1 else 0

/-- ORD and SCOPE of a load or store as they stand above a 3-bit size (R153, R270). -/
def Ord.code : Ord → Nat
  | .plain => 0
  | .sync s => 8 + 32 * s.code

/-- The ordering that ORD and SCOPE name; codes 2 and 3, and a scope beside ORD 0, name none (R153, R270). -/
def Ord.of? (m : Nat) : Option Ord :=
  match m / 8 % 4 with
  | 0 => if m / 32 = 0 then some .plain else none
  | 1 => (Scope.of? (m / 32)).map .sync
  | _ => none

/-! ## Raw fields (R71, R73, R79 to R81) -/

/-- The fields of a full-form instruction. -/
structure Raw where
  cls : BitVec 3
  op : BitVec 6
  h : Hd
  mod : BitVec 8
  d : BitVec 10
  a : BitVec 10
  b : BitVec 10
  c : BitVec 10
  deriving DecidableEq, Repr

/-- Unit 0 of a full form with length code `l` (R71, R73). -/
def Raw.unit0 (r : Raw) (l : BitVec 2) : Word :=
  r.d.extractLsb' 0 8 ++ r.mod ++ BitVec.ofBool r.h.u ++ BitVec.ofBool r.h.pn ++ r.h.pred ++ r.op ++ r.cls ++ l

/-- Unit 1 of a full form (R73). -/
def Raw.unit1 (r : Raw) : Word := r.c ++ r.b ++ r.a ++ r.d.extractLsb' 8 2

/-- The units of a full form: two, or three with the literal (R69, R79). -/
def Raw.units (r : Raw) : List Word :=
  match r.h.lit with
  | none => [r.unit0 1, r.unit1]
  | some l => [r.unit0 2, r.unit1, l]

/-- The fields of the full form that two units and an optional literal hold (R73, R79). -/
def Raw.ofUnits (u0 u1 : Word) (lit : Option Word) : Raw where
  cls := u0.extractLsb' 2 3
  op := u0.extractLsb' 5 6
  h := { pred := u0.extractLsb' 11 3, pn := u0.getLsbD 14, u := u0.getLsbD 15, lit }
  mod := u0.extractLsb' 16 8
  d := u1.extractLsb' 0 2 ++ u0.extractLsb' 24 8
  a := u1.extractLsb' 2 10
  b := u1.extractLsb' 12 10
  c := u1.extractLsb' 22 10

/-- The unit of a compact form (R80). -/
def compactUnit (cls : BitVec 3) (op : BitVec 6) (pred : BitVec 3) (pn : Bool) (d a : BitVec 8) : Word :=
  a ++ d ++ 0#1 ++ BitVec.ofBool pn ++ pred ++ op ++ cls ++ 0#2

/-! ## Operand specifiers (R75 to R77) -/

/-- The specifier of a source. -/
def Src.spec (e : Engine) : Src → BitVec 10
  | .main n => 0#2 ++ n
  | .opnd n => 1#2 ++ n.setWidth 8
  | .l0 => 0x108
  | .pred n => 1#2 ++ BitVec.ofNat 8 (match e with | .spur => n.val | .lane => 16 + n.val)
  | .grp n => 2#2 ++ n.setWidth 8
  | .imm b => 3#2 ++ b
  | .lit => 0x3FF

/-- The specifier of a destination. -/
def Dst.spec (e : Engine) : Dst → BitVec 10
  | .main n => 0#2 ++ n
  | .opnd n => 1#2 ++ n.setWidth 8
  | .pred n => 1#2 ++ BitVec.ofNat 8 (match e with | .spur => n.val | .lane => 16 + n.val)
  | .grp n => 2#2 ++ n.setWidth 8

/-- The predicate that an index of file 0b01 names (R75). -/
def predOf (e : Engine) (i : Nat) : Option (Fin 7) :=
  match e with
  | .spur => if h : i < 7 then some ⟨i, h⟩ else none
  | .lane => if h : 16 ≤ i ∧ i < 23 then some ⟨i - 16, by omega⟩ else none

/-- The source that a specifier names, in an instruction with or without a literal (R75, R79). -/
def Src.ofSpec (e : Engine) (lit : Bool) (x : BitVec 10) : Option Src :=
  let i := x.extractLsb' 0 8
  match (x.extractLsb' 8 2).toNat with
  | 0 => some (.main i)
  | 1 =>
    match e with
    | .spur => (predOf e i.toNat).map .pred
    | .lane =>
      if i.toNat < 8 then some (.opnd (i.setWidth 3))
      else if i.toNat = 8 then some .l0
      else (predOf e i.toNat).map .pred
  | 2 => if e = .lane && i.toNat < 32 then some (.grp (i.setWidth 5)) else none
  | _ => some (if lit && i == 0xFF then .lit else .imm i)

/-- The destination that a specifier names (R75, R77). -/
def Dst.ofSpec (e : Engine) (x : BitVec 10) : Option Dst :=
  let i := x.extractLsb' 0 8
  match (x.extractLsb' 8 2).toNat with
  | 0 => some (.main i)
  | 1 =>
    match e with
    | .spur => (predOf e i.toNat).map .pred
    | .lane => if i.toNat < 8 then some (.opnd (i.setWidth 3)) else (predOf e i.toNat).map .pred
  | 2 => if e = .lane && i.toNat < 32 then some (.grp (i.setWidth 5)) else none
  | _ => none

/-- The specifier of an operand position; an unused position is 0x000 (R78). -/
def Slot.spec (e : Engine) : Slot → BitVec 10
  | .none => 0
  | .src _ x => x.spec e
  | .dst _ x => x.spec e
  | .sreg n => 0#2 ++ n
  | .greg n _ => 2#2 ++ n.setWidth 8
  | .csr n => 2#2 ++ n
  | .bits x => x

/-! ## The opcode map (R84 to R91) and the MOD byte of each instruction -/

/-- Class, operation and MOD byte of an instruction that has a full form. -/
def Instr.opc : Instr → Option (Nat × Nat × Nat)
  | .add _ w .. => some (0, 0x01, w.code)
  | .sub _ w .. => some (0, 0x02, w.code)
  | .mul _ w .. => some (0, 0x03, w.code)
  | .mulh _ w .. => some (0, 0x04, w.code)
  | .spurAnd _ w .. => some (0, 0x07, w.code)
  | .spurOr _ w .. => some (0, 0x08, w.code)
  | .spurXor _ w .. => some (0, 0x09, w.code)
  | .spurAndn _ w .. => some (0, 0x0A, w.code)
  | .spurShl _ w .. => some (0, 0x0B, w.code)
  | .spurShr _ w .. => some (0, 0x0C, w.code)
  | .spurSar _ w .. => some (0, 0x0D, w.code)
  | .rot _ w .. => some (0, 0x0E, w.code)
  | .min _ w .. => some (0, 0x0F, w.code)
  | .max _ w .. => some (0, 0x10, w.code)
  | .divs _ w rem .. => some (0, 0x05, w.code + 4 * flag rem)
  | .divz _ w rem .. => some (0, 0x06, w.code + 4 * flag rem)
  | .spurClz _ w .. => some (0, 0x11, w.code)
  | .spurPopc _ w .. => some (0, 0x12, w.code)
  | .spurBfx _ w .. => some (0, 0x13, w.code)
  | .spurBfi _ w .. => some (0, 0x14, w.code)
  | .spurMov _ w .. => some (0, 0x16, w.code)
  | .lea _ sh .. => some (0, 0x15, sh.toNat)
  | .spurLi _ w hi .. => some (0, 0x17, w.code + 4 * flag hi)
  | .spurSel .. => some (0, 0x18, 0)
  | .cmp _ w cc .. => some (0, 0x19, w.code + 4 * cc.code)
  | .br .. => some (0, 0x20, 0)
  | .jmp .. => some (0, 0x21, 0)
  | .call .. => some (0, 0x22, 0)
  | .ret .. => some (0, 0x23, 0)
  | .loopn .. => some (0, 0x24, 0)
  | .sld _ sz ord .. => some (0, 0x28, sz.code + ord.code)
  | .sst _ sz ord .. => some (0, 0x29, sz.code + ord.code)
  | .samo _ o w sc .. => some (0, 0x2A, o.code + 8 * w.code + 32 * sc.code)
  | .fork .. => some (1, 0x01, 0)
  | .rdzv .. => some (1, 0x02, 0)
  | .wspawn _ wid .. => some (1, 0x03, wid.code)
  | .dqput .. => some (1, 0x04, 0)
  | .launch _ t try_ _ => some (1, 0x05, t.code + 4 * flag try_.isSome)
  | .ljoin .. => some (1, 0x06, 0)
  | .cprog .. => some (1, 0x07, 0)
  | .yield _ => some (1, 0x10, 0)
  | .trap .. => some (1, 0x11, 0)
  | .sdone _ => some (1, 0x12, 0)
  | .iadd _ t sat .. => some (2, 0x01, t.code + 4 * flag sat)
  | .isub _ t sat .. => some (2, 0x02, t.code + 4 * flag sat)
  | .imad _ t sat .. => some (2, 0x04, t.code + 4 * flag sat)
  | .iabs _ t sat .. => some (2, 0x07, t.code + 4 * flag sat)
  | .imul _ t .. => some (2, 0x03, t.code)
  | .imulh _ t .. => some (2, 0x05, t.code)
  | .imin _ t .. => some (2, 0x08, t.code)
  | .imax _ t .. => some (2, 0x09, t.code)
  | .and _ t .. => some (2, 0x0A, t.code)
  | .or _ t .. => some (2, 0x0B, t.code)
  | .xor _ t .. => some (2, 0x0C, t.code)
  | .andn _ t .. => some (2, 0x0D, t.code)
  | .shl _ t .. => some (2, 0x0E, t.code)
  | .shr _ t .. => some (2, 0x0F, t.code)
  | .sar _ t .. => some (2, 0x10, t.code)
  | .bfx _ t .. => some (2, 0x11, t.code)
  | .bfi _ t .. => some (2, 0x12, t.code)
  | .popc _ t .. => some (2, 0x13, t.code)
  | .clz _ t .. => some (2, 0x14, t.code)
  | .brev _ t .. => some (2, 0x15, t.code)
  | .sel _ t .. => some (2, 0x17, t.code)
  | .mov _ t .. => some (2, 0x18, t.code)
  | .idot4 _ az bz sat .. => some (2, 0x06, flag az + 2 * flag bz + 4 * flag sat)
  | .icmp _ t cc .. => some (2, 0x16, t.code + 4 * cc.code)
  | .li .. => some (2, 0x19, 0)
  | .fadd _ ft .. => some (3, 0x01, ft.code)
  | .fsub _ ft .. => some (3, 0x02, ft.code)
  | .fmul _ ft .. => some (3, 0x03, ft.code)
  | .ffma _ ft .. => some (3, 0x04, ft.code)
  | .fmin _ ft .. => some (3, 0x05, ft.code)
  | .fmax _ ft .. => some (3, 0x06, ft.code)
  | .fclass _ ft .. => some (3, 0x09, ft.code)
  | .fcmp _ ft fc .. => some (3, 0x07, ft.code + 4 * fc.code)
  | .frnd _ ft rms .. => some (3, 0x08, ft.code + 4 * rms.code)
  | .f2add _ pf .. => some (3, 0x0A, pf.code)
  | .f2mul _ pf .. => some (3, 0x0B, pf.code)
  | .f2fma _ pf .. => some (3, 0x0C, pf.code)
  | .fdot2 _ pf .. => some (3, 0x0D, pf.code)
  | .rcp .. => some (3, 0x10, 0)
  | .rsq .. => some (3, 0x11, 0)
  | .sqrt .. => some (3, 0x12, 0)
  | .exp2 .. => some (3, 0x13, 0)
  | .log2 .. => some (3, 0x14, 0)
  | .sin .. => some (3, 0x15, 0)
  | .cos .. => some (3, 0x16, 0)
  | .tanh .. => some (3, 0x17, 0)
  | .cvt _ dt ty sat sr .. => some (3, 0x20, 8 * dt.code + ty.code + 64 * flag sat + 128 * flag sr)
  | .qpack _ qf .. => some (3, 0x21, qf.code)
  | .qunpk _ qf .. => some (3, 0x22, qf.code)
  | .qscale _ qf bt .. => some (3, 0x23, qf.code + 2 * bt.code)
  | .shfl _ sm .. => some (4, 0x01, sm.code)
  | .vote _ vm .. => some (4, 0x02, vm.code)
  | .redux _ rop .. => some (4, 0x03, rop.code)
  | .scan _ rop ex .. => some (4, 0x04, rop.code + 16 * flag ex)
  | .prmt .. => some (4, 0x05, 0)
  | .bra .. => some (4, 0x10, 0)
  | .reconv .. => some (4, 0x11, 0)
  | .fuse .. => some (4, 0x12, 0)
  | .dpush .. => some (4, 0x13, 0)
  | .dpop .. => some (4, 0x14, 0)
  | .dqpop .. => some (4, 0x15, 0)
  | .exit .. => some (4, 0x16, 0)
  | .bar .. => some (4, 0x20, 0)
  | .barm .. => some (4, 0x21, 0)
  | .arrive .. => some (4, 0x22, 0)
  | .await .. => some (4, 0x23, 0)
  | .sbar _ sc _ => some (4, 0x24, sc.code)
  | .ld _ sz ord .. => some (5, 0x01, sz.code + ord.code)
  | .st _ sz ord .. => some (5, 0x02, sz.code + ord.code)
  | .lds _ sz ord .. => some (5, 0x03, sz.code + ord.code)
  | .sts _ sz ord .. => some (5, 0x04, sz.code + ord.code)
  | .atom _ o w64 sc .. => some (5, 0x05, o.code + 16 * flag w64 + 32 * sc.code)
  | .atoms _ o w64 sc .. => some (5, 0x07, o.code + 16 * flag w64 + 32 * sc.code)
  | .atomf _ o ft sc .. => some (5, 0x06, o.code + 8 * ft.code + 32 * sc.code)
  | .cas _ w64 sc .. => some (5, 0x08, 16 * flag w64 + 32 * sc.code)
  | .fence _ k sc => some (5, 0x09, 8 * k.code + 32 * sc.code)
  | .waitst _ => some (5, 0x0A, 0)
  | .pref _ l2 .. => some (5, 0x0B, flag l2)
  | .rres .. => some (5, 0x10, 0)
  | .rpub .. => some (5, 0x11, 0)
  | .rget .. => some (5, 0x12, 0)
  | .rrel .. => some (5, 0x13, 0)
  | .cairn _ cm _ => some (5, 0x18, cm.code)
  | .cscrub .. => some (5, 0x19, 0)
  | .walk .. => some (6, 0x01, 0)
  | .wstat _ item .. => some (6, 0x02, item.code)
  | .wpause .. => some (6, 0x03, 0)
  | .wresume .. => some (6, 0x04, 0)
  | .wcancel .. => some (6, 0x05, 0)
  | .hreg _ wid .. => some (6, 0x08, wid.code)
  | .hunreg .. => some (6, 0x09, 0)
  | .hdesc .. => some (6, 0x10, 0)
  | .acld _ nw .. => some (6, 0x11, nw.code)
  | .hret .. => some (6, 0x12, 0)
  | .nop _ => some (7, 0x01, 0)
  | .csrr .. => some (7, 0x02, 0)
  | .csrrTrctl .. => some (7, 0x02, 0)
  | .csrw .. => some (7, 0x03, 0)
  | .csrwRaceidx .. => some (7, 0x03, 0)
  | .csrwTrctl .. => some (7, 0x03, 0)
  | .csrwTrrd .. => some (7, 0x03, 0)
  | .csrwHpool .. => some (7, 0x03, 0)
  | .csrwRlgeom .. => some (7, 0x03, 0)
  | .csrwRlpos .. => some (7, 0x03, 0)
  | .csrwHshare .. => some (7, 0x03, 0)
  | .csrwMreqcap .. => some (7, 0x03, 0)
  | .csrwDbgctl .. => some (7, 0x03, 0)
  | .time .. => some (7, 0x04, 0)
  | .cyc .. => some (7, 0x05, 0)
  | .xret _ skip => some (7, 0x06, flag skip)
  | .sadl _ info .. => some (7, 0x10, flag info)
  | .sclr .. => some (7, 0x11, 0)
  | .scle _ => some (7, 0x12, 0)
  | .bkpt .. => some (7, 0x18, 0)
  | .trigw _ act _ => some (7, 0x19, act.code)
  | .mark .. => some (7, 0x1A, 0)
  | _ => none

/-- Class and operation of a compact instruction (R80, R86, R87, R91). -/
def Instr.compactOpc : Instr → Option (Nat × Nat)
  | .iaddCompact .. => some (2, 0x01)
  | .isubCompact .. => some (2, 0x02)
  | .imulCompact .. => some (2, 0x03)
  | .iminCompact .. => some (2, 0x08)
  | .imaxCompact .. => some (2, 0x09)
  | .andCompact .. => some (2, 0x0A)
  | .orCompact .. => some (2, 0x0B)
  | .xorCompact .. => some (2, 0x0C)
  | .andnCompact .. => some (2, 0x0D)
  | .shlCompact .. => some (2, 0x0E)
  | .shrCompact .. => some (2, 0x0F)
  | .sarCompact .. => some (2, 0x10)
  | .movCompact .. => some (2, 0x18)
  | .faddCompact .. => some (3, 0x01)
  | .fsubCompact .. => some (3, 0x02)
  | .fmulCompact .. => some (3, 0x03)
  | .fminCompact .. => some (3, 0x05)
  | .fmaxCompact .. => some (3, 0x06)
  | .f2addCompact .. => some (3, 0x0A)
  | .f2mulCompact .. => some (3, 0x0B)
  | .rcpCompact .. => some (3, 0x10)
  | .rsqCompact .. => some (3, 0x11)
  | .sqrtCompact .. => some (3, 0x12)
  | .exp2Compact .. => some (3, 0x13)
  | .log2Compact .. => some (3, 0x14)
  | .sinCompact .. => some (3, 0x15)
  | .cosCompact .. => some (3, 0x16)
  | .tanhCompact .. => some (3, 0x17)
  | .nopCompact .. => some (7, 0x01)
  | _ => none

/-- The units of a well-formed instruction, first first (R69, R73, R79 to R81). -/
def encode (e : Engine) (i : Instr) : List Word :=
  match i.compact?, i.compactOpc, i.shape, i.opc with
  | some (p, n, d, a), some (cls, op), _, _ => [compactUnit (BitVec.ofNat 3 cls) (BitVec.ofNat 6 op) p n d a]
  | _, _, some s, some (cls, op, mod) =>
    Raw.units { cls := BitVec.ofNat 3 cls, op := BitVec.ofNat 6 op, h := s.h, mod := BitVec.ofNat 8 mod
                d := s.d.spec e, a := s.a.spec e, b := s.b.spec e, c := s.c.spec e }
  | _, _, _, _ => []

/-! ## Building an instruction from its raw fields -/

/-- The first source. -/
def Raw.a? (e : Engine) (r : Raw) : Option Src := Src.ofSpec e r.h.lit.isSome r.a
/-- The second source. -/
def Raw.b? (e : Engine) (r : Raw) : Option Src := Src.ofSpec e r.h.lit.isSome r.b
/-- The third source. -/
def Raw.c? (e : Engine) (r : Raw) : Option Src := Src.ofSpec e r.h.lit.isSome r.c
/-- The destination. -/
def Raw.d? (e : Engine) (r : Raw) : Option Dst := Dst.ofSpec e r.d
/-- The index half of D. -/
def Raw.di (r : Raw) : BitVec 8 := r.d.extractLsb' 0 8
/-- The MOD byte as a number. -/
def Raw.m (r : Raw) : Nat := r.mod.toNat
/-- The 20-bit offset of the offset form (R81). -/
def Raw.off (r : Raw) : BitVec 20 := r.c ++ r.b
/-- A bit of MOD. -/
def Raw.bit (r : Raw) (k : Nat) : Bool := r.mod.getLsbD k

/-- D from a destination. -/
def Raw.un (e : Engine) (r : Raw) (f : Dst → Src → Instr) : Option Instr := do
  return f (← r.d? e) (← r.a? e)
/-- D from two sources. -/
def Raw.bin (e : Engine) (r : Raw) (f : Dst → Src → Src → Instr) : Option Instr := do
  return f (← r.d? e) (← r.a? e) (← r.b? e)
/-- D from three sources. -/
def Raw.tern (e : Engine) (r : Raw) (f : Dst → Src → Src → Src → Instr) : Option Instr := do
  return f (← r.d? e) (← r.a? e) (← r.b? e) (← r.c? e)

/-- Class 0 (R84, R144). -/
def buildSscal (e : Engine) (r : Raw) : Option Instr :=
  match r.op.toNat with
  | 0x01 => (SW.of? (r.m % 4)).bind fun w => r.bin e (.add r.h w)
  | 0x02 => (SW.of? (r.m % 4)).bind fun w => r.bin e (.sub r.h w)
  | 0x03 => (SW.of? (r.m % 4)).bind fun w => r.bin e (.mul r.h w)
  | 0x04 => (SW.of? (r.m % 4)).bind fun w => r.bin e (.mulh r.h w)
  | 0x05 => (SW.of? (r.m % 4)).bind fun w => r.bin e (.divs r.h w (r.bit 2))
  | 0x06 => (SW.of? (r.m % 4)).bind fun w => r.bin e (.divz r.h w (r.bit 2))
  | 0x07 => (SW.of? (r.m % 4)).bind fun w => r.bin e (.spurAnd r.h w)
  | 0x08 => (SW.of? (r.m % 4)).bind fun w => r.bin e (.spurOr r.h w)
  | 0x09 => (SW.of? (r.m % 4)).bind fun w => r.bin e (.spurXor r.h w)
  | 0x0A => (SW.of? (r.m % 4)).bind fun w => r.bin e (.spurAndn r.h w)
  | 0x0B => (SW.of? (r.m % 4)).bind fun w => r.bin e (.spurShl r.h w)
  | 0x0C => (SW.of? (r.m % 4)).bind fun w => r.bin e (.spurShr r.h w)
  | 0x0D => (SW.of? (r.m % 4)).bind fun w => r.bin e (.spurSar r.h w)
  | 0x0E => (SW.of? (r.m % 4)).bind fun w => r.bin e (.rot r.h w)
  | 0x0F => (SW.of? (r.m % 4)).bind fun w => r.bin e (.min r.h w)
  | 0x10 => (SW.of? (r.m % 4)).bind fun w => r.bin e (.max r.h w)
  | 0x11 => (SW.of? (r.m % 4)).bind fun w => r.un e (.spurClz r.h w)
  | 0x12 => (SW.of? (r.m % 4)).bind fun w => r.un e (.spurPopc r.h w)
  | 0x13 => (SW.of? (r.m % 4)).bind fun w => r.tern e (.spurBfx r.h w)
  | 0x14 => do return .spurBfi r.h (← SW.of? (r.m % 4)) r.di (← r.a? e) (← r.b? e) (← r.c? e)
  | 0x15 => r.tern e (.lea r.h (r.mod.extractLsb' 0 3))
  | 0x16 => (SW.of? (r.m % 4)).bind fun w => r.un e (.spurMov r.h w)
  | 0x17 => do return .spurLi r.h (← SW.of? (r.m % 4)) (r.bit 2) r.di (← r.a? e)
  | 0x18 => r.tern e (.spurSel r.h)
  | 0x19 => (SW.of? (r.m % 4)).bind fun w => (CC.of? (r.m / 4)).bind fun cc => r.bin e (.cmp r.h w cc)
  | 0x20 => some (.br r.h r.off)
  | 0x21 => do return .jmp r.h r.di (← r.a? e)
  | 0x22 => some (.call r.h r.di r.off)
  | 0x23 => do return .ret r.h (← r.a? e)
  | 0x24 => some (.loopn r.h r.di r.off)
  | 0x28 => (SSz.of? (r.m % 8)).bind fun sz => (Ord.of? r.m).bind fun o => r.bin e (.sld r.h sz o)
  | 0x29 => do return .sst r.h (← SSz.of? (r.m % 8)) (← Ord.of? r.m) r.di (← r.a? e) (← r.b? e)
  | 0x2A => do
    let op ← SAop.of? (r.m % 8)
    let c ← if op = .cas then (r.c? e).map some else some none
    return .samo r.h op (← SW.of? (r.m / 8 % 4)) (← Scope.of? (r.m / 32)) (← r.d? e) (← r.a? e) (← r.b? e) c
  | _ => none

/-- Class 1 (R85, R155). -/
def buildSeng (e : Engine) (r : Raw) : Option Instr :=
  match r.op.toNat with
  | 0x01 => do return .fork r.h r.di (← r.a? e)
  | 0x02 => r.un e (.rdzv r.h)
  | 0x03 => (Wid.of? (r.m % 4)).bind fun w => r.tern e (.wspawn r.h w)
  | 0x04 => do return .dqput r.h (← r.a? e)
  | 0x05 => do
    let t ← if r.bit 2 then (r.d? e).map some else some none
    return .launch r.h (← Tgt.of? (r.m % 4)) t (← r.a? e)
  | 0x06 => do return .ljoin r.h (← r.a? e) (← r.b? e)
  | 0x07 => r.tern e (.cprog r.h)
  | 0x10 => some (.yield r.h)
  | 0x11 => do return .trap r.h (← r.a? e)
  | 0x12 => some (.sdone r.h)
  | _ => none

/-- Class 2 (R86, R200). -/
def buildLint (e : Engine) (r : Raw) : Option Instr :=
  match r.op.toNat with
  | 0x01 => (LT.of? (r.m % 4)).bind fun t => r.bin e (.iadd r.h t (r.bit 2))
  | 0x02 => (LT.of? (r.m % 4)).bind fun t => r.bin e (.isub r.h t (r.bit 2))
  | 0x03 => (LT.of? (r.m % 4)).bind fun t => r.bin e (.imul r.h t)
  | 0x04 => (LT.of? (r.m % 4)).bind fun t => r.tern e (.imad r.h t (r.bit 2))
  | 0x05 => (LT.of? (r.m % 4)).bind fun t => r.bin e (.imulh r.h t)
  | 0x06 => r.tern e (.idot4 r.h (r.bit 0) (r.bit 1) (r.bit 2))
  | 0x07 => (LT.of? (r.m % 4)).bind fun t => r.un e (.iabs r.h t (r.bit 2))
  | 0x08 => (LT.of? (r.m % 4)).bind fun t => r.bin e (.imin r.h t)
  | 0x09 => (LT.of? (r.m % 4)).bind fun t => r.bin e (.imax r.h t)
  | 0x0A => (LT.of? (r.m % 4)).bind fun t => r.bin e (.and r.h t)
  | 0x0B => (LT.of? (r.m % 4)).bind fun t => r.bin e (.or r.h t)
  | 0x0C => (LT.of? (r.m % 4)).bind fun t => r.bin e (.xor r.h t)
  | 0x0D => (LT.of? (r.m % 4)).bind fun t => r.bin e (.andn r.h t)
  | 0x0E => (LT.of? (r.m % 4)).bind fun t => r.bin e (.shl r.h t)
  | 0x0F => (LT.of? (r.m % 4)).bind fun t => r.bin e (.shr r.h t)
  | 0x10 => (LT.of? (r.m % 4)).bind fun t => r.bin e (.sar r.h t)
  | 0x11 => (LT.of? (r.m % 4)).bind fun t => r.tern e (.bfx r.h t)
  | 0x12 => (LT.of? (r.m % 4)).bind fun t => r.tern e (.bfi r.h t)
  | 0x13 => (LT.of? (r.m % 4)).bind fun t => r.un e (.popc r.h t)
  | 0x14 => (LT.of? (r.m % 4)).bind fun t => r.un e (.clz r.h t)
  | 0x15 => (LT.of? (r.m % 4)).bind fun t => r.un e (.brev r.h t)
  | 0x16 => (LT.of? (r.m % 4)).bind fun t => (CC.of? (r.m / 4)).bind fun cc => r.bin e (.icmp r.h t cc)
  | 0x17 => (LT.of? (r.m % 4)).bind fun t => r.tern e (.sel r.h t)
  | 0x18 => (LT.of? (r.m % 4)).bind fun t => r.un e (.mov r.h t)
  | 0x19 => r.un e (.li r.h)
  | _ => none

/-- Class 3 (R87, R206). -/
def buildLflt (e : Engine) (r : Raw) : Option Instr :=
  match r.op.toNat with
  | 0x01 => (Ft.of? (r.m % 4)).bind fun f => r.bin e (.fadd r.h f)
  | 0x02 => (Ft.of? (r.m % 4)).bind fun f => r.bin e (.fsub r.h f)
  | 0x03 => (Ft.of? (r.m % 4)).bind fun f => r.bin e (.fmul r.h f)
  | 0x04 => (Ft.of? (r.m % 4)).bind fun f => r.tern e (.ffma r.h f)
  | 0x05 => (Ft.of? (r.m % 4)).bind fun f => r.bin e (.fmin r.h f)
  | 0x06 => (Ft.of? (r.m % 4)).bind fun f => r.bin e (.fmax r.h f)
  | 0x07 => (Ft.of? (r.m % 4)).bind fun f => (Fc.of? (r.m / 4)).bind fun fc => r.bin e (.fcmp r.h f fc)
  | 0x08 => (Ft.of? (r.m % 4)).bind fun f => (Rms.of? (r.m / 4)).bind fun rm => r.un e (.frnd r.h f rm)
  | 0x09 => (Ft.of? (r.m % 4)).bind fun f => r.un e (.fclass r.h f)
  | 0x0A => (Pf.of? r.m).bind fun f => r.bin e (.f2add r.h f)
  | 0x0B => (Pf.of? r.m).bind fun f => r.bin e (.f2mul r.h f)
  | 0x0C => (Pf.of? r.m).bind fun f => r.tern e (.f2fma r.h f)
  | 0x0D => (Pf.of? r.m).bind fun f => r.tern e (.fdot2 r.h f)
  | 0x10 => r.un e (.rcp r.h)
  | 0x11 => r.un e (.rsq r.h)
  | 0x12 => r.un e (.sqrt r.h)
  | 0x13 => r.un e (.exp2 r.h)
  | 0x14 => r.un e (.log2 r.h)
  | 0x15 => r.un e (.sin r.h)
  | 0x16 => r.un e (.cos r.h)
  | 0x17 => r.un e (.tanh r.h)
  | 0x20 => (Cvt.of? (r.m / 8 % 8)).bind fun dt => (Cvt.of? (r.m % 8)).bind fun ty =>
    r.un e (.cvt r.h dt ty (r.bit 6) (r.bit 7))
  | 0x21 => (Qf.of? r.m).bind fun q => r.bin e (.qpack r.h q)
  | 0x22 => (Qf.of? r.m).bind fun q => r.bin e (.qunpk r.h q)
  | 0x23 => (Qf.of? (r.m % 2)).bind fun q => (Bt.of? (r.m / 2)).bind fun bt => r.un e (.qscale r.h q bt)
  | _ => none

/-- Class 4 (R88, R222, R227, R235). -/
def buildLctl (e : Engine) (r : Raw) : Option Instr :=
  match r.op.toNat with
  | 0x01 => (Sm.of? r.m).bind fun x => r.bin e (.shfl r.h x)
  | 0x02 => (Vm.of? r.m).bind fun x => r.un e (.vote r.h x)
  | 0x03 => (Rop.of? r.m).bind fun x => r.un e (.redux r.h x)
  | 0x04 => (Rop.of? (r.m % 16)).bind fun x => r.un e (.scan r.h x (r.bit 4))
  | 0x05 => r.tern e (.prmt r.h)
  | 0x10 => do
    let x ← if r.a = 0 then some none else (r.a? e).map some
    return .bra r.h x r.off
  | 0x11 => some (.reconv r.h)
  | 0x12 => some (.fuse r.h)
  | 0x13 => some (.dpush r.h (r.di.setWidth 5))
  | 0x14 => some (.dpop r.h (r.a.setWidth 5))
  | 0x15 => some (.dqpop r.h (r.di.setWidth 5))
  | 0x16 => some (.exit r.h)
  | 0x20 => do return .bar r.h (← r.a? e) (← r.b? e)
  | 0x21 => do return .barm r.h (← r.a? e)
  | 0x22 => do return .arrive r.h (← r.a? e) (← r.b? e)
  | 0x23 => do return .await r.h (← r.a? e)
  | 0x24 => do return .sbar r.h (← Sc.of? r.m) (← r.a? e)
  | _ => none

/-- Class 5 (R89, R268). -/
def buildMem (e : Engine) (r : Raw) : Option Instr :=
  match r.op.toNat with
  | 0x01 => (LSz.of? (r.m % 8)).bind fun sz => (Ord.of? r.m).bind fun o => r.bin e (.ld r.h sz o)
  | 0x02 => (LSz.of? (r.m % 8)).bind fun sz => (Ord.of? r.m).bind fun o => r.bin e (.st r.h sz o)
  | 0x03 => (LSz.of? (r.m % 8)).bind fun sz => (Ord.of? r.m).bind fun o => r.bin e (.lds r.h sz o)
  | 0x04 => (LSz.of? (r.m % 8)).bind fun sz => (Ord.of? r.m).bind fun o => r.bin e (.sts r.h sz o)
  | 0x05 => (Aop.of? (r.m % 16)).bind fun o => (Scope.of? (r.m / 32)).bind fun sc =>
    r.bin e (.atom r.h o (r.bit 4) sc)
  | 0x06 => (Fop.of? (r.m % 8)).bind fun o => (AFt.of? (r.m / 8 % 4)).bind fun f => (Scope.of? (r.m / 32)).bind fun sc =>
    r.bin e (.atomf r.h o f sc)
  | 0x07 => (Aop.of? (r.m % 16)).bind fun o => (Scope.of? (r.m / 32)).bind fun sc =>
    r.bin e (.atoms r.h o (r.bit 4) sc)
  | 0x08 => (Scope.of? (r.m / 32)).bind fun sc => r.tern e (.cas r.h (r.bit 4) sc)
  | 0x09 => do return .fence r.h (← Fk.of? (r.m / 8 % 4)) (← Scope.of? (r.m / 32))
  | 0x0A => some (.waitst r.h)
  | 0x0B => do return .pref r.h (r.bit 0) (← r.a? e) (← r.b? e)
  | 0x10 => r.un e (.rres r.h)
  | 0x11 => do return .rpub r.h (← r.a? e) (← r.b? e)
  | 0x12 => r.un e (.rget r.h)
  | 0x13 => do return .rrel r.h (← r.a? e) (← r.b? e)
  | 0x18 => do return .cairn r.h (← Cm.of? r.m) (← r.d? e)
  | 0x19 => do return .cscrub r.h (← r.a? e) (← r.b? e)
  | _ => none

/-- Class 6 (R90, R349). -/
def buildTrav (e : Engine) (r : Raw) : Option Instr :=
  match r.op.toNat with
  | 0x01 => do return .walk r.h r.di (← r.a? e)
  | 0x02 => (Wi.of? r.m).bind fun x => r.un e (.wstat r.h x)
  | 0x03 => r.un e (.wpause r.h)
  | 0x04 => r.un e (.wresume r.h)
  | 0x05 => r.un e (.wcancel r.h)
  | 0x08 => do return .hreg r.h (← Wid.of? r.m) (← r.a? e) (← r.b? e) (← r.c? e)
  | 0x09 => do return .hunreg r.h (← r.a? e)
  | 0x10 => r.un e (.hdesc r.h)
  | 0x11 => (Nw.of? r.m).bind fun x => r.bin e (.acld r.h x)
  | 0x12 => do return .hret r.h (← r.a? e)
  | _ => none

/-- The row that a CSRW of CSR `n` is: some CSRs have a write with an effect of its own. -/
def csrwOf (h : Hd) (n : BitVec 8) (a : Src) : Instr :=
  if n = 0x82 then .csrwRaceidx h a
  else if n = 0x91 then .csrwTrctl h a
  else if n = 0x92 then .csrwTrrd h a
  else if n = 0x25 then .csrwHpool h a
  else if n = 0x20 then .csrwHshare h a
  else if n = 0x9A then .csrwMreqcap h a
  else if n = 0xA0 then .csrwDbgctl h a
  else if n.extractLsb' 6 2 = 1 && n.extractLsb' 0 2 = 1#2 then .csrwRlgeom h (n.extractLsb' 2 4) a
  else if n.extractLsb' 6 2 = 1 && n.extractLsb' 0 2 = 2#2 then .csrwRlpos h (n.extractLsb' 2 4) a
  else .csrw h n a

/-- Class 7 (R91). -/
def buildSys (e : Engine) (r : Raw) : Option Instr :=
  match r.op.toNat with
  | 0x01 => some (.nop r.h)
  | 0x02 => do
    let n := r.a.extractLsb' 0 8
    let d ← r.d? e
    return if n = 0x91 then .csrrTrctl r.h d else .csrr r.h d n
  | 0x03 => do return csrwOf r.h r.di (← r.a? e)
  | 0x04 => do return .time r.h (← r.d? e)
  | 0x05 => do return .cyc r.h (← r.d? e)
  | 0x06 => some (.xret r.h (r.bit 0))
  | 0x10 => r.un e (.sadl r.h (r.bit 0))
  | 0x11 => r.un e (.sclr r.h)
  | 0x12 => some (.scle r.h)
  | 0x18 => do return .bkpt r.h (← r.a? e)
  | 0x19 => do return .trigw r.h (← Act.of? r.m) (← r.a? e)
  | 0x1A => do return .mark r.h (← r.a? e)
  | _ => none

/-- The instruction that the raw fields build, before the checks that `decodeFull` adds. -/
def build (e : Engine) (r : Raw) : Option Instr :=
  match r.cls.toNat with
  | 0 => buildSscal e r
  | 1 => buildSeng e r
  | 2 => buildLint e r
  | 3 => buildLflt e r
  | 4 => buildLctl e r
  | 5 => buildMem e r
  | 6 => buildTrav e r
  | _ => buildSys e r

/-- The OPs that the opcode map lists for a class (R84 to R91). -/
def opsOf : Nat → List Nat
  | 0 => [0x01, 0x02, 0x03, 0x04, 0x05, 0x06, 0x07, 0x08, 0x09, 0x0A, 0x0B, 0x0C, 0x0D, 0x0E, 0x0F, 0x10, 0x11, 0x12, 0x13, 0x14, 0x15, 0x16, 0x17, 0x18, 0x19, 0x20, 0x21, 0x22, 0x23, 0x24, 0x28, 0x29, 0x2A]
  | 1 => [0x01, 0x02, 0x03, 0x04, 0x05, 0x06, 0x07, 0x10, 0x11, 0x12]
  | 2 => [0x01, 0x02, 0x03, 0x04, 0x05, 0x06, 0x07, 0x08, 0x09, 0x0A, 0x0B, 0x0C, 0x0D, 0x0E, 0x0F, 0x10, 0x11, 0x12, 0x13, 0x14, 0x15, 0x16, 0x17, 0x18, 0x19]
  | 3 => [0x01, 0x02, 0x03, 0x04, 0x05, 0x06, 0x07, 0x08, 0x09, 0x0A, 0x0B, 0x0C, 0x0D, 0x10, 0x11, 0x12, 0x13, 0x14, 0x15, 0x16, 0x17, 0x20, 0x21, 0x22, 0x23]
  | 4 => [0x01, 0x02, 0x03, 0x04, 0x05, 0x10, 0x11, 0x12, 0x13, 0x14, 0x15, 0x16, 0x20, 0x21, 0x22, 0x23, 0x24]
  | 5 => [0x01, 0x02, 0x03, 0x04, 0x05, 0x06, 0x07, 0x08, 0x09, 0x0A, 0x0B, 0x10, 0x11, 0x12, 0x13, 0x18, 0x19]
  | 6 => [0x01, 0x02, 0x03, 0x04, 0x05, 0x08, 0x09, 0x10, 0x11, 0x12]
  | _ => [0x01, 0x02, 0x03, 0x04, 0x05, 0x06, 0x10, 0x11, 0x12, 0x18, 0x19, 0x1A]

/-- Whether the opcode map gives an OP to the engine (R84 to R91). -/
def opOnEngine (cls op : Nat) (e : Engine) : Bool :=
  match cls with
  | 0 | 1 => e = .spur
  | 2 | 3 | 4 => e = .lane
  | 5 => e = .lane || op = 0x09 || op = 0x18 || op = 0x19
  | 6 => op = 0x02 || (if op < 0x10 then e = .spur else e = .lane)
  | _ => true

/-- The compact form that a class, OP and register fields build (R80, R86, R87, R91). -/
def buildCompact (cls op : Nat) (p : BitVec 3) (n : Bool) (d a : BitVec 8) : Option Instr :=
  match cls with
  | 2 =>
    match op with
    | 0x01 => some (.iaddCompact p n d a)
    | 0x02 => some (.isubCompact p n d a)
    | 0x03 => some (.imulCompact p n d a)
    | 0x08 => some (.iminCompact p n d a)
    | 0x09 => some (.imaxCompact p n d a)
    | 0x0A => some (.andCompact p n d a)
    | 0x0B => some (.orCompact p n d a)
    | 0x0C => some (.xorCompact p n d a)
    | 0x0D => some (.andnCompact p n d a)
    | 0x0E => some (.shlCompact p n d a)
    | 0x0F => some (.shrCompact p n d a)
    | 0x10 => some (.sarCompact p n d a)
    | 0x18 => some (.movCompact p n d a)
    | _ => none
  | 3 =>
    match op with
    | 0x01 => some (.faddCompact p n d a)
    | 0x02 => some (.fsubCompact p n d a)
    | 0x03 => some (.fmulCompact p n d a)
    | 0x05 => some (.fminCompact p n d a)
    | 0x06 => some (.fmaxCompact p n d a)
    | 0x0A => some (.f2addCompact p n d a)
    | 0x0B => some (.f2mulCompact p n d a)
    | 0x10 => some (.rcpCompact p n d a)
    | 0x11 => some (.rsqCompact p n d a)
    | 0x12 => some (.sqrtCompact p n d a)
    | 0x13 => some (.exp2Compact p n d a)
    | 0x14 => some (.log2Compact p n d a)
    | 0x15 => some (.sinCompact p n d a)
    | 0x16 => some (.cosCompact p n d a)
    | 0x17 => some (.tanhCompact p n d a)
    | _ => none
  | 7 => if op = 1 then some (.nopCompact p n) else none
  | _ => none

/-! ## Decoding (R82, R83) -/

/-- The decode traps (R83). -/
inductive DecErr | illegalLength | illegalEncoding | wrongEngine
  deriving DecidableEq, Repr

/-- What a decoder answers: the instruction with its unit count, or the trap of the first check that fails. -/
inductive Decoded
  | ok (i : Instr) (units : Nat)
  | trap (e : DecErr)
  deriving DecidableEq, Repr

/-- The unit count that bits [1:0] of the first unit give (R69). -/
def unitCount (u0 : Word) : Option Nat :=
  match (u0.extractLsb' 0 2).toNat with
  | 0 => some 1
  | 1 => some 2
  | 2 => some 3
  | _ => none

/-- Checks 5 to 7 of R83: the instruction is well formed and the units are exactly its encoding, so no undefined MOD
bit is set and no unused position is used. -/
def accept (cx : Cx) (us : List Word) (i : Option Instr) : Decoded :=
  match i with
  | some i => if i.wf cx && encode cx.eng i == us then .ok i us.length else .trap .illegalEncoding
  | none => .trap .illegalEncoding

/-- The decoder (R82, R83): exactly the units that `unitCount` asks for, first first. -/
def decode (cx : Cx) (us : List Word) : Decoded :=
  match us with
  | [] => .trap .illegalLength
  | u0 :: rest =>
    let r := Raw.ofUnits u0 (rest.headD 0) rest[1]?
    if unitCount u0 = none then .trap .illegalLength
    else if !(opsOf r.cls.toNat).contains r.op.toNat then .trap .illegalEncoding
    else if !opOnEngine r.cls.toNat r.op.toNat cx.eng then .trap .wrongEngine
    else
      match rest with
      | [] =>
        accept cx us (buildCompact r.cls.toNat r.op.toNat r.h.pred r.h.pn (u0.extractLsb' 16 8) (u0.extractLsb' 24 8))
      | _ => accept cx us (build cx.eng r)

/-! ## Couloir command records (R92, R93, R379) -/

/-- A command record as four words, word 0 lowest. -/
structure Rec where
  w0 : Word
  w1 : Word
  w2 : Word
  w3 : Word
  deriving DecidableEq, Repr

/-- Word 0 of a record. -/
def recWord0 (cmd var flags : Nat) (carg : BitVec 16) : Word :=
  carg ++ 0#4 ++ BitVec.ofNat 4 flags ++ BitVec.ofNat 4 var ++ BitVec.ofNat 4 cmd

/-- Words 1 and 2 as one 64-bit field. -/
def Rec.quad (r : Rec) : DWord := r.w2 ++ r.w1

/-- The record with the given word 0, 64-bit field and word 3. -/
def Rec.mk3 (w0 : Word) (q : DWord) (w3 : Word) : Rec :=
  ⟨w0, q.extractLsb' 0 32, q.extractLsb' 32 32, w3⟩

/-- The record of a Couloir command (R379). -/
def encodeRec : Instr → Option Rec
  | .ccpy cv len g s => some (.mk3 (recWord0 1 0 cv.code len) g s)
  | .ccpyG cv len g s => some (.mk3 (recWord0 1 0 (cv.code + 8) len) g s)
  | .ccpyD2 cv d => some (.mk3 (recWord0 1 1 cv.code 0) d 0)
  | .ccpyD3 cv d => some (.mk3 (recWord0 1 2 cv.code 0) d 0)
  | .cgth w d => some (.mk3 (recWord0 2 0 (flag w) 0) d 0)
  | .csct w d => some (.mk3 (recWord0 3 0 (flag w) 0) d 0)
  | .cfil len p s => some ⟨recWord0 4 0 0 len, p, 0, s⟩
  | .cfilG len g p => some (.mk3 (recWord0 4 0 8 len) g p)
  | .cdec n g s => some (.mk3 (recWord0 5 0 0 n) g s)
  | .csig c v => some (.mk3 (recWord0 6 0 0 0) c v)
  | .csigArrive b n => some (.mk3 (recWord0 6 1 0 (0#4 ++ n ++ b)) 0 0)
  | .cwat c t => some (.mk3 (recWord0 7 0 0 0) c t)
  | .cwatBar b => some (.mk3 (recWord0 7 1 0 (0#12 ++ b)) 0 0)
  | .cjmp o => some ⟨recWord0 8 0 0 0, o, 0, 0⟩
  | .cend => some ⟨recWord0 15 0 0 0, 0, 0, 0⟩
  | _ => none

/-- The command whose fields a record holds, before the reserved bits are judged. -/
def buildRec (r : Rec) : Option Instr :=
  let carg := r.w0.extractLsb' 16 16
  let fl := (r.w0.extractLsb' 8 4).toNat
  match (r.w0.extractLsb' 0 4).toNat, (r.w0.extractLsb' 4 4).toNat with
  | 1, 0 => (Conv.of? (fl % 4)).map fun cv => if fl < 8 then .ccpy cv carg r.quad r.w3 else .ccpyG cv carg r.quad r.w3
  | 1, 1 => (Conv.of? (fl % 4)).map fun cv => .ccpyD2 cv r.quad
  | 1, 2 => (Conv.of? (fl % 4)).map fun cv => .ccpyD3 cv r.quad
  | 2, 0 => some (.cgth (fl = 1) r.quad)
  | 3, 0 => some (.csct (fl = 1) r.quad)
  | 4, 0 => some (if fl < 8 then .cfil carg r.w1 r.w3 else .cfilG carg r.quad r.w3)
  | 5, 0 => some (.cdec carg r.quad r.w3)
  | 6, 0 => some (.csig r.quad r.w3)
  | 6, 1 => some (.csigArrive (carg.extractLsb' 0 4) (carg.extractLsb' 4 8))
  | 7, 0 => some (.cwat r.quad r.w3)
  | 7, 1 => some (.cwatBar (carg.extractLsb' 0 4))
  | 8, 0 => some (.cjmp r.w1)
  | 15, 0 => some .cend
  | _, _ => none

/-- The record decoder: `none` is BAD_COMMAND (R93). A record is a command exactly when it is that command's
encoding, so every reserved bit is zero. -/
def decodeRec (r : Rec) : Option Instr :=
  match buildRec r with
  | some i => if encodeRec i = some r then some i else none
  | none => none

/-! ## FRS requests (R418 to R420, R468) -/

/-- A request as 64-bit little-endian words, the four header words first. -/
abbrev ReqWords := List DWord

/-- The header words of a request (R420). -/
def reqHeader (op : Nat) (rq : Rq) : List DWord := [rq.tag ++ (0#16 ++ BitVec.ofNat 16 op), rq.reply, 0, 0]

/-- A DEBUG target word (R420). -/
def DbgTarget.word (t : DbgTarget) : DWord := (t.core ++ t.low).setWidth 64

/-- The target that a word names. -/
def DbgTarget.ofWord (w : DWord) : DbgTarget := ⟨w.extractLsb' 8 10, w.extractLsb' 0 8⟩

/-- Words of a byte string, byte 0 lowest. -/
def bytesWord (l : List Byte) : DWord :=
  BitVec.ofNat 64 (l.foldr (fun b n => b.toNat + 256 * n) 0)

/-- The eight bytes of a word, lowest first. -/
def wordBytes (w : DWord) : List Byte := (List.range 8).map fun i => w.extractLsb' (8 * i) 8

/-- The words of a request (R419, R420, R468). -/
def encodeReq : Instr → Option ReqWords
  | .createAs rq p => some (reqHeader 1 rq ++ [p.setWidth 64])
  | .destroyAs rq i => some (reqHeader 2 rq ++ [i.setWidth 64])
  | .map rq i va len at_ => some (reqHeader 3 rq ++ [i.setWidth 64, va, len, (at_ ++ 0#54).setWidth 64])
  | .protect rq i va len at_ => some (reqHeader 4 rq ++ [i.setWidth 64, va, len, (at_ ++ 0#54).setWidth 64])
  | .unmap rq i va len => some (reqHeader 5 rq ++ [i.setWidth 64, va, len])
  | .place rq i t => some (reqHeader 6 rq ++ [i.setWidth 64, t])
  | .loadImage rq i va len => some (reqHeader 7 rq ++ [i.setWidth 64, va, len])
  | .start rq i hd core st ctr inc =>
    some (reqHeader 8 rq ++ [i.setWidth 64, hd, core.setWidth 64, st, ctr, inc.setWidth 64])
  | .setCairn rq i m => some (reqHeader 9 rq ++ [i.setWidth 64, m.setWidth 64])
  | .scrub rq i l n => some (reqHeader 10 rq ++ [i.setWidth 64, l, n.setWidth 64])
  | .attest rq n =>
    some (reqHeader 11 rq ++ [bytesWord (n.take 8), bytesWord ((n.drop 8).take 8), bytesWord ((n.drop 16).take 8),
      bytesWord ((n.drop 24).take 8)])
  | .resetVif rq => some (reqHeader 12 rq)
  | .peerGrant rq dev sa a base lim =>
    some (reqHeader 13 rq ++ [dev.setWidth 64, sa.setWidth 64, a.setWidth 64, base, lim])
  | .halt rq t => some (reqHeader 14 rq ++ [1, t.word])
  | .resume rq t => some (reqHeader 14 rq ++ [2, t.word])
  | .step rq t => some (reqHeader 14 rq ++ [3, t.word])
  | .inflight rq t n => some (reqHeader 14 rq ++ [4, t.word, n])
  | .route rq line e => some (reqHeader 14 rq ++ [5, 0, line.setWidth 64, e])
  | .ctl rq t v => some (reqHeader 14 rq ++ [6, t.word, v])
  | _ => none

/-- The request whose fields the words hold, before the unused bits are judged. ROUTE's target has no use
(R467, R468); it is read and dropped. -/
def buildReq (vif : Nat) (via : Carrier) (ws : ReqWords) : Option Instr :=
  match ws with
  | h0 :: reply :: _ :: _ :: args =>
    let rq : Rq := { vif, tag := h0.extractLsb' 32 32, reply, via }
    match (h0.extractLsb' 0 16).toNat, args with
    | 1, [p] => some (.createAs rq (p.setWidth 32))
    | 2, [i] => some (.destroyAs rq (i.setWidth 14))
    | 3, [i, va, len, at_] => some (.map rq (i.setWidth 14) va len (at_.extractLsb' 54 9))
    | 4, [i, va, len, at_] => some (.protect rq (i.setWidth 14) va len (at_.extractLsb' 54 9))
    | 5, [i, va, len] => some (.unmap rq (i.setWidth 14) va len)
    | 6, [i, t] => some (.place rq (i.setWidth 14) t)
    | 7, [i, va, len] => some (.loadImage rq (i.setWidth 14) va len)
    | 8, [i, hd, core, st, ctr, inc] =>
      some (.start rq (i.setWidth 14) hd (core.setWidth 10) st ctr (inc.setWidth 32))
    | 9, [i, m] => some (.setCairn rq (i.setWidth 14) (m.setWidth 3))
    | 10, [i, l, n] => some (.scrub rq (i.setWidth 14) l (n.setWidth 13))
    | 11, [a, b, c, d] => some (.attest rq (wordBytes a ++ wordBytes b ++ wordBytes c ++ wordBytes d))
    | 12, [] => some (.resetVif rq)
    | 13, [dev, sa, a, base, lim] =>
      some (.peerGrant rq (dev.setWidth 8) (sa.setWidth 14) (a.setWidth 14) base lim)
    | 14, sub :: t :: rest =>
      match sub.toNat, rest with
      | 1, [] => some (.halt rq (.ofWord t))
      | 2, [] => some (.resume rq (.ofWord t))
      | 3, [] => some (.step rq (.ofWord t))
      | 4, [n] => some (.inflight rq (.ofWord t) n)
      | 5, [line, e] => if t.toNat < 2 ^ 18 then some (.route rq (line.setWidth 5) e) else none
      | 6, [v] => some (.ctl rq (.ofWord t) v)
      | _, _ => none
    | _, _ => none
  | _ => none

/-- The words with ROUTE's unused target replaced by zero. -/
def reqNormal (ws : ReqWords) : ReqWords :=
  match ws with
  | [h0, x, y, z, 5, _, l, e] => if h0.extractLsb' 0 16 = 14#16 then [h0, x, y, z, 5, 0, l, e] else ws
  | _ => ws

/-- A reply VA that a request naming no ASID must leave zero (R420). -/
def replyOk (i : Instr) : Bool :=
  match i with
  | .createAs rq _ | .attest rq _ | .resetVif rq | .halt rq _ | .resume rq _ | .step rq _ | .inflight rq _ _
  | .route rq _ _ | .ctl rq _ _ => rq.reply == 0
  | _ => true

/-- The ASID word of a request, by its OP, whatever else is wrong with it: the first argument, and the third of PEER_GRANT
(R420). -/
def asidNamed (ws : ReqWords) : Option (BitVec 14) :=
  let op := ((ws.headD 0).extractLsb' 0 16).toNat
  if 2 ≤ op && op ≤ 10 then (ws[4]?).map (·.setWidth 14)
  else if op = 13 then (ws[6]?).map (·.setWidth 14)
  else none

/-- The request decoder: anything that is not exactly a request's encoding is `badRequest`, with the ASID that it names
(R418 to R420). -/
def decodeReq (vif : Nat) (via : Carrier) (ws : ReqWords) : Instr :=
  let rq : Rq := { vif, tag := (ws.headD 0).extractLsb' 32 32, reply := (ws.drop 1).headD 0, via }
  let bad : Instr := .badRequest ⟨rq, asidNamed ws⟩
  match buildReq vif via ws with
  | some i => if encodeReq i = some (reqNormal ws) && replyOk i then i else bad
  | none => bad

/-! ## The host's probe -/

/-- The instruction that the lane decoder, or failing it the Spur decoder, reads from an instruction whose bits are
`w`, numbered as R69 numbers them (unit k holds bits 32k + 31 to 32k). -/
def decodeTableWord (_nbits w : Nat) : Option Instr :=
  let us := [BitVec.ofNat 32 w, BitVec.ofNat 32 (w >>> 32), BitVec.ofNat 32 (w >>> 64)]
  match unitCount (BitVec.ofNat 32 w) with
  | none => none
  | some n =>
    match decode ⟨.lane, 256⟩ (us.take n) with
    | .ok i _ => some i
    | .trap _ =>
      match decode ⟨.spur, 0⟩ (us.take n) with
      | .ok i _ => some i
      | .trap _ => none

end Sys2Proof
end

