-- ==== Sys2Proof/Machine/Maps.lean ====
section
/-! DEFINITION. Sparse maps in one canonical form: keys strictly rising, no entry equal to the default. Memory,
register files and the tables of cores and temporal groups are held in this form. -/

namespace Sys2Proof.Machine

/-- A sparse map from numbers, with a default that its accessors name. -/
abbrev NMap (α : Type) := List (Nat × α)

/-- The value at a key: the listed one, else the default. -/
def mget {α : Type} (d : α) : NMap α → Nat → α
  | [], _ => d
  | (k, v) :: m, i => if i = k then v else mget d m i

/-- The map with the value at a key replaced; the default removes the entry. -/
def mset {α : Type} [DecidableEq α] (d : α) : NMap α → Nat → α → NMap α
  | [], i, x => if x = d then [] else [(i, x)]
  | (k, v) :: m, i, x =>
    if i < k then (if x = d then (k, v) :: m else (i, x) :: (k, v) :: m)
    else if i = k then (if x = d then m else (i, x) :: m)
    else (k, v) :: mset d m i x

/-- The canonical form above a bound: keys strictly rising and no default listed. -/
def mwfFrom {α : Type} [DecidableEq α] (d : α) : Nat → NMap α → Bool
  | _, [] => true
  | lo, (k, v) :: m => decide (lo ≤ k) && decide (v ≠ d) && mwfFrom d (k + 1) m

/-- The canonical form. -/
abbrev mwf {α : Type} [DecidableEq α] (d : α) (m : NMap α) : Bool := mwfFrom d 0 m

/-- The first element of a list that meets a test, with the test's element changed. -/
def updFirst {α : Type} (p : α → Bool) (f : α → α) : List α → List α
  | [] => []
  | a :: l => if p a then f a :: l else a :: updFirst p f l

/-- Every element that meets a test changed. -/
def updAll {α : Type} (p : α → Bool) (f : α → α) (l : List α) : List α :=
  l.map fun a => if p a then f a else a

/-- An element put before the first that it may stand before. -/
def insertBy {α : Type} (le : α → α → Bool) (a : α) : List α → List α
  | [] => [a]
  | b :: l => if le a b then a :: b :: l else b :: insertBy le a l

/-- A list in an order; equals keep their places. -/
def sortBy {α : Type} (le : α → α → Bool) : List α → List α
  | [] => []
  | a :: l => insertBy le a (sortBy le l)

/-- Consecutive bytes of a byte map. -/
def mbytes (d : Byte) (m : NMap Byte) (a : Nat) : Nat → List Byte
  | 0 => []
  | n + 1 => mget d m a :: mbytes d m (a + 1) n

/-- The byte map with consecutive bytes written. -/
def mwrite (d : Byte) : NMap Byte → Nat → List Byte → NMap Byte
  | m, _, [] => m
  | m, a, b :: l => mwrite d (mset d m a b) (a + 1) l

/-- A little-endian number from bytes (R8). -/
def leNat : List Byte → Nat
  | [] => 0
  | b :: l => b.toNat + 256 * leNat l

/-- The `n` low bytes of a number, lowest first (R8). -/
def leBytes : Nat → Nat → List Byte
  | 0, _ => []
  | n + 1, x => BitVec.ofNat 8 x :: leBytes n (x / 256)

end Sys2Proof.Machine
end

