-- ==== Sys2Proof/Machine/State.lean ====
section
/-! DEFINITION. The state of the device, and its value after package reset. Everything is plain data. -/

namespace Sys2Proof.Machine

/-! ## The ordering machine (R35, R39, R300, R301) -/

/-- A byte address: global memory of an address space, a scratch byte of a core, or a byte of the domain window as an
address space names it (R36, R142, R426). -/
inductive Place
  | glob (asid va : Nat)
  | scr (core off : Nat)
  | win (asid va : Nat)
  deriving DecidableEq, Repr

/-- A reader or writer stamp of a Cairn sidecar (R300): `flag` is MR or AT. -/
structure Stamp where
  flag : Bool
  act : Nat
  clk : BitVec 24
  sc : Nat
  bc : BitVec 6
  bl : BitVec 6
  bd : BitVec 6
  deriving DecidableEq, Repr

/-- The empty stamp: scope 7 (R300). -/
def Stamp.empty : Stamp := ⟨false, 0, 0, 7, 0, 0, 0⟩

/-- What an atomic does at its Apply step (R154, R247, R275, R277). `flt` names the element format: 0 FP32, 1 FP16,
2 BF16, and the sampled mode's code. -/
inductive AtOp
  | int (op : Aop)
  | cas
  | flt (op : Fop) (fmt : Nat) (rm : Nat)
  deriving DecidableEq, Repr

/-- One thread's operands of an atomic. -/
structure RmwLane where
  lane : Nat
  v : DWord
  c : DWord
  deriving DecidableEq, Repr

/-- What a path entry does at its Apply step: a store, an atomic of a width in bytes, or a read record (R308). -/
inductive Eff
  | store (data : List Byte)
  | rmw (op : AtOp) (bytes : Nat) (lanes : List RmwLane)
  | readRec (reader writer : Stamp)
  deriving DecidableEq, Repr

/-- How returned bytes become a register value (R153, R154, R270, R275, R277). -/
inductive DKind
  | ld (sz : LSz)
  | uniform (sz : LSz)
  | word
  | pair
  | half (k : Nat)
  | spurLd (sz : SSz)
  | spurAt (w : SW)
  /-- no reply: the register that a store takes its data from, as a trap frame names it (R193) -/
  | data
  deriving DecidableEq, Repr

/-- Where a reply goes. -/
structure Dest where
  d : Dst
  k : DKind
  deriving DecidableEq, Repr

/-- What an access carries for ordering and for Cairn: the actor, its program-order number, the instruction's PC, the
two-level name, the clock stamped, the scope of its kind, whether it publishes, and the Cairn mode in force
(R287, R301, R307, R315). -/
structure Acc where
  actor : Nat
  pos : Nat
  ipc : DWord
  spc : DWord
  seq : DWord
  clk : Word
  sc : Nat
  vec : BitVec 18
  acq : Bool
  rel : Bool
  mode : Nat
  /-- reference time of the issue, for the limit of R427 -/
  time : Nat
  deriving DecidableEq, Repr

/-- A leaf entry's content for one VA (R255): the physical byte and the attributes. -/
structure Page where
  phys : Nat
  pr : Bool
  pw : Bool
  px : Bool
  c : Bool
  ew : Nat
  k : Bool
  au : Bool
  sz : Bool
  deriving DecidableEq, Repr

/-- A store, an atomic or a read record on its way (R35). `page` is the translation that a Spur store has passed its check
under, and completes under whatever becomes of the mapping (R143, R251). -/
structure Entry where
  uid : Nat
  acc : Acc
  place : Place
  lanes : Mask
  eff : Eff
  dest : Option Dest
  page : Option Page
  deriving DecidableEq, Repr

/-- An entry that its home has answered and that awaits its Acknowledge step: `cause` 0 means applied (R39, R256). -/
structure Done where
  e : Entry
  cause : Nat
  reply : List (Nat × DWord)
  flags : BitVec 5
  stamp : Stamp
  race : List Byte
  deriving DecidableEq, Repr

/-- One thread's part of a pending load. -/
structure LoadLane where
  lane : Nat
  place : Place
  deriving DecidableEq, Repr

/-- A pending load (R35): the threads that have not yet performed. -/
structure Load where
  acc : Acc
  bytes : Nat
  lanes : List LoadLane
  dest : Dest
  deriving DecidableEq, Repr

/-- An incomplete fence (R43). -/
structure Fence where
  pos : Nat
  kind : Fk
  sc : Scope
  deriving DecidableEq, Repr

/-- A view-table entry (R301). -/
structure ViewEnt where
  actor : Nat
  clk : Word
  deriving DecidableEq, Repr

/-- An actor of the ordering machine with its Cairn state (R35, R301). `observed` names entries by uid; `view` is in
order of use, the least recent first. -/
structure Actor where
  pos : Nat := 0
  loads : List Load := []
  storeQ : List Entry := []
  unacked : Nat := 0
  fences : List Fence := []
  observed : List Nat := []
  clk : Word := 0
  bc : BitVec 6 := 0
  bl : BitVec 6 := 0
  bd : BitVec 6 := 0
  view : List ViewEnt := []
  lossy : Bool := false
  ovr : Nat := 0
  spent : Bool := false
  deriving DecidableEq, Repr

/-- A copy in a core's L1 view (R35, R249, R307). -/
structure Copy where
  asid : Nat
  line : Nat
  bytes : List Byte
  pr : Bool
  pw : Bool
  k : Bool
  wst : Stamp
  recSent : Bool
  deriving DecidableEq, Repr

/-- A drained store of a core's overlay, oldest first (R35). -/
structure OvStore where
  uid : Nat
  acc : Acc
  asid : Nat
  va : Nat
  data : List Byte
  deriving DecidableEq, Repr

/-- A clear presence bit: the queue that cleared it, and the stranded mark (R23, R393). -/
structure Absent where
  core : Nat
  line : Nat
  queue : Nat
  stranded : Bool
  deriving DecidableEq, Repr

/-- An ownership entry at a home line, named by the line's number (R24, R35). -/
structure Owner where
  line : Nat
  actor : Nat
  deriving DecidableEq, Repr

/-- What is damaged beyond correction: a line of memory, a compression block with its descriptor, a Cairn sidecar, or
a scratch line (R289, R319). -/
inductive Damage
  | line (n : Nat)
  | block (n : Nat)
  | sidecar (n : Nat)
  | scratch (core n : Nat)
  deriving DecidableEq, Repr

/-- A placement entry (R253). -/
structure PlaceEnt where
  start : Nat
  limit : Nat
  mode : Nat
  ch : Nat
  deriving DecidableEq, Repr

/-- A remap-filter entry: frame of a channel (64 KiB units of physical address) to the canonical page (R257). -/
structure Remap where
  frame : Nat
  asid : Nat
  page : Nat
  deriving DecidableEq, Repr

/-- A mapping of an address space's 64 KiB page that is an alias, with the frame it shares (R257). -/
structure Alias where
  asid : Nat
  page : Nat
  frame : Nat
  deriving DecidableEq, Repr

/-! ## Temporal groups (R171 to R195) -/

/-- Why an agent does not issue. -/
inductive Park | ready | dq | presence | recall | barrier | ring | fault | record | await | rendezvous
  deriving DecidableEq, Repr

/-- One arm of a busy divergence entry (R179). -/
structure Arm where
  mask : Mask
  pc : DWord
  wait : Bool
  park : Park := .ready
  deriving DecidableEq, Repr

/-- A busy divergence entry (R179). -/
structure Div where
  t : Arm
  f : Arm
  rpc : DWord
  deriving DecidableEq, Repr

/-- The operation that a replay entry performs again (R194). -/
inductive RepOp
  | load (l : Load)
  | entry (e : Entry)
  deriving DecidableEq, Repr

/-- An operation held for replay: its cause (0 when held only by order, or done), the race record of a late RACE, and
the reply once it has been performed (R190, R193, R297). -/
structure LateOp where
  op : RepOp
  cause : Nat
  race : List Byte
  done : Bool
  reply : List (Nat × DWord)
  flags : BitVec 5
  /-- the core's cycle in which the fault was detected (R191) -/
  cyc : Nat
  deriving DecidableEq, Repr

/-- A replay entry: the fields of R193 and the operations it holds. -/
structure Replay where
  pos : Nat
  ipc : DWord
  kind : Nat
  done : Bool
  dest : BitVec 10
  cause : Nat
  lanes : Mask
  lvec : DWord
  addr : DWord
  ops : List LateOp
  deriving DecidableEq, Repr

/-- A trap frame: the header fields of R193 and the replay entries. -/
structure Frame where
  pc : DWord
  fpc : DWord
  addr : DWord
  lvec : DWord
  cause : Nat
  late : Bool
  nested : Bool
  frameFail : Bool
  held : Bool
  pmask : Mask
  lmask : Mask
  actor : Nat
  seq : DWord
  spc : DWord
  group : List DWord
  div : List DWord
  carea : List Byte
  replay : List Replay
  /-- units of the faulting instruction where they are known, else 1 (R194) -/
  units : Nat
  /-- the hardware copy's divergence entry and the faulting arm (true for arm T or an idle entry) -/
  entry : Option Div
  arm : Bool
  deriving DecidableEq, Repr

/-- A group's part in a BARM rendezvous (R186, R238): the PC, the mask, its contributing threads, whether the
rendezvous has released it, and the masks of its cause area where the rendezvous has failed. -/
structure Barm where
  pc : DWord
  mask : DWord
  threads : Mask
  done : Bool
  fail : List DWord
  deriving DecidableEq, Repr

/-- How far a group has come in an instruction that waits after its first effect: the arrival of the BAR or HRET at the PC
(R237, R361), the completed rounds of the scope barrier when it arrived (R187, R304), the core barrier that it waits at
(R237), its part in a BARM rendezvous (R186, R238), when its FUSE window ends (R231), and the arm that is within a CSCRUB with the
VA of its next line (R288). -/
structure Waits where
  arrived : Bool := false
  sbWait : Option Nat := none
  waitBar : Option Nat := none
  barm : Option Barm := none
  fuseAt : Option Nat := none
  scrub : Option (Bool × Nat) := none
  deriving DecidableEq, Repr

/-- A fused group that an arm is in (R94): its threads, the members' PCs, and the place of the member that has issued last. -/
structure Fused where
  mask : Mask
  pcs : List DWord
  at_ : Nat
  deriving DecidableEq, Repr

/-- An arm that firmware has resumed with `.skip` while it was pushed: its threads, and the PC it held with the one that it goes on
at when it is popped (R191, R241). -/
structure Skip where
  mask : Mask
  pc : DWord
  next : DWord
  deriving DecidableEq, Repr

/-- A temporal group (R171, R174). Register files are sparse: `v` and `o` are keyed by register × 16 + thread, `l0` and
`l0pos` by thread, `p` and `g` by number. `l0pos` is the program-order number of the instruction that has written `l0` (R175). -/
structure Tg where
  used : Bool := false
  live : Mask := 0
  path : Mask := 0
  pc : DWord := 0
  regs : Nat := 0
  v : NMap Word := []
  o : NMap Word := []
  l0 : NMap Word := []
  l0pos : NMap Nat := []
  p : NMap Mask := []
  g : NMap DWord := []
  fpctl : DWord := 0
  /-- the program-order number of the youngest CSRW of sys.fpctl: flags of older instructions come no more (R65) -/
  fpPos : Nat := 0
  div : Option Div := none
  width : Nat := 1
  base : Nat := 0
  strand : Nat := 0
  order : Nat := 0
  park : Park := .ready
  readySince : Nat := 0
  lag : NMap Nat := []
  /-- the arrival of the BAR, SBAR or HRET at the PC has been made (R237, R239, R361) -/
  arrived : Bool := false
  /-- the completed rounds of the scope barrier when the group arrived (R187, R304) -/
  sbWait : Option Nat := none
  /-- the core barrier that the group waits at (R237) -/
  waitBar : Option Nat := none
  /-- the BARM rendezvous that the group has joined (R186, R238) -/
  barm : Option Barm := none
  /-- entries of other arrivers of completed phases, with their barrier, that the wait gains (R303) -/
  gains : List (Nat × (ViewEnt × BitVec 18)) := []
  /-- cycle count at which a released wave or a FUSE window lets the group go on (R185, R231) -/
  wakeAt : Nat := 0
  /-- the barrier whose later wave the group is in, until that wave is ready (R453) -/
  wave : Option Nat := none
  /-- ready and unissued for 256 local cycles: ahead of every handler group (R126, R127) -/
  boosted : Bool := false
  fuseAt : Option Nat := none
  spc : DWord := 0
  seq : DWord := 0
  /-- the handler instance that the group belongs to, by number (R357) -/
  handler : Option Nat := none
  /-- the frame of handler mode (R191) -/
  frame : Option Frame := none
  /-- in handler mode, how far the interrupted instruction has come -/
  outer : Waits := {}
  /-- parked on fault service with this frame (R136, R191) -/
  svc : Option Frame := none
  /-- replayed operations must finish before anything issues (R194) -/
  replaying : Bool := false
  late : List LateOp := []
  halted : Bool := false
  haltReq : Bool := false
  stepReq : Bool := false
  /-- the saddle of the open clear window, and whether its start has come (R440, R442) -/
  window : Option Nat := none
  crossed : Bool := false
  /-- a CSCRUB of the group is under way (R471) -/
  scrubbing : Bool := false
  /-- the arm that is within a CSCRUB, and the VA of its next line (R288) -/
  scrub : Option (Bool × Nat) := none
  /-- the fused groups that the arms are in (R94) -/
  fused : List Fused := []
  /-- pushed arms that firmware has resumed with `.skip` (R191, R241) -/
  skips : List Skip := []
  deriving DecidableEq, Repr

/-! ## The Spur (R112, R113) -/

/-- Spur run states (R113), in code order. -/
inductive Run | run | parkDq | parkRdzv | parkLaunch | parkLjoin | parkFault | yielded | done
  deriving DecidableEq, Repr

/-- A member of a fork set (R20, R156). -/
inductive Member
  | walk (ctx : Nat)
  | queue (q : Nat)
  | tg (slot : Nat)
  deriving DecidableEq, Repr

/-- A fork set (R20, R112, R116): its members, those still running, and the first error status with the Cairn entries that RDZV
gains from finished members (R160, R303). -/
structure ForkSet where
  num : Nat
  members : List Member
  running : List Member
  status : DWord
  gains : List (ViewEnt × BitVec 18)
  deriving DecidableEq, Repr

/-- The Spur trap frame (R112, R137): the PC, cause, address and the one replay entry. -/
structure SpurFrame where
  pc : DWord
  cause : Nat
  addr : DWord
  replay : Option Replay
  /-- the PC of the faulting instruction (R466) -/
  fpc : DWord
  deriving DecidableEq, Repr

/-- The Spur (R112). `busy` is the program-order number of the one access that holds back younger instructions, with
the PC that follows it (R143). -/
structure Spur where
  pc : DWord := 0
  s : NMap DWord := []
  q : BitVec 7 := 0
  fpctl : DWord := 0
  run : Run := .done
  sets : List ForkSet := []
  watch : Option (DWord × DWord) := none
  /-- a re-read after an Apply step has found the counter of a parked LJOIN at its target (R122) -/
  met : Bool := false
  /-- the launch record that a parked LAUNCH has read (R119) -/
  record : List Byte := []
  frame : Option SpurFrame := none
  busy : Option (Nat × DWord) := none
  halted : Bool := false
  haltReq : Bool := false
  stepReq : Bool := false
  window : Option Nat := none
  crossed : Bool := false
  scrubbing : Bool := false
  /-- the VA of the next line of a CSCRUB that is under way (R288) -/
  scrub : Option Nat := none
  /-- the Spur's refused stores, by uid: other actors that have observed one wait until the instruction, performed again, has been
  acknowledged (R40) -/
  owed : List Nat := []
  deriving DecidableEq, Repr

/-! ## Barriers, decision queue and ring links (R22, R183, R265) -/

/-- A core barrier (R183), with the entries that its arrivals published (R303): those of the current phase, then those
of the next. -/
structure Bar where
  exp : Nat := 0
  phase : Bool := false
  cur : Nat := 0
  next : Nat := 0
  pubs : List (ViewEnt × BitVec 18) := []
  nextPubs : List (ViewEnt × BitVec 18) := []
  deriving DecidableEq, Repr

/-- A decision word with the Spur's entry published at its DQPUT (R22, R303). -/
structure DqWord where
  word : DWord
  pub : ViewEnt × BitVec 18
  deriving DecidableEq, Repr

/-- A ring-link set (R265) with the entries that the publications not yet taken carry (R303). -/
structure Ring where
  base : DWord := 0
  geom : DWord := 0
  pos : DWord := 0
  pubs : List (ViewEnt × BitVec 18) := []
  deriving DecidableEq, Repr

/-- A group parked in order at a decision queue or a ring-link set, since a local cycle (R22, R283, R285). -/
structure Waiter where
  ring : Option Nat
  slot : Nat
  arm : Bool
  since : Nat := 0
  deriving DecidableEq, Repr

/-- Exception flags NV DZ OF UF NX from high to low (R65). -/
abbrev FFlags5 := BitVec 5

/-! ## The Traverse (R327 to R365) -/

/-- The fields of a problem record (R328, R329). -/
structure Prob where
  fusm : Nat := 0
  order : Nat := 0
  cplx : Bool := false
  grouped : Bool := false
  akind : Nat := 0
  bkind : Nat := 0
  kt : Nat := 0
  cons : Nat := 0
  proda : Nat := 0
  prodb : Nat := 0
  m : Nat := 0
  n : Nat := 0
  k : Nat := 0
  g : Nat := 0
  afmt : Word := 0
  bfmt : Word := 0
  abase : Nat := 0
  bbase : Nat := 0
  ald : Nat := 0
  bld : Nat := 0
  asbase : Nat := 0
  bsbase : Nat := 0
  bgstride : Nat := 0
  offs : Nat := 0
  seed : Nat := 0
  slotoff : Nat := 0
  slotsz : Nat := 0
  rowmask : Nat := 0
  colmask : Nat := 0
  /-- the context's copy of the record's bytes (R327) -/
  raw : List Byte := []
  deriving DecidableEq, Repr

/-- A tile with its effective masks (R331, R333, R340). -/
structure Tile where
  group : Nat
  ti : Nat
  tj : Nat
  row0 : Nat
  rows : Nat
  cols : Nat
  deriving DecidableEq, Repr

/-- A step of a walk (R331): its number and its tiles with their quarter. -/
structure WStep where
  no : Nat
  tiles : List (Nat × Tile)
  deriving DecidableEq, Repr

/-- An operand slot (R336, R342, R364): its state code, the step and chunk that read it, the tile whose rows or columns
it holds, the format word once full, the source lines that have not been read, those among them that await service, the lines
that have been read and not landed, and the arbiter's group of a shared fetch (R337). -/
structure TSlot where
  st : Nat := 0
  step : Nat := 0
  kk : Nat := 0
  tile : Option Tile := none
  fmt : Word := 0
  lines : List Nat := []
  faults : List Nat := []
  got : List (Nat × List Byte) := []
  group : Option Nat := none
  deriving DecidableEq, Repr

/-- What two shared fetches agree in when they are identical (R337): the cluster, the address space, the operand, the base
addresses, the stride, the format word, the stored rows, and the positions of the chunk. -/
structure FetchKey where
  cluster : Nat
  asid : Nat
  opB : Bool
  base : Nat
  sbase : Nat
  ld : Nat
  fmt : Word
  first : Nat
  rows : Nat
  k0 : Nat
  k1 : Nat
  deriving DecidableEq, Repr

/-- A slot of a context of a core. -/
structure SlotRef where
  core : Nat
  ctx : Nat
  opB : Bool
  slot : Nat
  deriving DecidableEq, Repr

/-- A group of the weight-share arbiter (R337): its number, what its fetches agree in, the local cycle of the latest of them, whether
its line reads have begun, and the first of its fetches. -/
structure Arb where
  id : Nat
  key : FetchKey
  since : Nat
  begun : Bool
  lead : SlotRef
  deriving DecidableEq, Repr

/-- An accumulator bank (R343, R364): its state code, its words, the step it holds, and the quarters whose consumers have
not returned. -/
structure Bank where
  st : Nat := 0
  words : NMap Word := []
  step : Nat := 0
  mask : List Nat := []
  deriving DecidableEq, Repr

/-- The next request of an operand: step, chunk, and item within the chunk (R364). -/
structure ReqPos where
  step : Nat := 0
  kk : Nat := 0
  item : Nat := 0
  deriving DecidableEq, Repr

/-- A Traverse context (R353, R364). `cursor` is the next tile of the walk order to be looked at; `steps` are the steps
whose tiles are known and not yet done with; `maskFault` is the VA of a mask read that awaits service. -/
structure Ctx where
  state : Nat := 0
  status : Nat := 0
  prob : Prob := {}
  recva : DWord := 0
  cseq : DWord := 0
  spc : DWord := 0
  offs : List Nat := []
  fp : DWord := 0
  flags : FFlags5 := 0
  endAs : Nat := 0
  cursor : Nat := 0
  steps : List WStep := []
  allSteps : Option Nat := none
  nextNo : Nat := 0
  reqA : ReqPos := {}
  reqB : ReqPos := {}
  slotsA : NMap TSlot := []
  slotsB : NMap TSlot := []
  tailA : Nat := 0
  tailB : Nat := 0
  banks : NMap Bank := []
  run : Bool := false
  runStep : Nat := 0
  runKk : Nat := 0
  runKs : Nat := 0
  /-- the 16-byte units of the chunk's slots that its completed K-steps have read, by number (R346) -/
  units : List (Nat × List Byte) := []
  /-- the local cycle since which the context has been ready to start its next step (R344) -/
  readyAt : Option Nat := none
  maskFault : Option Nat := none
  stepsDone : Nat := 0
  pstall : Nat := 0
  cstall : Nat := 0
  fstall : Nat := 0
  upcalls : Nat := 0
  fset : Option Nat := none
  /-- the Spur's entry published by the WALK or FORK (R302) -/
  pub : ViewEnt × BitVec 18 := (⟨0, 0⟩, 0)
  deriving DecidableEq, Repr

/-- A handler-table entry (R352). -/
structure Handler where
  pc : DWord
  wid : Nat
  regs : Nat
  maxi : Nat
  deriving DecidableEq, Repr

/-- An upcall (R342, R357, R358): its kind is 0 PRODUCE_A, 1 PRODUCE_B, 2 CONSUME; `slot` is the operand slot or the
bank, `sub` the quarter. -/
structure Upcall where
  ctx : Nat
  kind : Nat
  hid : Nat
  tile : Tile
  kk : Nat
  slot : Nat
  sub : Nat
  raised : Nat
  deriving DecidableEq, Repr

/-- A running handler instance (R357): its number on the core, the upcall, the instance number, the slots of its groups, and the
flags of those of them that have ended (R361). -/
structure Inst where
  id : Nat
  up : Upcall
  inst : Nat
  slots : List Nat
  flags : FFlags5 := 0
  deriving DecidableEq, Repr

/-! ## Couloir (R377 to R397) -/

/-- Where the bytes of a piece come from: a source range, a pattern with the place in it, or conversions from an element
on. -/
inductive CSrc
  | copy (src : Place)
  | fill (pat : Word) (off : Nat)
  | conv (elem : Nat)
  deriving DecidableEq, Repr

/-- Some bytes of one destination line of a command. -/
structure Piece where
  dst : Place
  len : Nat
  src : CSrc
  deriving DecidableEq, Repr

/-- The command in hand (R381): the pieces not written, in order; the destination lines that it has not landed or written;
the scratch lines that it cleared, by core and line; the source lines already read (R392); and for a conversion the source
rows with the elements of each (R382). -/
structure Cmd where
  op : Instr
  pieces : List Piece := []
  lines : List Place := []
  cleared : List (Nat × Nat) := []
  got : List (Place × List Byte) := []
  rows : List Place := []
  perRow : Nat := 1
  conv : Conv := .none
  deriving DecidableEq, Repr

/-- A Couloir queue (R377, R390, R391, R397). -/
structure Queue where
  run : Bool := false
  code : Nat := 0
  ridx : Nat := 0
  prog : DWord := 0
  recva : DWord := 0
  stva : DWord := 0
  spc : DWord := 0
  seq : DWord := 0
  fp : DWord := 0
  flags : FFlags5 := 0
  fset : Option Nat := none
  lag : NMap Nat := []
  /-- a record that has been read and has not issued -/
  pend : Option Instr := none
  /-- what that record has read of its descriptor and its index list, each once (R380, R384) -/
  read : List (Place × List Byte) := []
  /-- a re-read after an Apply step has found the counter of a waiting CWAT at its target (R388) -/
  met : Bool := false
  cmd : Option Cmd := none
  /-- a program that is ending with a code once its accesses are done -/
  ending : Option Nat := none
  /-- line reads and writes that await service: cause and VA (R395) -/
  faults : List (Nat × Nat) := []
  /-- atomics of CSIG and status words that their homes have refused -/
  late : List LateOp := []
  /-- the status word has been issued and awaits its acknowledgement -/
  statusSent : Bool := false
  /-- firmware has declined a fault: the program ends with this code once the lines in flight are done (R395) -/
  declined : Option Nat := none
  /-- STATE of the position record, as it was when the image was written (R397) -/
  imgState : Nat := 0
  deriving DecidableEq, Repr

/-! ## Launches and images (R117, R405, R408, R471) -/

/-- The time accounts of a launch in ns, with the image counts (R471). -/
structure Accounts where
  submit : Nat := 0
  queue : Nat := 0
  fault : Nat := 0
  iowait : Nat := 0
  exec : Nat := 0
  scrub : Nat := 0
  restores : Nat := 0
  saves : Nat := 0
  deriving DecidableEq, Repr

/-- A launch: its identity, what its completion writes, and its progress (R117, R121, R404, R405, R462). -/
structure Launch where
  vif : Nat := 0
  asid : Nat := 0
  prio : Nat := 0
  regs : Nat := 0
  staddr : DWord := 0
  ccaddr : DWord := 0
  ccinc : Nat := 0
  trecva : DWord := 0
  scrubva : DWord := 0
  nscrub : Nat := 0
  nextSeq : DWord := 1
  /-- the capability bits that the launch needs (R405) -/
  caps : Nat := 0
  /-- the cause with which the launch has been ended (R138) -/
  killed : Option Nat := none
  /-- sys.cairn: the address space's mode at this restore (R312, R419) -/
  cairn : Nat := 1
  /-- order of restores, for the most recently restored (R409) -/
  restored : Nat := 0
  acct : Accounts := {}
  deriving DecidableEq, Repr

/-- A posted launch record or a START request, not yet placed (R117, R118, R419): ARG values only for a record. -/
structure Card where
  vif : Nat
  asid : Nat
  prio : Nat
  image : DWord
  args : List DWord
  staddr : DWord
  ccaddr : DWord
  ccinc : Nat
  core : Option Nat
  order : Nat
  acct : Accounts
  deriving DecidableEq, Repr

/-- A save in progress (R123, R133, R134): its image kind, whether handler groups and the Spur stop too and the walks are
saved where they stand, whether the copy programs are saved where they stand (a forced save), and the local cycle at which
it began. -/
structure Save where
  kind : Nat
  stop : Bool
  hard : Bool
  since : Nat
  deriving DecidableEq, Repr

/-! ## A core (R12, R18) -/

/-- The core's control registers that an instruction reads or writes, each a 64-bit register (R125, R128, R130 to R132,
R192, R317, R351, R463, R464). -/
structure Csrs where
  hshare : DWord := 48
  preq : DWord := 0
  pdeadline : DWord := 65536
  swapwait : DWord := 16384
  parkshare : DWord := 50
  hpool : DWord := 0x400002
  tvec : DWord := 0
  tdeleg : DWord := 0
  tframe : DWord := 0
  racebase : DWord := 0
  raceidx : DWord := 0
  dbgctl : DWord := 0
  trcbase : DWord := 0
  trcidx : DWord := 0
  deriving DecidableEq, Repr

/-- A partition's epoch (R126): its issue slots so far, those that handler groups took, and the hshare it sampled as it began: 48
at reset (R126). -/
structure Epoch where
  slots : Nat := 0
  handlers : Nat := 0
  share : Nat := 48
  deriving DecidableEq, Repr

/-- A core. -/
structure Core where
  launch : Option Launch := none
  spur : Spur := {}
  csr : Csrs := {}
  tgs : NMap Tg := []
  scratch : NMap Byte := []
  copies : List Copy := []
  overlay : List OvStore := []
  dq : List DqWord := []
  bars : NMap Bar := []
  rings : NMap Ring := []
  waiters : List Waiter := []
  /-- the last take from the decision queue (key 0) and from each ring-link set (key 1 plus its number): the local cycle plus 1,
  and the slot (R22, R283, R285) -/
  takes : NMap (Nat × Nat) := []
  /-- each partition's current epoch of 64 issue slots (R126, R166) -/
  epochs : NMap Epoch := []
  ctxs : NMap Ctx := []
  /-- the context whose step holds the arrays, the one that held them last, and the local cycle at which its step ended (R344) -/
  arrays : Option Nat := none
  lastArrays : Nat := 1
  stepEndAt : Nat := 0
  handlers : NMap (Option Handler) := []
  upq : List Upcall := []
  insts : List Inst := []
  nextInst : Nat := 0
  dptr : Nat := 7
  queues : NMap Queue := []
  pend : List Card := []
  saving : Option Save := none
  /-- a forced save's outstanding accesses have been collected -/
  collected : Bool := false
  preqAt : Nat := 0
  /-- REQ rose when the Spur had ended, so that the front end waits for the launch's completion (R135) -/
  preqDone : Bool := false
  /-- local cycle since which the core has been idle (R123) -/
  idleSince : Nat := 0
  spawnNo : Nat := 0
  /-- local cycle of the last sample, and the low byte of the actor sampled (R465) -/
  lastSample : Nat := 0
  sampled : Nat := 0x80
  haltAll : Bool := false
  deriving DecidableEq, Repr

/-- A saved image (R26, R406): the core's state with the Cairn state of its actors and its absent lines. `wait` names the
atomics that had left the core before the save and have not replied, `redo` those of them whose homes have refused them, with
the cause: they are performed again after the restore (R135, R297). -/
structure Saved where
  kind : Nat
  hcore : Nat
  core : Core
  actors : NMap Actor
  absent : List Absent
  wait : List Nat
  redo : List (Nat × Nat)
  deriving DecidableEq, Repr

/-- A waiting saved image, in its interface's queue by arrival (R408). -/
structure Img where
  order : Nat
  saved : Saved
  /-- where its bytes lie in firmware memory (R406) -/
  phys : Nat := 0
  deriving DecidableEq, Repr

/-- An image that the front end has chosen for a core and not yet restored (R408, R27): a fresh one by its card, or the
saved one of an order. -/
inductive Incoming
  | fresh (c : Card)
  | saved (order : Nat)
  deriving DecidableEq, Repr

/-- A launch that has completed and whose front end writes are still to be acknowledged (R121, R471): stage 0 before the
retire scrub, 9 within it, 1 the time record, 2 the status, 3 the counter, 4 nothing more; `uids` are the writes in flight, `waits` the
atomics of a discarded image that are still to be acknowledged, and `scrub` how far the scrub has come: the list entry, and the bytes
of its range that are done (R416). -/
structure Ending where
  launch : Launch
  core : Nat
  status : Nat
  stage : Nat
  uids : List Nat
  waits : List Nat
  scrub : Nat × Nat := (0, 0)
  deriving DecidableEq, Repr

/-- A request that waits for launches to be saved and discarded: RESET_VIF, or DESTROY_AS of an address space (R411,
R419). -/
structure ResetJob where
  rq : Rq
  asid : Option Nat
  deriving DecidableEq, Repr

/-- A STEP request that awaits the issue of an actor, since a local cycle (R469). -/
structure StepJob where
  rq : Rq
  actor : Nat
  since : Nat
  deriving DecidableEq, Repr

/-- A SCRUB request that is under way (R416): how far its list has come, and when it began. -/
structure ScrubJob where
  rq : Rq
  at_ : Nat × Nat
  since : Nat
  deriving DecidableEq, Repr

/-- A remote read that is under way: what names it, and the bytes read so far (R425). -/
structure PortRead where
  via : Carrier
  asid : Nat
  va : Nat
  size : Nat
  got : List Byte
  deriving DecidableEq, Repr

/-! ## The device -/

/-- An address space (R417, R419): the physical address of its level 1 table, PSALT, the placement table and the Cairn
mode. -/
structure Space where
  vif : Nat := 0
  root : Nat := 0
  psalt : Word := 0
  place : List PlaceEnt := []
  cairn : Nat := 1
  live : Bool := false
  deriving DecidableEq, Repr

/-- A grant of this device: accesses of a source device and address space are served in a local address space at an
export base, below a limit (R426). -/
structure Grant where
  dev : Nat
  srcAsid : Nat
  asid : Nat
  base : Nat
  limit : Nat
  deriving DecidableEq, Repr

/-- What another device answers to this device's window accesses: its grant to an address space here, with the address space
there, the export base and the limit, and the fault it returns, 0 for none (R426, R427). -/
structure Export where
  dev : Nat
  asid : Nat
  there : Nat
  base : Nat
  limit : Nat
  cause : Nat
  deriving DecidableEq, Repr

/-- The agent whose turn it is. `arm` is true for arm T or an idle divergence entry. -/
inductive Who
  | none
  | spur (core : Nat)
  | tg (core slot : Nat) (arm : Bool)
  | queue (core q : Nat)
  deriving DecidableEq, Repr

/-- An actor that waits for its SERVICE entry to be posted: its cause, and the order of the saved image that holds it, 0 for the
resident launch (R191, R414). -/
structure Mark where
  actor : Nat
  cause : Nat
  image : Nat
  deriving DecidableEq, Repr

/-- The trap ring (R412) with what could not be posted (R414): actors marked, and notices counted by core and cause. -/
structure TrapRing where
  base : DWord := 12
  ctl : DWord := 0
  rd : DWord := 0
  marked : List Mark := []
  lost : List (Nat × Nat × Nat) := []
  deriving DecidableEq, Repr

/-- A scope barrier of an address space (R187, R239, R304): the scope code, the instance, the round's count and arrivals,
and the completed rounds, whose number modulo 64 is the barrier index. -/
structure Sbar where
  sc : Nat
  inst : Nat
  asid : Nat
  exp : Nat
  members : List Nat
  rounds : Nat
  deriving DecidableEq, Repr

/-- A cluster's power and margin registers and its droop response (R444, R450 to R457): the local cycle at which the
stretch and the halved issue end. -/
structure Cluster where
  droop : DWord := 0x40628
  didt : DWord := 0x07D0012C0410
  mreqcap : DWord := 48
  margin : DWord := 0x51400000
  head : BitVec 8 := 0
  /-- RANK of sys.therm: the cluster's place in the order that the last SENS saddle gave (R457) -/
  rank : Nat := 0
  /-- firmware's new margin, applied at the start of a later saddle (R445) -/
  newMargin : Option DWord := none
  stretchEnd : Option Nat := none
  halfEnd : Option Nat := none
  deriving DecidableEq, Repr

/-- The saddle calendar (R429 to R439): the earliest saddle that has not ended, the calendar shift in ns, the generation,
and the phase: 0 between saddles, 1 from the drain horizon, 2 in the saddle, 3 overrun. -/
structure Calendar where
  next : Nat := 1
  shift : Nat := 0
  gen : BitVec 8 := 0
  phase : Nat := 0
  deriving DecidableEq, Repr

/-- An interface's loaded images since its last reset (R423): number, chained digest and last digest. -/
structure VifInfo where
  nimg : Nat := 0
  chain : List Byte := []
  last : List Byte := []
  deriving DecidableEq, Repr

/-- The fields of a trap ring entry that its poster gives (R413). -/
structure RingPost where
  core : Nat
  actor : Nat
  cause : Nat
  flags : Nat := 0
  seq : DWord := 0
  spc : DWord := 0
  pc : DWord := 0
  addr : DWord := 0
  aux : DWord := 0
  vif : Nat := 0
  asid : Nat := 0
  deriving DecidableEq, Repr

/-- What leaves the device: a reply to an interface's request (R418, R420, R422), the completion of a remote write, the
data of a remote read, or the cause that a remote access met (R425). A carrier's port from 8 on is the peer link of the device
whose number is the port less 8 (R426). -/
inductive Sent
  | reply (vif : Nat) (via : Carrier) (bytes : List Byte)
  | written (via : Carrier)
  | data (via : Carrier) (bytes : List Byte)
  | fault (via : Carrier) (cause : Nat)
  deriving DecidableEq, Repr

/-- A remote transfer whose completion waits for its stores (R425). -/
structure Remote where
  via : Carrier
  uids : List Nat
  deriving DecidableEq, Repr

/-- The last write of a Cairn line, by physical line: its access, and the address and bytes that the access wrote
(R308, R315). -/
structure Writer where
  line : Nat
  acc : Acc
  va : Nat
  size : Nat
  deriving DecidableEq, Repr

/-- The whole device. -/
structure State where
  /-- sys.caps (R2) -/
  caps : DWord
  cores : NMap Core := []
  actors : NMap Actor := []
  path : List Entry := []
  links : List (Nat × Entry) := []
  done : List Done := []
  mem : NMap Byte := []
  owners : List Owner := []
  absent : List Absent := []
  damage : List Damage := []
  spaces : NMap Space := []
  remaps : List Remap := []
  aliases : List Alias := []
  /-- dirty L2 lines of compressed pages: the physical line and the page's EW (R255, R263) -/
  dirty : List (Nat × Nat) := []
  domid : Nat := 0
  grants : List Grant := []
  exports : List Export := []
  peerMem : NMap Byte := []
  nextUid : Nat := 1
  /-- the last write of each Cairn line (R308) -/
  writers : List Writer := []
  ring : TrapRing := {}
  /-- trap ring entries, with the time of their event, and race records, with core and address space, whose stores a saddle holds
  (R447) -/
  heldPosts : List (RingPost × Nat) := []
  heldRaces : List (Nat × Nat × List Byte) := []
  sbars : List Sbar := []
  clusters : NMap Cluster := []
  calendar : Calendar := {}
  /-- Ridgeline: the route entries, the lines asserted, and the pins driven (R467) -/
  routes : NMap DWord := []
  asserted : List Nat := []
  pins : List Nat := []
  /-- the last assertion that set CAP in each cluster's cores: its local cycle plus 1, and its place in the order RUN, FROZEN,
  OFF (R467) -/
  captured : NMap (Nat × Nat) := []
  /-- the cluster queues' posted cards with their cluster (R118) -/
  clq : List (Nat × Card) := []
  /-- the last post to each core's own queue, and to each cluster's (key 1024 plus its number): the local cycle plus 1 and the
  posting core (R119) -/
  posts : NMap (Nat × Nat) := []
  /-- START requests and saved images waiting for a core (R408) -/
  starts : List Card := []
  /-- START requests that have entered FRS and wait, with their time so far (R471) -/
  frsHeld : List (Rq × Accounts) := []
  images : List Img := []
  nextOrder : Nat := 1
  /-- the interface last served at each priority, for saved and fresh images (R408) -/
  lastServed : List ((Nat × Bool) × Nat) := []
  /-- 64 KiB frames and 8 KiB table pages in use, by number (R419) -/
  frames : List Nat := []
  tables : List Nat := []
  vifs : NMap VifInfo := []
  dropped : NMap Nat := []
  outbox : List Sent := []
  /-- what a LINK saddle keeps from leaving (R437) -/
  unsent : List Sent := []
  remotes : List Remote := []
  /-- the end of the ballast that is being injected (R460) -/
  ballast : Option Nat := none
  /-- the weight-share arbiters' groups, and the number of the next (R337) -/
  arb : List Arb := []
  nextArb : Nat := 1
  /-- completed launches whose front-end writes are not all acknowledged (R121) -/
  endings : List Ending := []
  /-- entries in flight whose replies nobody awaits: their launch was killed or its image discarded (R138, R297) -/
  orphans : List Nat := []
  /-- images chosen for a core and not restored yet -/
  incoming : List (Nat × Incoming) := []
  /-- the waiting image for which a core's pre-emption request was raised, by core (R409) -/
  asked : NMap Nat := []
  /-- interface resets and space destructions that wait (R411) -/
  resets : List ResetJob := []
  stepJobs : List StepJob := []
  /-- SCRUB requests under way (R416) -/
  scrubJobs : List ScrubJob := []
  /-- remote reads under way (R425) -/
  reads : List PortRead := []
  /-- timing errors in a row of the instruction of an actor's arm (R459) -/
  retries : NMap Nat := []
  /-- reference time in ns (R29) and local cycles per cluster (R30) -/
  refTime : Nat := 0
  cycles : NMap Nat := []
  who : Who := .none
  /-- the turns to come, and how many have been taken; an empty agenda asks `Config.freeTurn` -/
  agenda : List Turn := []
  turns : Nat := 0
  /-- the subject of an event: its operands (the model's own field) -/
  subj : Nat × Nat := (0, 0)
  deriving DecidableEq, Repr

/-- Why the machine stops. No meaning of this model stops: every outcome the spec describes is a next state. -/
inductive Fault
  /-- Raised by nothing: kept so that the type of outcomes is the host's. Safe. -/
  | none
  deriving DecidableEq, Repr

/-- Why an instruction has no meaning. -/
inductive Refusal
  /-- Raised by an arm of `exec` for an instruction that is not modelled, by its mnemonic. Safe. -/
  | notModelled (mnemonic : String)
  deriving DecidableEq, Repr

/-- The canonical form of memory (R245): addresses strictly rising, no zero byte listed. -/
abbrev Memory.wf (m : NMap Byte) : Bool := mwf 0 m

/-- sys.caps of a variant (R1, R2): 1 is the LY-768, 2 the LY-384. -/
def capsOf (variant : Nat) : DWord :=
  if variant = 2 then 0x02 <<< 24 ||| 0x3 <<< 20 ||| 0xC0 <<< 12 ||| 0x0B
  else 0x01 <<< 24 ||| 0xF <<< 20 ||| 0xC0 <<< 12 ||| 0x1F

/-- sys.margin with the fields of a fused or measured word kept in their ranges (R444): AGEN, GUARD, FMAX, SLOW. -/
def marginWord (agen : BitVec 8) (w : DWord) : DWord :=
  0#16 ++ agen ++ w.extractLsb' 32 8 ++ BitVec.ofNat 12 (1300 + (w.extractLsb' 20 12).toNat % 751) ++ w.extractLsb' 0 20

/-- A cluster after package reset: the margin fields come from fuses (R444), the other registers as their rules say. -/
def Cluster.reset (c : Nat) : Cluster := { margin := marginWord 0 (Config.margin c) }

/-- FRS's address space 0 with its empty table tree (R403, R415, R417; log 85). -/
def Space.firmware : Space := { vif := 64, root := 8192 * 0xEFDF, place := [⟨2 ^ 32, 2 ^ 32 + 8191, 2, 0⟩], live := true }

/-- The device after package reset (R415): nothing resident, empty memory, FRS's address space 0. -/
def State.resetFor (variant : Nat) : State :=
  { caps := capsOf variant
    spaces := [(0, Space.firmware)]
    tables := [0xEFDF]
    clusters := (if variant = 2 then [0, 1] else [0, 1, 2, 3]).map fun c => (c, Cluster.reset c)
    cores := (if variant = 2 then [191, 383] else [191, 383, 575, 767]).map fun c => (c, { spur := { run := .run } }) }

/-- The LY-768 after package reset. -/
def State.reset : State := State.resetFor 1

end Sys2Proof.Machine
end

