-- ==== Sys2Proof/Machine/Memory.lean ====
section
/-! DEFINITION. Home memory: cores and address spaces, homing, translation, permissions, compression blocks, and the
bytes of home lines (R13, R245, R252 to R264, R289, R417, R426, R427). -/

namespace Sys2Proof.Machine

/-! ## Cause codes (R188, R289, R407, R427, R439, R459) -/

def cIllegalLength : Nat := 0x01
def cIllegalEncoding : Nat := 0x02
def cWrongEngine : Nat := 0x03
def cUnitAbsent : Nat := 0x04
def cCsrAccess : Nat := 0x05
def cCsrValue : Nat := 0x06
def cBadOperand : Nat := 0x07
def cMisaligned : Nat := 0x08
def cScratchRange : Nat := 0x09
def cTranslation : Nat := 0x0A
def cPermission : Nat := 0x0B
def cRace : Nat := 0x0C
def cArith : Nat := 0x0D
def cBadRecord : Nat := 0x0E
def cTrap : Nat := 0x0F
def cDivergenceDepth : Nat := 0x10
def cBarrierLap : Nat := 0x11
def cSyncMask : Nat := 0x12
def cFormatDivergence : Nat := 0x13
def cBadFormat : Nat := 0x14
def cDqClosed : Nat := 0x15
def cPreemptForced : Nat := 0x16
def cXretState : Nat := 0x17
def cSaddleCross : Nat := 0x18
def cBreakpoint : Nat := 0x19
def cMemError : Nat := 0x20
def cBadImage : Nat := 0x21
def cPeerUnreachable : Nat := 0x22
def cSaddleOverrun : Nat := 0x23
def cTimingFail : Nat := 0x24

/-! ## Capabilities and core numbers (R2, R13, R17) -/

/-- Peer links present. -/
def State.hasPeer (s : State) : Bool := s.caps.getLsbD 4
/-- Stochastic-rounding unit present. -/
def State.hasSrnd (s : State) : Bool := s.caps.getLsbD 3
/-- Complex mode present. -/
def State.hasCplx (s : State) : Bool := s.caps.getLsbD 2
/-- Sparse pattern generator present. -/
def State.hasSpgen (s : State) : Bool := s.caps.getLsbD 1
/-- Decompress stage present. -/
def State.hasDecomp (s : State) : Bool := s.caps.getLsbD 0
/-- Cluster present (R2). -/
def State.clusterPresent (s : State) (c : Nat) : Bool := c < 4 && s.caps.getLsbD (20 + c)
/-- Clusters present. -/
def State.clusterCount (s : State) : Nat := ((List.range 4).filter s.clusterPresent).length
/-- Channels of the device (R252). -/
def State.channels (s : State) : Nat := 192 * s.clusterCount
/-- A device core number of a present cluster. -/
def State.corePresent (s : State) (c : Nat) : Bool := s.clusterPresent (c / 192)
/-- A compute core of a present cluster (R13). -/
def State.computeCore (s : State) (c : Nat) : Bool := s.corePresent c && c % 192 != 191

/-- The core field of an actor ID (R17). -/
def coreOf (actor : Nat) : Nat := actor / 256
/-- The low byte of an actor ID (R17). -/
def lowOf (actor : Nat) : Nat := actor % 256
/-- The cluster of a device core number. -/
def clusterOf (core : Nat) : Nat := core / 192
/-- A device-level actor (R17). -/
def isDevActor (actor : Nat) : Bool := coreOf actor = 0x3FF
/-- A temporal group's actor (R17). -/
def isTgActor (actor : Nat) : Bool := lowOf actor < 0x80 && !isDevActor actor
/-- The Spur's actor of some core (R17). -/
def isSpurActor (actor : Nat) : Bool := lowOf actor = 0x80 && !isDevActor actor
/-- A Couloir queue's actor (R17). -/
def isQueueActor (actor : Nat) : Bool := 0x84 ≤ lowOf actor && !isDevActor actor
/-- The actor of a TG slot, the Spur, a Traverse context and a Couloir queue of a core (R17). -/
def tgActor (core slot : Nat) : Nat := core * 256 + slot
/-- The Spur's actor. -/
def spurActor (core : Nat) : Nat := core * 256 + 0x80
/-- A Traverse context's actor. -/
def travActor (core ctx : Nat) : Nat := core * 256 + 0x81 + ctx
/-- A Couloir queue's actor. -/
def queueActor (core q : Nat) : Nat := core * 256 + 0x84 + q
/-- A host port's actor. -/
def portActor (p : Nat) : Nat := 0x3FF00 + p
/-- The peer-link receiver. -/
def peerActor : Nat := 0x3FF10
/-- The command front end. -/
def frontActor : Nat := 0x3FF20
/-- The saddle sequencer. -/
def saddleActor : Nat := 0x3FF21

/-! ## Access to parts of the state -/

/-- A core. -/
def State.core (s : State) (c : Nat) : Core := mget {} s.cores c
/-- The state with a core replaced. -/
def State.setCore (s : State) (c : Nat) (x : Core) : State := { s with cores := mset {} s.cores c x }
/-- The state with a core changed. -/
def State.onCore (s : State) (c : Nat) (f : Core → Core) : State := s.setCore c (f (s.core c))
/-- An actor. -/
def State.actor (s : State) (a : Nat) : Actor := mget {} s.actors a
/-- The state with an actor replaced. -/
def State.setActor (s : State) (a : Nat) (x : Actor) : State := { s with actors := mset {} s.actors a x }
/-- The state with an actor changed. -/
def State.onActor (s : State) (a : Nat) (f : Actor → Actor) : State := s.setActor a (f (s.actor a))
/-- An address space. -/
def State.space (s : State) (asid : Nat) : Space := mget {} s.spaces asid
/-- A temporal group. -/
def Core.tg (c : Core) (slot : Nat) : Tg := mget {} c.tgs slot
/-- A temporal group of a core of the device. -/
def State.tg (s : State) (core slot : Nat) : Tg := (s.core core).tg slot
/-- The state with a temporal group replaced. -/
def State.setTg (s : State) (core slot : Nat) (t : Tg) : State :=
  s.onCore core fun c => { c with tgs := mset {} c.tgs slot t }
/-- The state with a temporal group changed. -/
def State.onTg (s : State) (core slot : Nat) (f : Tg → Tg) : State := s.setTg core slot (f (s.tg core slot))
/-- The address space of a core's launch; ASID 0 where none is resident, as FRS runs (R415). -/
def State.asidOf (s : State) (core : Nat) : Nat :=
  match (s.core core).launch with
  | some l => l.asid
  | none => 0

/-! ## Plain bytes -/

/-- A byte of home memory: an unlisted byte reads 0. -/
def State.byteAt (s : State) (phys : Nat) : Byte := mget 0 s.mem phys
/-- Bytes of home memory. -/
def State.physBytes (s : State) (phys n : Nat) : List Byte := mbytes 0 s.mem phys n
/-- A 64-bit little-endian value of home memory (R8). -/
def State.physQuad (s : State) (phys : Nat) : DWord := BitVec.ofNat 64 (leNat (s.physBytes phys 8))
/-- The state with bytes of home memory written. -/
def State.physWrite (s : State) (phys : Nat) (l : List Byte) : State := { s with mem := mwrite 0 s.mem phys l }
/-- Scratch bytes of a core. -/
def State.scrBytes (s : State) (core off n : Nat) : List Byte := mbytes 0 (s.core core).scratch off n
/-- The state with scratch bytes written. -/
def State.scrWrite (s : State) (core off : Nat) (l : List Byte) : State :=
  s.onCore core fun c => { c with scratch := mwrite 0 c.scratch off l }

/-! ## Address forms (R142, R269, R426) -/

/-- A VA in the domain window (R426). -/
def inWindow (va : Nat) : Bool := 0x00FF000000000000 ≤ va && va < 0x0100000000000000

/-- What an address names: a place, or the cause it takes before anything leaves the core (R142, R271). -/
inductive EaAns
  | ok (p : Place)
  | bad (cause : Nat)
  deriving DecidableEq, Repr

/-- The place that a 64-bit effective address names for a core (R142). -/
def decodeEa (core asid : Nat) (ea : DWord) : EaAns :=
  let n := ea.toNat
  let top := n / 2 ^ 56
  if top = 0 then .ok (if inWindow n then .win asid n else .glob asid n)
  else if top = 0xF0 then
    if n % 2 ^ 56 < 0x80000 then .ok (.scr core (n % 2 ^ 56)) else .bad cScratchRange
  else if top = 0xF1 then
    let off := n % 2 ^ 32
    let c := n / 2 ^ 32 % 256
    if n / 2 ^ 40 % 2 ^ 16 = 0 && off < 0x80000 && c ≤ 190 then .ok (.scr (clusterOf core * 192 + c) off)
    else .bad cScratchRange
  else .bad cTranslation

/-- The place that a 32-bit scratch address names for a core (R269). -/
def decodeSa (core : Nat) (sa : Word) : EaAns :=
  let n := sa.toNat
  let off := n % 2 ^ 23
  let c := n / 2 ^ 23 % 256
  if off ≥ 0x80000 then .bad cScratchRange
  else if n / 2 ^ 31 = 0 then if c = 0 then .ok (.scr core off) else .bad cScratchRange
  else if c ≤ 190 then .ok (.scr (clusterOf core * 192 + c) off) else .bad cScratchRange

/-- The place `n` bytes further. -/
def Place.plus (p : Place) (n : Nat) : Place :=
  match p with
  | .glob a va => .glob a (va + n)
  | .scr c off => .scr c (off + n)
  | .win a va => .win a (va + n)

/-- The address within its space. -/
def Place.addr : Place → Nat
  | .glob _ va => va
  | .scr _ off => off
  | .win _ va => va

/-- The first byte of the line that holds a place. -/
def Place.line : Place → Place
  | .glob a va => .glob a (va / 128 * 128)
  | .scr c off => .scr c (off / 128 * 128)
  | .win a va => .win a (va / 128 * 128)

/-- The 64-bit address that names a place, as a trap frame records it. -/
def Place.ea (p : Place) (core : Nat) : DWord :=
  match p with
  | .glob _ va => BitVec.ofNat 64 va
  | .scr c off => if c = core then BitVec.ofNat 64 (0xF0 * 2 ^ 56 + off)
    else BitVec.ofNat 64 (0xF1 * 2 ^ 56 + c % 192 * 2 ^ 32 + off)
  | .win _ va => BitVec.ofNat 64 va

/-- Whether two byte spans of places overlap. -/
def Place.overlaps (p : Place) (n : Nat) (q : Place) (m : Nat) : Bool :=
  p.line = q.line && p.addr < q.addr + m && q.addr < p.addr + n

/-! ## Homing (R252) -/

/-- The home channel of a VA (R252). -/
def State.home (s : State) (asid va : Nat) : Nat :=
  let sp := s.space asid
  let pg := va / 2 ^ 16
  let e := sp.place.find? fun e => e.start ≤ pg && pg ≤ e.limit
  let mode := match e with | some e => e.mode | none => 0
  if mode = 2 then (match e with | some e => e.ch | none => 0)
  else
    let x := va / 2 ^ (if mode = 0 then 16 else 21)
    let t := (x % 2 ^ 32) ^^^ (x / 2 ^ 32) ^^^ sp.psalt.toNat
    let t := t * 0x9E3779B1 % 2 ^ 32
    let t := t ^^^ (t / 2 ^ 15)
    t * s.channels / 2 ^ 32

/-! ## Translation (R254 to R257, R417) -/

/-- A table entry of levels 1 to 3 (R417): the physical address of the next table. -/
def nextTable (w : DWord) : Option Nat :=
  if w.getLsbD 63 && w.extractLsb' 54 9 == 0 && w.extractLsb' 29 15 == 0 && w.extractLsb' 0 13 == 0 then
    some ((w.extractLsb' 44 10).toNat * 2 ^ 29 + (w.extractLsb' 13 16).toNat * 2 ^ 13)
  else none

/-- A leaf entry for a VA (R255); `none` is `TRANSLATION`. -/
def leafPage (w : DWord) (va : Nat) : Option Page :=
  let sz := w.getLsbD 62
  let frame := (w.extractLsb' 16 13).toNat * 2 ^ 16
  let size := if sz then 2 ^ 21 else 2 ^ 16
  if w.getLsbD 63 && w.extractLsb' 29 15 == 0 && w.extractLsb' 0 16 == 0 && w.extractLsb' 56 2 != 3 &&
      !(sz && frame % 2 ^ 21 != 0) && frame + size ≤ 0x1DFC0000 then
    some { phys := (w.extractLsb' 44 10).toNat * 2 ^ 29 + frame + va % size
           pr := w.getLsbD 61, pw := w.getLsbD 60, px := w.getLsbD 59, c := w.getLsbD 58
           ew := (w.extractLsb' 56 2).toNat, k := w.getLsbD 55, au := w.getLsbD 54, sz }
  else none

/-- The physical address of the level 4 entry of a VA, when levels 1 to 3 are valid (R417). -/
def State.leafAddr (s : State) (asid va : Nat) : Option Nat := do
  let sp := s.space asid
  if !sp.live then none
  let t2 ← nextTable (s.physQuad (sp.root + va / 2 ^ 46 % 1024 * 8))
  let t3 ← nextTable (s.physQuad (t2 + va / 2 ^ 36 % 1024 * 8))
  let t4 ← nextTable (s.physQuad (t3 + va / 2 ^ 26 % 1024 * 8))
  return t4 + va / 2 ^ 16 % 1024 * 8

/-- The page of a VA (R254, R257, R417): the walk, then the remap filter for an alias. -/
def State.page (s : State) (asid va : Nat) : Option Page :=
  match s.leafAddr asid va with
  | none => none
  | some a =>
    match leafPage (s.physQuad a) va with
    | none => none
    | some p =>
      if s.home asid va = p.phys / 2 ^ 29 then some p
      else if s.remaps.any fun r => r.frame = p.phys / 2 ^ 16 then some p else none

/-- What an access needs (R255). -/
inductive Need | rd | wr | rw | ex
  deriving DecidableEq, Repr

/-- Whether a page grants an access. -/
def Page.grants (p : Page) : Need → Bool
  | .rd => p.pr
  | .wr => p.pw
  | .rw => p.pr && p.pw
  | .ex => p.px

/-! ## Compression (R260 to R264) -/

/-- The physical address of the descriptor of a block (R261). -/
def descAddr (phys : Nat) : Nat := phys / 2 ^ 29 * 2 ^ 29 + 0x1FFC0000 + phys % 2 ^ 29 / 2048

/-- The descriptor of the block that holds a physical byte. -/
def State.desc (s : State) (phys : Nat) : Nat := (s.byteAt (descAddr phys)).toNat

/-- A descriptor that a read may use (R261). -/
def descOk (d : Nat) : Bool := d / 32 = 0 && 1 ≤ d % 32 && d % 32 ≤ 16

/-- The byte planes of a block for an element width, joined plane by plane (R262 step 1). -/
def planes (e : Nat) (block : List Byte) : List Byte :=
  (List.range 2048).map fun i => block.getD (i % (2048 / e) * e + i / (2048 / e)) 0

/-- The delta width of a group and its code (R262 step 3). -/
def deltaWidth (m : Nat) : Nat × Nat :=
  if m = 0 then (0, 0) else if m < 2 then (1, 1) else if m < 4 then (2, 2) else if m < 16 then (4, 3) else (8, 4)

/-- The bits of a number, lowest first. -/
def numBits : Nat → Nat → List Bool
  | 0, _ => []
  | n + 1, x => (x % 2 = 1) :: numBits n (x / 2)

/-- The stream of one group of 64 bytes (R262 step 4). -/
def groupBits (g : List Byte) : List Bool :=
  let base := g.headD 0
  let ds := g.map fun b => (b ^^^ base).toNat
  let (w, code) := deltaWidth (ds.foldl Nat.max 0)
  numBits 8 base.toNat ++ numBits 3 code ++ ds.flatMap (numBits w)

/-- The bytes of a bit stream, unused bits zero. -/
def bitsBytes (l : List Bool) : List Byte :=
  (List.range ((l.length + 7) / 8)).map fun i =>
    BitVec.ofNat 8 ((List.range 8).foldl (fun n k => n + (if l.getD (8 * i + k) false then 2 ^ k else 0)) 0)

/-- FBP encoding of a block with element width `e`: the descriptor and the payload of 128 × SIZE bytes (R262). -/
def fbpEncode (e : Nat) (block : List Byte) : Nat × List Byte :=
  let pl := planes e block
  let bits := (List.range 32).flatMap fun g => groupBits ((pl.drop (64 * g)).take 64)
  let bytes := bitsBytes bits
  let size := (bytes.length + 127) / 128
  if size ≥ 16 then (16, block) else (size, bytes ++ List.replicate (128 * size - bytes.length) 0)

/-- The number that some bits of a stream hold, and the rest. -/
def takeBits : Nat → List Bool → Nat × List Bool
  | 0, l => (0, l)
  | n + 1, l =>
    let (x, r) := takeBits n (l.drop 1)
    ((if l.headD false then 1 else 0) + 2 * x, r)

/-- The deltas of a group. -/
def takeDeltas (w : Nat) (base : Nat) : Nat → List Bool → List Byte × List Bool
  | 0, l => ([], l)
  | n + 1, l =>
    let (d, r) := takeBits w l
    let (ds, r) := takeDeltas w base n r
    (BitVec.ofNat 8 (d ^^^ base) :: ds, r)

/-- The groups of a stream; `none` for a reserved width code (R262). -/
def takeGroups : Nat → List Bool → Option (List Byte)
  | 0, _ => some []
  | n + 1, l =>
    let (base, r) := takeBits 8 l
    let (code, r) := takeBits 3 r
    let w : Option Nat := match code with | 0 => some 0 | 1 => some 1 | 2 => some 2 | 3 => some 4 | 4 => some 8 | _ => none
    match w with
    | none => none
    | some w =>
      let (g, r) := takeDeltas w base 64 r
      (takeGroups n r).map (g ++ ·)

/-- FBP decoding of a payload (R262). -/
def fbpDecode (e : Nat) (payload : List Byte) : Option (List Byte) :=
  (takeGroups 32 (payload.flatMap fun b => numBits 8 b.toNat)).map fun pl =>
    (List.range 2048).map fun o => pl.getD (o % e * (2048 / e) + o / e) 0

/-- A saddle's drain has begun: the horizon, 128 ns before the next start, has come, and the saddle has not ended (R429). -/
def State.drained? (s : State) : Bool :=
  s.calendar.phase != 0 || decide (4096 * s.calendar.next + s.calendar.shift ≤ s.refTime + 128)

/-- A LINK saddle stops transmission on host ports and peer links, from its start to its end (R430, R437). -/
def State.linkDown (s : State) : Bool :=
  let g := s.calendar
  g.next % 256 = 0 && (2 ≤ g.phase || decide (4096 * g.next + g.shift ≤ s.refTime))

/-- The block's merge (R263): descriptor and payload follow the home content, and its lines become clean. -/
def State.merge (s : State) (phys ew : Nat) : State :=
  let base := phys / 2048 * 2048
  let (d, _) := fbpEncode (2 ^ ew) (s.physBytes base 2048)
  { s.physWrite (descAddr phys) [BitVec.ofNat 8 d] with dirty := s.dirty.filter fun l => l.1 / 16 != base / 2048 }

/-- The merge of a compressed block with a dirty line (R263). A damaged block keeps its lines dirty (R289); from the drain
horizon a merge does not begin. -/
def State.mergeBlock (s : State) (block : Nat) : State :=
  match s.dirty.find? fun l => l.1 / 16 = block with
  | some l =>
    if s.drained? || s.damage.contains (.block block) || !descOk (s.desc (2048 * block)) then s
    else s.merge (2048 * block) l.2
  | none => s

/-- A raw fetch of a block (R264): the merged state, the descriptor and the payload. -/
def State.rawFetch (s : State) (p : Page) : State × Nat × List Byte :=
  let base := p.phys / 2048 * 2048
  if !p.c then (s, 0x10, s.physBytes base 2048)
  else
    let s' := if s.dirty.any fun l => l.1 / 16 = base / 2048 then s.merge p.phys p.ew else s
    if s'.desc p.phys % 32 = 16 then (s', s'.desc p.phys, s'.physBytes base 2048)
    else (s', s'.desc p.phys, (fbpEncode (2 ^ p.ew) (s'.physBytes base 2048)).2)

/-! ## Homes (R245, R256, R289, R426, R427) -/

/-- Where a place is held: a byte of home memory with its page, a scratch byte, or a byte of another device, numbered by the
device, its address space and the VA there. -/
inductive Loc
  | phys (p : Page)
  | scr (core off : Nat)
  | far (n : Nat)
  deriving DecidableEq, Repr

/-- The place that a VA of an address space names (R426). -/
def vaPlace (asid va : Nat) : Place := if inWindow va then .win asid va else .glob asid va

/-- The home of a global byte, or the cause its access returns. -/
def State.locGlob (s : State) (need : Need) (asid va : Nat) : Except Nat Loc :=
  if va ≥ 2 ^ 56 then .error cTranslation
  else
    match s.page asid va with
    | none => .error cTranslation
    | some p => if p.grants need then .ok (.phys p) else .error cPermission

/-- The number of a byte that another device exports at an offset (R426). -/
def Export.byte (e : Export) (off : Nat) : Nat := (e.dev * 2 ^ 14 + e.there) * 2 ^ 57 + e.base + off

/-- A core answers scratch accesses of another core's agents: its resident launch has their address space (R245). -/
def State.serves (s : State) (target from_ : Nat) : Bool :=
  target = from_ ||
    match (s.core target).launch with
    | some l => l.asid = s.asidOf from_
    | none => false

/-- The home of a place for an access of an actor, or the cause that its home returns (R4, R245, R255, R427). -/
def State.loc (s : State) (actor : Nat) (need : Need) : Place → Except Nat Loc
  | .glob asid va => s.locGlob need asid va
  | .scr core off => if s.serves core (coreOf actor) then .ok (.scr core off) else .error cPermission
  | .win asid va =>
    let dev := va / 2 ^ 40 % 256
    let off := va % 2 ^ 40
    if !s.hasPeer then .error cUnitAbsent
    else if dev = s.domid then
      match s.grants.find? fun g => g.dev = s.domid && g.srcAsid = asid with
      | some g => if off < g.limit then s.locGlob need g.asid (g.base + off) else .error cPermission
      | none => .error cPermission
    else
      match s.exports.find? fun e => e.dev = dev && e.asid = asid with
      | some e => if off ≥ e.limit then .error cPermission else if e.cause = 0 then .ok (.far (e.byte off)) else .error e.cause
      | none => .error cPermission

/-- The compression block of a page cannot be decoded (R261, R289). -/
def State.blockBad (s : State) (p : Page) : Bool :=
  p.c && (s.damage.contains (.block (p.phys / 2048)) || !descOk (s.desc p.phys))

/-- Whether reading bytes of a home meets damage (R261, R289). -/
def State.damaged (s : State) : Loc → Bool
  | .phys p =>
    let ln := p.phys / 128
    s.damage.contains (.line ln) || (s.blockBad p && !(s.dirty.any fun l => l.1 = ln)) ||
    (p.k && s.damage.contains (.sidecar ln))
  | .scr core off => s.damage.contains (.scratch core (off / 128))
  | .far _ => false

/-- Whether a write of a whole line meets damage: it needs the line's sidecar (R319), and where it is uncached the block that it
is merged into (R263, R289). -/
def State.wholeBad (s : State) : Loc → Bool
  | .phys p => (p.k && s.damage.contains (.sidecar (p.phys / 128))) || (p.au && s.blockBad p)
  | _ => false

/-- An access of a home waits for the end of a saddle. The DRAM takes no command in a saddle or its drain (R434), so a line that is
uncached (R263) or that the L2 does not hold, which is a free choice (log 111), is not served; and a LINK saddle stops what goes to
another device (R437). -/
def State.dramHeld (s : State) : Loc → Bool
  | .phys p => s.drained? && (p.au || !Config.l2Holds (p.phys / 128) s.calendar.next)
  | .far _ => s.linkDown
  | .scr _ _ => false

/-- Bytes of a home. -/
def State.locBytes (s : State) (l : Loc) (n : Nat) : List Byte :=
  match l with
  | .phys p => s.physBytes p.phys n
  | .scr core off => s.scrBytes core off n
  | .far k => mbytes 0 s.peerMem k n

/-- The state with bytes of a home written; a whole line heals it, and a line of a compressed page becomes dirty
(R263, R289). -/
def State.locWrite (s : State) (l : Loc) (data : List Byte) : State :=
  match l with
  | .phys p =>
    let s := s.physWrite p.phys data
    let s := if data.length = 128 then { s with damage := s.damage.filter (· != .line (p.phys / 128)) } else s
    if !p.c then s
    else if p.au then s.merge p.phys p.ew
    else if s.dirty.any fun l => l.1 = p.phys / 128 then s else { s with dirty := (p.phys / 128, p.ew) :: s.dirty }
  | .scr core off =>
    let s := s.scrWrite core off data
    if data.length = 128 then { s with damage := s.damage.filter (· != .scratch core (off / 128)) } else s
  | .far k => { s with peerMem := mwrite 0 s.peerMem k data }

/-- The state with bytes of a page's home line written by the hardware itself, as any other store would be held there (R263). -/
def State.homeWrite (s : State) (p : Page) (data : List Byte) : State :=
  let t := s.locWrite (.phys p) data
  { s with mem := t.mem, dirty := t.dirty, damage := t.damage }

/-- The number by which a home line is owned: its physical line, or one beyond those for a line of another device. -/
def Loc.line? : Loc → Option Nat
  | .phys p => some (p.phys / 128)
  | .far k => some (2 ^ 50 + k / 128)
  | .scr _ _ => none

/-- The active owner of a home line: the first in order (R24, R39). -/
def State.owner (s : State) (line : Nat) : Option Nat := (s.owners.find? fun o => o.line = line).map Owner.actor

/-- A line that an engine other than the given actor owns (R39). -/
def State.ownedByOther (s : State) (actor : Nat) (l : Loc) : Bool :=
  match l.line? with
  | none => false
  | some ln => match s.owner ln with | none => false | some a => a != actor

/-- A scratch line whose presence bit is clear (R23). -/
def State.isAbsent (s : State) (core line : Nat) : Bool := s.absent.any fun a => a.core = core && a.line = line

/-- Whether two homes lie in one line. -/
def Loc.sameLine : Loc → Loc → Bool
  | .phys p, .phys q => p.phys / 128 = q.phys / 128
  | .scr c x, .scr d y => c = d && x / 128 = y / 128
  | .far x, .far y => x / 128 = y / 128
  | _, _ => false

/-- An access of an agent of a core waits on a presence bit: the line's bit is clear, and the core that holds the line
answers the agent (R23, R245). -/
def State.bitWaits (s : State) (from_ : Nat) : Place → Bool
  | .scr core off => s.isAbsent core (off / 128) && s.serves core from_
  | _ => false

/-- Whether a place lies in a scratch line whose presence bit is clear. -/
def State.placeAbsent (s : State) : Place → Bool
  | .scr core off => s.isAbsent core (off / 128)
  | _ => false

/-- A `.clu` access whose target core has a launch being restored waits until the resume instant (R245). -/
def State.restoring (s : State) (actor : Nat) : Place → Bool
  | .scr core _ => core != coreOf actor && (s.core core).launch.isNone && s.incoming.any fun x => x.1 = core
  | _ => false

/-- A place whose line is view-eligible for a TG or Spur access (R36): global, and not in an `ALIAS_UNCACHED` page. -/
def State.eligible (s : State) : Place → Bool
  | .glob asid va => match s.page asid va with | some p => !p.au | none => true
  | _ => false

end Sys2Proof.Machine
end

