-- ==== Sys2Proof/Machine/Cairn.lean ====
section
/-! DEFINITION. Cairn: sidecars, actor clocks and views, the order judgement, race records and the race log ring
(R299 to R317). -/

namespace Sys2Proof.Machine

/-! ## Sidecars (R299, R300) -/

/-- The 64 bits of a stamp (R300). -/
def Stamp.word (t : Stamp) : DWord :=
  BitVec.ofBool t.flag ++ BitVec.ofNat 18 t.act ++ t.clk ++ BitVec.ofNat 3 t.sc ++ t.bc ++ t.bl ++ t.bd

/-- The stamp that 64 bits hold. -/
def Stamp.ofWord (w : DWord) : Stamp where
  flag := w.getLsbD 63
  act := (w.extractLsb' 45 18).toNat
  clk := w.extractLsb' 21 24
  sc := (w.extractLsb' 18 3).toNat
  bc := w.extractLsb' 12 6
  bl := w.extractLsb' 6 6
  bd := w.extractLsb' 0 6

/-- The physical address of the sidecar of the line that holds a byte (R299). -/
def sidecarAddr (phys : Nat) : Nat := phys / 2 ^ 29 * 2 ^ 29 + 0x1DFC0000 + phys % 2 ^ 29 / 128 * 16

/-- The writer stamp of a line. -/
def State.writerStamp (s : State) (phys : Nat) : Stamp := .ofWord (s.physQuad (sidecarAddr phys))
/-- The reader stamp of a line. -/
def State.readerStamp (s : State) (phys : Nat) : Stamp := .ofWord (s.physQuad (sidecarAddr phys + 8))
/-- The state with a line's sidecar written. -/
def State.setSidecar (s : State) (phys : Nat) (w r : Stamp) : State :=
  s.physWrite (sidecarAddr phys) (leBytes 8 w.word.toNat ++ leBytes 8 r.word.toNat)

/-! ## Scope instances, views and the order judgement (R37, R303, R304, R306) -/

/-- Whether one instance of a scope holds both actors (R37). -/
def sameInst (sc a b : Nat) : Bool :=
  match sc with
  | 0 => a = b
  | 1 => coreOf a = coreOf b && !isDevActor a
  | 2 => !isDevActor a && !isDevActor b && clusterOf (coreOf a) = clusterOf (coreOf b)
  | 3 | 4 => true
  | _ => false

/-- A view entry covers a stamp (R303). -/
def ViewEnt.covers (e : ViewEnt) (t : Stamp) : Bool :=
  e.actor = t.act && (e.clk.setWidth 24 - t.clk).toNat < 2 ^ 23

/-- An index has passed a stamp index (R304). -/
def idxPassed (a s : BitVec 6) : Bool := let d := (a - s).toNat; 1 ≤ d && d ≤ 31

/-- How an access is ordered after a stamp: conditions 1 or 2 of R306, or 3 to 5. -/
structure Ordered where
  weak : Bool
  strong : Bool
  deriving DecidableEq, Repr

/-- An access as Cairn judges it: its actor, the scope of its kind, whether it is an acquire, a release or an atomic,
and whether it is an atomic. -/
structure Judged where
  actor : Nat
  sc : Nat
  sync : Bool
  atomic : Bool
  deriving DecidableEq, Repr

/-- The judgement of R306 against a stamp. -/
def orderedAfter (x : Actor) (j : Judged) (t : Stamp) (writer : Bool) : Ordered :=
  { weak := j.actor = t.act || x.view.any (·.covers t)
    strong :=
      (sameInst 1 j.actor t.act && idxPassed x.bc t.bc) || (sameInst 2 j.actor t.act && idxPassed x.bl t.bl) ||
      (sameInst 3 j.actor t.act && idxPassed x.bd t.bd) ||
      (1 ≤ t.sc && t.sc ≤ 4 && sameInst t.sc t.act j.actor && j.sync && sameInst j.sc j.actor t.act) ||
      (j.atomic && writer && t.flag) }

/-- Ordered after by any condition; an empty stamp is ordered before every access. -/
def isAfter (x : Actor) (j : Judged) (t : Stamp) (writer : Bool) : Bool :=
  t.sc = 7 || (let o := orderedAfter x j t writer; o.weak || o.strong)

/-- The class of a failed check (R309); `none` is no race. -/
def raceClass (x : Actor) (j : Judged) (isWrite : Bool) (w r : Stamp) : Option Nat :=
  let cls : Option Nat :=
    if !isWrite then (if isAfter x j w true then none else some 1)
    else if !isAfter x j w true then some 2
    else if r.sc = 7 then none
    else
      let o := orderedAfter x j r false
      if !r.flag then (if o.weak || o.strong then none else some 3)
      else if o.strong then none
      else if o.weak then some 4 else some 3
  match cls with
  | none => none
  | some c => some (if x.lossy then 4 else c)

/-- A new view entry (R303): it replaces an older one of the actor; a full table drops its oldest and sets LOSSY. -/
def Actor.gain (x : Actor) (e : ViewEnt) : Actor :=
  let rest := x.view.filter fun v => v.actor != e.actor
  if rest.length < 8 then { x with view := rest ++ [e] }
  else { x with view := rest.drop 1 ++ [e], lossy := true }

/-- A vector copied by an acquire (R304): each index is adopted when the source lies in the same instance and its
index is ahead. -/
def Actor.adopt (x : Actor) (self src : Nat) (bc bl bd : BitVec 6) : Actor :=
  { x with
    bc := if sameInst 1 self src && idxPassed bc x.bc then bc else x.bc
    bl := if sameInst 2 self src && idxPassed bl x.bl then bl else x.bl
    bd := if sameInst 3 self src && idxPassed bd x.bd then bd else x.bd }

/-- What an acquiring access of a Cairn line gains from its writer stamp (R303). The stamp's 24-bit clock stands for
the clock; views compare 24 bits. -/
def Actor.gainStamp (x : Actor) (self : Nat) (t : Stamp) : Actor :=
  if t.sc = 7 then x
  else (x.gain ⟨t.act, t.clk.setWidth 32⟩).adopt self t.act t.bc t.bl t.bd

/-- sys.cairn's MODE for a core: the mode at its launch's restore, OFF where no launch runs (R312). -/
def State.cairnMode (s : State) (core : Nat) : Nat := match (s.core core).launch with | some l => l.cairn | none => 1

/-- The mode in force for an actor's new access (R287, R313); engines act as REPORT where the mode is PRECISE. -/
def State.modeOf (s : State) (actor : Nat) : Nat :=
  if isDevActor actor then 1
  else
    let x := s.actor actor
    let m := if x.ovr = 0 then s.cairnMode (coreOf actor) else x.ovr
    if m = 4 && x.spent then 1
    else if m = 2 && lowOf actor > 0x80 then 3 else m

/-! ## Race records (R315) and the race log ring (R317) -/

/-- The 64 bytes of a race record (R315). -/
def raceRecord (x : Actor) (a : Acc) (va size kind cls : Nat) (w r : Stamp) : List Byte :=
  let lo : BitVec 64 := (a.vec ++ BitVec.ofNat 3 a.sc ++ BitVec.ofNat 3 a.mode ++ BitVec.ofNat 3 kind ++
    BitVec.ofNat 3 cls ++ BitVec.ofBool x.lossy ++ 0#33)
  leBytes 8 va ++ leBytes 8 w.word.toNat ++ leBytes 8 r.word.toNat ++ leBytes 8 lo.toNat ++
  leBytes 8 (0#6 ++ BitVec.ofNat 18 a.actor ++ a.clk ++ BitVec.ofNat 8 size : BitVec 64).toNat ++
  leBytes 8 a.spc.toNat ++ leBytes 8 a.seq.toNat ++
  leBytes 8 (if lowOf a.actor > 0x80 then 0 else a.ipc.toNat)

/-- A dropped record (R317): DROP saturates and OVF is set. -/
def raceDrop (v : DWord) : DWord :=
  let d := (v.extractLsb' 34 16).toNat
  1#1 ++ 0#13 ++ BitVec.ofNat 16 (if d < 65535 then d + 1 else d) ++ v.extractLsb' 0 34

/-- Where the bytes of a record may be written: the byte of its home page, unless that refuses them. -/
def State.ringPage (s : State) (asid va : Nat) : Option Page :=
  match s.locGlob .wr asid va with
  | .ok (.phys p) => if s.damaged (.phys p) then none else some p
  | _ => none

/-- A record logged to a core's race log ring now (R317). -/
def State.raceLogNow (s : State) (core : Nat) (record : List Byte) : State :=
  let c := s.core core
  let logn := (c.csr.racebase.extractLsb' 0 5).toNat
  let widx := (c.csr.raceidx.extractLsb' 0 17).toNat
  let ridx := (c.csr.raceidx.extractLsb' 17 17).toNat
  let va := (c.csr.racebase.extractLsb' 12 44).toNat * 4096 + 64 * (widx % 2 ^ logn)
  let drop := s.onCore core fun c => { c with csr := { c.csr with raceidx := raceDrop c.csr.raceidx } }
  if logn = 0 || (widx + 131072 - ridx) % 131072 = 2 ^ logn then drop
  else
    match s.ringPage (s.asidOf core) va with
    | none => drop
    | some a =>
      (s.homeWrite a record).onCore core fun c =>
        { c with csr := { c.csr with
          raceidx := c.csr.raceidx.extractLsb' 17 47 ++ BitVec.ofNat 17 (widx + 1) } }

/-- A record logged to a core's race log ring (R317): in a saddle and its drain its stores wait for the end (R447). -/
def State.raceLog (s : State) (core : Nat) (record : List Byte) : State :=
  if s.drained? then { s with heldRaces := s.heldRaces ++ [(core, s.asidOf core, record)] } else s.raceLogNow core record

/-- What a race does to its access. -/
inductive RaceAct | none | log | trap
  deriving DecidableEq, Repr

/-- The effect of a race class under a mode (R313). -/
def raceAct (mode cls : Nat) (spent : Bool) : RaceAct :=
  match mode with
  | 2 => if cls = 4 then .log else .trap
  | 3 => .log
  | 4 => if spent then .none else .log
  | _ => .none

/-- A logged race of an actor, with REPORT_ONCE's spent bit (R313). -/
def State.logRace (s : State) (a : Acc) (record : List Byte) : State :=
  let s := s.raceLog (coreOf a.actor) record
  if a.mode = 4 then s.onActor a.actor fun x => { x with spent := true } else s

/-- The stamp that an access writes (R300, R307). -/
def Acc.stamp (a : Acc) (flag : Bool) : Stamp where
  flag := flag
  act := a.actor
  clk := a.clk.setWidth 24
  sc := a.sc
  bc := a.vec.extractLsb' 12 6
  bl := a.vec.extractLsb' 6 6
  bd := a.vec.extractLsb' 0 6

/-- A read record at its home (R308). `late` is the line's last write, which a late WAR names by its own address
(R315) and which is judged by its actor's view table and vector as they stand now (DESIGN CHOICE, log 107). -/
def State.applyRead (s : State) (phys : Nat) (a : Acc) (reader writer : Stamp) (late : Option Writer) : State :=
  let w := s.writerStamp phys
  let r := s.readerStamp phys
  if w != writer then
    match late with
    | none => s
    | some ⟨_, b, va, size⟩ =>
      -- a write arrived first: judged against the read with the writer as accessor
      let x := s.actor b.actor
      let j : Judged := ⟨b.actor, b.sc, b.rel || b.acq || w.flag, w.flag⟩
      if b.mode = 1 || isDevActor b.actor || isAfter x j reader false then s
      else
        let cls := if x.lossy then 4 else 3
        s.raceLog (coreOf b.actor) (raceRecord x b va size 6 cls w reader)
  else
    let x := s.actor a.actor
    let j : Judged := ⟨a.actor, a.sc, a.acq || a.rel, false⟩
    if r.sc = 7 || r.act = a.actor || (!r.flag && isAfter x j r false) then
      s.setSidecar phys w reader
    else s.setSidecar phys w { r with flag := true }

end Sys2Proof.Machine
end

