-- ==== Sys2Proof/Machine/Operands.lean ====
section
/-! DEFINITION. Operand forms of both engines: reading sources, writing destinations, guards and masks
(R16, R72, R75 to R78, R112, R139, R171 to R175, R197 to R199). -/

namespace Sys2Proof.Machine

/-! ## Masks -/

/-- The threads of a mask, ascending. -/
def lanesOf (m : Mask) : List Nat := (List.range 16).filter fun i => m.getLsbD i

/-- The lowest thread of a mask. -/
def lowest (m : Mask) : Option Nat := (lanesOf m).head?

/-- The mask of the threads that meet a test. -/
def maskOf (p : Nat → Bool) : Mask :=
  BitVec.ofNat 16 ((List.range 16).foldl (fun n i => n + (if p i then 2 ^ i else 0)) 0)

/-! ## Arms (R171, R179, R180) -/

/-- The mask of the issuing arm. -/
def Tg.armMask (t : Tg) (arm : Bool) : Mask :=
  match t.div with
  | some d => if arm then d.t.mask else d.f.mask
  | none => t.path

/-- The PC of the issuing arm. -/
def Tg.armPc (t : Tg) (arm : Bool) : DWord :=
  match t.div with
  | some d => if arm then d.t.pc else d.f.pc
  | none => t.pc

/-- The group with an arm's PC replaced. -/
def Tg.setArmPc (t : Tg) (arm : Bool) (pc : DWord) : Tg :=
  match t.div with
  | some d =>
    { t with div := some (if arm then { d with t := { d.t with pc := pc } } else { d with f := { d.f with pc := pc } }) }
  | none => { t with pc := pc }

/-- What the issuing arm is parked on. -/
def Tg.armPark (t : Tg) (arm : Bool) : Park :=
  match t.div with
  | some d => if arm then d.t.park else d.f.park
  | none => t.park

/-- The group with an arm's park state replaced. -/
def Tg.setPark (t : Tg) (arm : Bool) (k : Park) : Tg :=
  match t.div with
  | some d =>
    { t with
      div := some (if arm then { d with t := { d.t with park := k } } else { d with f := { d.f with park := k } }) }
  | none => { t with park := k }

/-- The active threads: live and on the issuing arm (R171). -/
def Tg.active (t : Tg) (arm : Bool) : Mask := t.live &&& t.armMask arm

/-! ## Lane registers (R174, R175) -/

/-- A main register of a thread. -/
def Tg.vreg (t : Tg) (n i : Nat) : Word := mget 0 t.v (n * 16 + i)
/-- An operand register of a thread. -/
def Tg.oreg (t : Tg) (n i : Nat) : Word := mget 0 t.o (n * 16 + i)
/-- `l0` of a thread. -/
def Tg.l0reg (t : Tg) (i : Nat) : Word := mget 0 t.l0 i
/-- A predicate of a thread. -/
def Tg.preg (t : Tg) (n i : Nat) : Bool := (mget 0 t.p n).getLsbD i
/-- A group register. -/
def Tg.greg (t : Tg) (n : Nat) : DWord := mget 0 t.g n

/-- The group with a main register of a thread written. -/
def Tg.setV (t : Tg) (n i : Nat) (x : Word) : Tg := { t with v := mset 0 t.v (n * 16 + i) x }
/-- The group with an operand register of a thread written. -/
def Tg.setO (t : Tg) (n i : Nat) (x : Word) : Tg := { t with o := mset 0 t.o (n * 16 + i) x }
/-- The group with a predicate of a thread written. -/
def Tg.setP (t : Tg) (n i : Nat) (b : Bool) : Tg :=
  let m := mget 0 t.p n
  { t with p := mset 0 t.p n (if b then m ||| (1#16 <<< i) else m &&& ~~~(1#16 <<< i)) }
/-- The group with a predicate of all 16 threads written (R72). -/
def Tg.setPAll (t : Tg) (n : Nat) (b : Bool) : Tg := { t with p := mset 0 t.p n (if b then 0xFFFF else 0) }
/-- The group with a group register written. -/
def Tg.setG (t : Tg) (n : Nat) (x : DWord) : Tg := { t with g := mset 0 t.g n x }
/-- The group with `l0` of a thread written by the instruction numbered `pos` (R175). -/
def Tg.setL0 (t : Tg) (pos i : Nat) (x : Word) : Tg :=
  { t with l0 := mset 0 t.l0 i x, l0pos := mset 0 t.l0pos i pos }
/-- The group with `l0` of a thread written by a late result, unless a younger instruction has written it (R175). -/
def Tg.lateL0 (t : Tg) (pos i : Nat) (x : Word) : Tg :=
  if mget 0 t.l0pos i ≤ pos then t.setL0 pos i x else t

/-! ## Sources -/

/-- A 32-bit source of a thread (R76). -/
def Tg.src32 (t : Tg) (lit : Option Word) (i : Nat) : Src → Word
  | .main n => t.vreg n.toNat i
  | .opnd n => t.oreg n.toNat i
  | .l0 => t.l0reg i
  | .pred n => if t.preg n.val i then 1 else 0
  | .grp n => (t.greg n.toNat).setWidth 32
  | .imm b => b.signExtend 32
  | .lit => lit.getD 0

/-- A 64-bit source of a thread (R76, R78, R197). -/
def Tg.src64 (t : Tg) (lit : Option Word) (i : Nat) : Src → DWord
  | .main n => t.vreg (n.toNat + 1) i ++ t.vreg n.toNat i
  | .opnd n => (t.oreg n.toNat i).setWidth 64
  | .l0 => (t.l0reg i).setWidth 64
  | .pred n => if t.preg n.val i then 1 else 0
  | .grp n => t.greg n.toNat
  | .imm b => b.signExtend 64
  | .lit => (lit.getD 0).signExtend 64

/-- A source of a thread at 32 or 64 bits, as 64 bits: a 32-bit one is held in the low half. -/
def Tg.srcW (t : Tg) (wide : Bool) (lit : Option Word) (i : Nat) (x : Src) : DWord :=
  if wide then t.src64 lit i x else (t.src32 lit i x).setWidth 64

/-! ## Guards (R72) -/

/-- Whether a thread's guard holds. -/
def Tg.guard (t : Tg) (pred : BitVec 3) (pn : Bool) (i : Nat) : Bool :=
  pred == 7 || (t.preg pred.toNat i != pn)

/-- The contributing threads of a non-uniform instruction: active with a guard that holds (R199). -/
def Tg.contrib (t : Tg) (arm : Bool) (pred : BitVec 3) (pn : Bool) : Mask :=
  maskOf fun i => (t.active arm).getLsbD i && t.guard pred pn i

/-- The thread whose guard and operands a whole-TG instruction reads: the lowest active one (R72, R350). -/
def Tg.lead (t : Tg) (arm : Bool) : Nat := (lowest (t.active arm)).getD 0

/-- Whether an instruction that acts once for the group acts: the guard of its lowest active thread (R72). -/
def Tg.leadGuard (t : Tg) (arm : Bool) (pred : BitVec 3) (pn : Bool) : Bool :=
  t.active arm != 0 && t.guard pred pn (t.lead arm)

/-! ## Destinations (R77, R78, R198) -/

/-- A 32-bit result of one thread, with `l0`. -/
def Tg.put32 (t : Tg) (pos i : Nat) (d : Dst) (x : Word) : Tg :=
  match d with
  | .main n => (t.setV n.toNat i x).setL0 pos i x
  | .opnd n => (t.setO n.toNat i x).setL0 pos i x
  | .pred n => (t.setP n.val i (x.getLsbD 0)).setL0 pos i x
  | .grp n => t.setG n.toNat (x.setWidth 64)

/-- A 64-bit result of one thread, with `l0`. -/
def Tg.put64 (t : Tg) (pos i : Nat) (d : Dst) (x : DWord) : Tg :=
  match d with
  | .main n =>
    ((t.setV n.toNat i (x.setWidth 32)).setV (n.toNat + 1) i (x.extractLsb' 32 32)).setL0 pos i (x.setWidth 32)
  | .grp n => t.setG n.toNat x
  | d => t.put32 pos i d (x.setWidth 32)

/-- A result at 32 or 64 bits of one thread. -/
def Tg.putW (t : Tg) (wide : Bool) (pos i : Nat) (d : Dst) (x : DWord) : Tg :=
  if wide then t.put64 pos i d x else t.put32 pos i d (x.setWidth 32)

/-- Results of the threads of a mask, ascending; every source has been read before. -/
def Tg.putLanes (t : Tg) (wide : Bool) (pos : Nat) (m : Mask) (d : Dst) (f : Nat → DWord) : Tg :=
  (lanesOf m).foldl (fun u i => u.putW wide pos i d (f i)) t

/-- The result of a uniform instruction: a group register, or a predicate of all 16 threads (R72, R173). -/
def Tg.putUniform (t : Tg) (d : Dst) (x : DWord) : Tg :=
  match d with
  | .grp n => t.setG n.toNat x
  | .pred n => t.setPAll n.val (x.getLsbD 0)
  | _ => t

/-- A whole-TG result: once to a group register, else to every contributing thread (R77, R199, R350). Written to a group register it
is no thread's result and leaves every `l0` (R198; DEDUCED from R77 and R175, log 92). -/
def Tg.putTg (t : Tg) (wide : Bool) (pos : Nat) (m : Mask) (d : Dst) (x : DWord) : Tg :=
  match d with
  | .grp n => t.setG n.toNat x
  | _ => t.putLanes wide pos m d fun _ => x

/-! ## Spur operands (R76, R112, R139) -/

/-- A scalar register; `s0` reads zero. -/
def Spur.reg (p : Spur) (n : Nat) : DWord := if n = 0 then 0 else mget 0 p.s n
/-- The Spur with a scalar register written; a write to `s0` is discarded. -/
def Spur.setReg (p : Spur) (n : Nat) (x : DWord) : Spur := if n = 0 then p else { p with s := mset 0 p.s n x }
/-- A Spur predicate. -/
def Spur.qreg (p : Spur) (n : Nat) : Bool := p.q.getLsbD n

/-- A Spur source. -/
def Spur.src (p : Spur) (lit : Option Word) : Src → DWord
  | .main n => p.reg n.toNat
  | .pred n => if p.qreg n.val then 1 else 0
  | .imm b => b.signExtend 64
  | .lit => (lit.getD 0).signExtend 64
  | _ => 0

/-- The Spur with a result written: an `s` register, or bit 0 to a `q` register. -/
def Spur.put (p : Spur) (d : Dst) (x : DWord) : Spur :=
  match d with
  | .main n => p.setReg n.toNat x
  | .pred n =>
    { p with q := if x.getLsbD 0 then p.q ||| (1#7 <<< n.val) else p.q &&& ~~~(1#7 <<< n.val) }
  | _ => p

/-- Whether the Spur's guard holds. -/
def Spur.guard (p : Spur) (h : Hd) : Bool := h.pred == 7 || (p.qreg h.pred.toNat != h.pn)

/-! ## Lengths -/

/-- The unit count of an instruction (R69). -/
def lenOf (i : Instr) : Nat :=
  match i.compact? with
  | some _ => 1
  | none =>
    match i.shape with
    | some s => if s.h.lit.isSome then 3 else 2
    | none => 2

/-- The unit count of a full form with a header (R69). -/
def hdLen (h : Hd) : Nat := if h.lit.isSome then 3 else 2

/-- The header of a compact instruction's full form (R80). -/
def cHd (p : BitVec 3) (n : Bool) : Hd := ⟨p, n, false, none⟩

/-- The target of an offset form (R81). -/
def offTarget (pc : DWord) (n : Nat) (off : BitVec 20) : DWord :=
  pc + BitVec.ofNat 64 (4 * n) + (off.signExtend 64 <<< 2)

end Sys2Proof.Machine
end

