-- ==== Sys2Proof/Machine/Trace.lean ====
section
/-! DEFINITION. The trace ring, halts and Ridgeline's trigger lines (R195, R463 to R468). -/

namespace Sys2Proof.Machine

/-! ## Halts (R195, R468) -/

/-- A halt that reaches a group: at once, or at its XRET when it is in handler mode and halt-in-handler is clear. -/
def Tg.halt (t : Tg) (hih : Bool) : Tg :=
  if !t.used then t else if t.frame.isSome && !hih then { t with haltReq := true } else { t with halted := true }

/-- Halt-in-handler of a core (R463). -/
def Csrs.hih (c : Csrs) : Bool := c.dbgctl.getLsbD 2

/-- A halt of every agent of a core, and of handler instances dispatched later. -/
def Core.halt (c : Core) : Core :=
  { c with
    haltAll := true
    spur := { c.spur with halted := true }
    tgs := c.tgs.map fun p => (p.1, p.2.halt c.csr.hih) }

/-! ## Trigger lines (R467) -/

/-- The route entry of a line. -/
def State.route (s : State) (line : Nat) : DWord := mget 0 s.routes line
/-- A line is enabled. -/
def State.lineOn (s : State) (line : Nat) : Bool := (s.route line).getLsbD 63
/-- A line has a source. -/
def State.lineSrc (s : State) (line src : Nat) : Bool := (s.route line).getLsbD src
/-- A line has a sink. -/
def State.lineSink (s : State) (line sink : Nat) : Bool := (s.route line).getLsbD (32 + sink)

/-- CAP set in a core by an assertion (R467). -/
def Core.capture (c : Core) (cap : Nat) : Core :=
  { c with csr := { c.csr with
    dbgctl := c.csr.dbgctl.extractLsb' 16 48 ++ BitVec.ofNat 2 cap ++ c.csr.dbgctl.extractLsb' 0 14 } }

/-- A core is a sink of a line. -/
def State.sinkCore (s : State) (line core : Nat) : Bool := (s.route line).getLsbD (48 + clusterOf core)

/-- Every core of the device, listed or not, changed by number. -/
def State.onAllCores (s : State) (p : Nat → Bool) (f : Core → Core) : State :=
  (List.range 768).foldl (fun s c => if s.corePresent c && p c then s.onCore c f else s) s

/-- Local cycles of a core's cluster (R30). -/
def State.cyclesOf (s : State) (core : Nat) : Nat := mget 0 s.cycles (clusterOf core)

/-- The place of a CAP value in the order RUN, FROZEN, OFF. -/
def capRank (cap : Nat) : Nat := match cap with | 1 => 0 | 2 => 1 | _ => 2

/-- An assertion's CAP value reaches a core: no assertion of its cluster's cycle stands later in the order. -/
def State.capWins (s : State) (cap core : Nat) : Bool :=
  let l := mget (0, 0) s.captured (clusterOf core)
  !(l.1 = s.cyclesOf core + 1 && capRank cap < l.2)

/-- The clusters of a line whose cores take a CAP value now. -/
def State.noteCap (s : State) (line cap : Nat) : NMap (Nat × Nat) :=
  (List.range 4).foldl (fun m k =>
    if s.sinkCore line (192 * k) && s.capWins cap (192 * k) then mset (0, 0) m k (s.cyclesOf (192 * k) + 1, capRank cap) else m)
    s.captured

/-- A line asserted: its sinks act, and a level line stays asserted (R467). CAP is set in the
order RUN, FROZEN, OFF, also by several lines of one cycle, so the last named wins. -/
def State.assertLine (s : State) (line : Nat) : State :=
  if !s.lineOn line then s
  else
    let s := if (s.route line).getLsbD 62 && !s.asserted.contains line then
      { s with asserted := line :: s.asserted } else s
    let cap : Option Nat :=
      if s.lineSink line 2 then some 0 else if s.lineSink line 1 then some 2 else if s.lineSink line 0 then some 1 else none
    let s := match cap with
      | some k =>
        { s.onAllCores (fun c => s.sinkCore line c && s.capWins k c) (Core.capture · k) with captured := s.noteCap line k }
      | none => s
    let s := if s.lineSink line 4 then s.onAllCores (s.sinkCore line) Core.halt else s
    if s.lineSink line 5 && !s.pins.contains line then { s with pins := line :: s.pins } else s

/-- A line deasserted. -/
def State.deassertLine (s : State) (line : Nat) : State :=
  { s with asserted := s.asserted.filter (· != line), pins := s.pins.filter (· != line) }

/-- Every line that has a source asserted by an event of that source (R467). -/
def State.driveSrc (s : State) (src : Nat) : State :=
  (List.range 32).foldl (fun s n => if s.lineOn n && s.lineSrc n src then s.assertLine n else s) s

/-- An enabled GATE line that is not asserted stops recording in the cores that are its sinks (R467). -/
def State.gated (s : State) (core : Nat) : Bool :=
  (List.range 32).any fun n => s.lineOn n && s.lineSink n 3 && s.sinkCore n core && !s.asserted.contains n

/-! ## Trace records (R464, R465) -/

/-- The 64 bytes of a trace record (R465). -/
def traceBytes (time cyc kind actor : Nat) (spc seq : DWord) (value aux : Nat) : List Byte :=
  leBytes 8 time ++ leBytes 8 cyc ++ leBytes 8 0 ++
  leBytes 8 (BitVec.ofNat 18 actor ++ BitVec.ofNat 6 kind ++ 0#40 : BitVec 64).toNat ++
  leBytes 8 spc.toNat ++ leBytes 8 seq.toNat ++ leBytes 8 value ++ leBytes 8 aux

/-- Whether a core records a kind now (R464). -/
def State.records (s : State) (core kind : Nat) : Bool :=
  let d := (s.core core).csr.dbgctl
  d.extractLsb' 14 2 == 1 && d.getLsbD (32 + kind) && !s.gated core

/-- A record stored at the ring's next place, or dropped by the rule of R317 (R464). -/
def State.traceStore (s : State) (core : Nat) (record : List Byte) : State :=
  let c := (s.core core).csr
  let logn := (c.trcbase.extractLsb' 0 5).toNat
  let widx := (c.trcidx.extractLsb' 0 17).toNat
  let ridx := (c.trcidx.extractLsb' 17 17).toNat
  let put (s : State) (v : DWord) : State := s.onCore core fun k => { k with csr := { k.csr with trcidx := v } }
  if logn = 0 || (widx + 131072 - ridx) % 131072 = 2 ^ logn then put s (raceDrop c.trcidx)
  else
    match s.ringPage (s.asidOf core) ((c.trcbase.extractLsb' 12 44).toNat * 4096 + 64 * (widx % 2 ^ logn)) with
    | none => put s (raceDrop c.trcidx)
    | some a => put (s.homeWrite a record) (c.trcidx.extractLsb' 17 47 ++ BitVec.ofNat 17 (widx + 1))

/-- A trace record made under R464; else none. -/
def State.trace (s : State) (core kind actor : Nat) (spc seq : DWord) (value aux : Nat) : State :=
  if s.records core kind then
    s.traceStore core (traceBytes s.refTime (s.cyclesOf core) kind actor spc seq value aux)
  else s

end Sys2Proof.Machine
end

