-- ==== Sys2Proof/Machine/Flags.lean ====
section
/-! DEFINITION. sys.fpctl: the sampled controls and the sticky flags (R59, R60, R65). -/

namespace Sys2Proof.Machine

/-- The sampled rounding mode. -/
def fpRm (f : DWord) : Rm := .ofCode (f.extractLsb' 0 3).toNat
/-- The sampled FTZ. -/
def fpFtz (f : DWord) : Bool := f.getLsbD 3
/-- The sampled DAZ. -/
def fpDaz (f : DWord) : Bool := f.getLsbD 4
/-- Whether the sampled mode is stochastic. -/
def fpIsSr (f : DWord) : Bool := fpRm f = .sr
/-- The register with flags ORed in (R65). -/
def fpRaise (f : DWord) (fl : FFlags) : DWord := f ||| (fl.setWidth 64 <<< 8)
/-- The register's flags. -/
def fpFlags (f : DWord) : FFlags := f.extractLsb' 8 5
/-- The register with its controls and clear flags, as a spawned group starts (R158, R60). -/
def fpClear (f : DWord) : DWord := f &&& 0x1F
/-- A legal value of sys.fpctl (R59). -/
def fpLegal (f : DWord) : Bool := f &&& ~~~(0x1F1F#64) == 0 && decide ((f.extractLsb' 0 3).toNat ≤ 4)

end Sys2Proof.Machine
end

