-- ==== Sys2Proof/Machine/Ops.lean ====
section
/-! DEFINITION. The shared operations: outstanding accesses and scopes reached, publications, the trap ring, taking a
trap in a temporal group and in the Spur, and returning from one (R38, R137, R188 to R195, R301, R412 to R414). -/

namespace Sys2Proof.Machine

/-! ## Registers of the control kind -/

/-- A control register of a core changed. -/
def State.onCsr (s : State) (core : Nat) (f : Csrs → Csrs) : State := s.onCore core fun c => { c with csr := f c.csr }

/-- The Spur of a core changed. -/
def State.onSpur (s : State) (core : Nat) (f : Spur → Spur) : State := s.onCore core fun c => { c with spur := f c.spur }

/-! ## Outstanding accesses (R35, R38, R176) -/

/-- Whether an entry is a read record, which no actor waits for. -/
def Entry.isRecord (e : Entry) : Bool := match e.eff with | .readRec _ _ => true | _ => false
/-- An atomic. -/
def Entry.isRmw (e : Entry) : Bool := match e.eff with | .rmw _ _ _ => true | _ => false
/-- A store. -/
def Entry.stores (e : Entry) : Bool := match e.eff with | .store _ => true | _ => false

/-- Drained entries of an actor that have not applied. -/
def State.drained (s : State) (a : Nat) : List Entry :=
  (s.path ++ s.links.map Prod.snd).filter fun e => e.acc.actor = a && !e.isRecord

/-- Applied or refused entries of an actor that await their Acknowledge step. -/
def State.answered (s : State) (a : Nat) : List Done := s.done.filter fun d => d.e.acc.actor = a && !d.e.isRecord

/-- Whether an actor has an access outstanding. -/
def State.busy (s : State) (a : Nat) : Bool :=
  let x := s.actor a
  !x.loads.isEmpty || !x.storeQ.isEmpty || !(s.drained a).isEmpty || !(s.answered a).isEmpty

/-- The operations in a frame's replay entries. -/
def Frame.heldOps (f : Frame) : List LateOp := f.replay.flatMap Replay.ops

/-- The operations of a group that wait in the frame of which firmware has been told (R191). -/
def State.svcOps (s : State) (a : Nat) : List LateOp :=
  if isTgActor a then ((s.tg (coreOf a) (lowOf a)).svc.map Frame.heldOps).getD [] else []

/-- The operations of an actor whose homes have answered with a fault, held for a replay that has not begun (R190, R395): until
the frame is taken, and then until firmware resumes the group. Those in the frame of handler mode are not among them (log 96). -/
def State.heldOps (s : State) (a : Nat) : List LateOp :=
  if isTgActor a then (s.tg (coreOf a) (lowOf a)).late ++ s.svcOps a
  else if isQueueActor a then (mget {} (s.core (coreOf a)).queues (lowOf a - 0x84)).late
  else []

/-- The stores and atomics among held operations that have not been performed. -/
def heldEntries (l : List LateOp) : List Entry :=
  l.filterMap fun o => match o.op with | .entry e => if o.done then none else some e | .load _ => none
/-- The loads among them. -/
def heldLoads (l : List LateOp) : List Load :=
  l.filterMap fun o => match o.op with | .load x => if o.done then none else some x | .entry _ => none

/-- The access of a held operation. -/
def RepOp.acc : RepOp → Acc
  | .load l => l.acc
  | .entry e => e.acc

/-- The program-order numbers of an actor's outstanding accesses; one that is held for its replay has not completed (R176). -/
def State.outstanding (s : State) (a : Nat) : List Nat :=
  let x := s.actor a
  (x.loads.map (·.acc.pos) ++ x.storeQ.map (·.acc.pos) ++ (s.drained a).map (·.acc.pos) ++
    (s.answered a).map (·.e.acc.pos) ++ (s.heldOps a).map (·.op.acc.pos)).eraseDups

/-- Whether an access of an actor is outstanding or held for its replay: what WAITST waits for (R280). -/
def State.unsettled (s : State) (a : Nat) : Bool := s.busy a || !(s.heldOps a).isEmpty

/-- Whether every store and atomic of an actor older than `pos` has reached a scope (R38): one that its home has refused has
drained and has not been acknowledged. -/
def State.reached (s : State) (a pos : Nat) (sc : Scope) : Bool :=
  let q := (s.actor a).storeQ.filter fun e => e.acc.pos < pos
  let d := ((s.drained a) ++ (s.answered a).map Done.e ++ heldEntries (s.heldOps a)).filter fun e => e.acc.pos < pos
  let win (e : Entry) : Bool := match e.place with | .win _ _ => true | _ => false
  match sc with
  | .tg => true
  | .core => q.isEmpty && d.all fun e => s.eligible e.place
  | .clu | .dev => q.isEmpty && d.all win
  | .dom => q.isEmpty && d.isEmpty

/-- Whether every load of an actor older than `pos` has performed. -/
def State.loadsDone (s : State) (a pos : Nat) : Bool :=
  ((s.actor a).loads ++ heldLoads (s.heldOps a)).all fun l => pos ≤ l.acc.pos

/-- The wait of a release at a scope (R41). -/
def State.releaseReady (s : State) (a pos : Nat) (sc : Scope) : Bool := s.loadsDone a pos && s.reached a pos sc

/-- The core's view drops every copy (R41). Read records of unsent reads have been sent at the read (R319). -/
def State.dropCopies (s : State) (core : Nat) : State := s.onCore core fun c => { c with copies := [] }

/-- The invalidation of an acquire at a scope (R41, R43, R295). -/
def State.acquire (s : State) (core : Nat) (sc : Scope) : State :=
  match sc with
  | .tg | .core => s
  | _ => s.dropCopies core

/-! ## Publications (R301) -/

/-- A release-type operation: the actor's clock rises after it has published the current one. -/
def State.publish (s : State) (a : Nat) : State := s.onActor a fun x => { x with clk := x.clk + 1 }

/-- The entry an actor publishes now, with its vector. -/
def State.pubEntry (s : State) (a : Nat) : ViewEnt × BitVec 18 :=
  let x := s.actor a
  (⟨a, x.clk⟩, x.bc ++ x.bl ++ x.bd)

/-- An actor gains a published entry alone, as a barrier phase or RDZV gives it (R303). -/
def State.gainEntry (s : State) (a : Nat) (p : ViewEnt × BitVec 18) : State := s.onActor a fun x => x.gain p.1

/-- An actor gains a published entry and adopts its vector, as RGET and DQPOP do (R303, R304). -/
def State.gain (s : State) (a : Nat) (p : ViewEnt × BitVec 18) : State :=
  s.onActor a fun x =>
    (x.gain p.1).adopt a p.1.actor (p.2.extractLsb' 12 6) (p.2.extractLsb' 6 6) (p.2.extractLsb' 0 6)

/-- The vector of an actor. -/
def Actor.vec (x : Actor) : BitVec 18 := x.bc ++ x.bl ++ x.bd

/-- What a new access of an actor carries; `sc` is the code of its ordering scope, 0 for a plain access. -/
def State.newAcc (s : State) (a pos : Nat) (ipc spc seq : DWord) (sc : Nat) (acq rel : Bool) : Acc :=
  let x := s.actor a
  { actor := a, pos, ipc, spc, seq, clk := x.clk, sc, vec := x.vec, acq, rel
    mode := s.modeOf a, time := s.refTime }

/-- The number of an actor's next instruction in program order. -/
def State.nextPos (s : State) (a : Nat) : Nat := (s.actor a).pos + 1

/-- The actor's issue point moves past one instruction. -/
def State.bump (s : State) (a : Nat) : State := s.onActor a fun x => { x with pos := x.pos + 1 }

/-! ## The trap ring (R412 to R414) -/

/-- The 64 bytes of an entry (R413). -/
def RingPost.bytes (r : RingPost) (time : Nat) : List Byte :=
  let w4 : BitVec 64 := 0#2 ++ BitVec.ofNat 14 r.asid ++ 0#2 ++ BitVec.ofNat 6 r.vif ++ BitVec.ofNat 8 r.flags ++
    BitVec.ofNat 8 r.cause ++ 0#6 ++ BitVec.ofNat 18 r.actor
  leBytes 8 r.addr.toNat ++ leBytes 8 r.pc.toNat ++ leBytes 8 r.spc.toNat ++ leBytes 8 r.seq.toNat ++
  leBytes 8 w4.toNat ++ leBytes 8 time ++ leBytes 8 r.aux.toNat ++ leBytes 8 0

/-- The entry of a SERVICE event: flag 3 (R413). -/
def fService : Nat := 8

/-- The ring's write and read indices and size. -/
def TrapRing.widx (r : TrapRing) : Nat := (r.ctl.extractLsb' 0 17).toNat
/-- The firmware read index. -/
def TrapRing.ridx (r : TrapRing) : Nat := (r.rd.extractLsb' 0 17).toNat
/-- The size's logarithm. -/
def TrapRing.logn (r : TrapRing) : Nat := (r.base.extractLsb' 0 5).toNat
/-- Room in the ring. -/
def TrapRing.room (r : TrapRing) : Bool := (r.widx + 131072 - r.ridx) % 131072 < 2 ^ r.logn

/-- Bytes stored at the ring's next entry (R414 step 1); `none` when the ring is full or the store is refused. -/
def State.ringStore (s : State) (bytes : List Byte) : Option State :=
  let r := s.ring
  if !r.room then none
  else
    match s.ringPage 0 ((r.base.extractLsb' 12 44).toNat * 4096 + 64 * (r.widx % 2 ^ r.logn)) with
    | none => none
    | some a =>
      some { s.homeWrite a bytes with
        ring := { r with ctl := r.ctl.extractLsb' 17 47 ++ BitVec.ofNat 17 (r.widx + 1) } }

/-- One more lost notice of a core and cause. -/
def addLost (core cause : Nat) : List (Nat × Nat × Nat) → List (Nat × Nat × Nat)
  | [] => [(core, cause, 1)]
  | (c, k, n) :: l => if c = core && k = cause then (c, k, n + 1) :: l else (c, k, n) :: addLost core cause l

/-- An entry of an event at a time posted now (R414 steps 1 and 2). -/
def State.postNow (s : State) (p : RingPost) (time : Nat) : State :=
  match s.ringStore (p.bytes time) with
  | some s' => s'.driveSrc 2
  | none =>
    let r := s.ring
    let r := { r with ctl := r.ctl ||| 0x8000000000000000 }
    if p.flags / 8 % 2 = 1 then
      { s with ring := { r with
          marked := ⟨p.actor, p.cause, 0⟩ :: r.marked.filter fun m => !(m.actor = p.actor && m.image = 0) } }
    else { s with ring := { r with lost := addLost p.core p.cause r.lost } }

/-- Posting an entry (R414): in a saddle and its drain its stores wait for the end (R447). -/
def State.post (s : State) (p : RingPost) : State :=
  if s.drained? then { s with heldPosts := s.heldPosts ++ [(p, s.refTime)] } else s.postNow p s.refTime

/-- VIF and ASID of a core's launch. -/
def State.launchIds (s : State) (core : Nat) : Nat × Nat :=
  match (s.core core).launch with
  | some l => (l.vif, l.asid)
  | none => (0, 0)

/-! ## Trap frames (R182, R189, R190, R193) -/

/-- Rank of a cause (R189, R289, R427): smaller is higher. -/
def causeRank (c : Nat) : Nat :=
  match c with
  | 0x01 => 0 | 0x03 => 1 | 0x02 => 2 | 0x04 => 3
  | 0x05 => 4 | 0x06 => 5 | 0x07 => 6 | 0x10 => 7 | 0x11 => 8 | 0x12 => 9 | 0x13 => 10 | 0x14 => 11 | 0x15 => 12
  | 0x17 => 13 | 0x18 => 14 | 0x19 => 15
  | 0x08 => 16 | 0x09 => 17 | 0x0A => 18 | 0x0B => 19 | 0x0C => 20 | 0x0D => 21
  | _ => 22

/-- The lane-vector code of a per-lane cause (R189). -/
def laneCode (c : Nat) : Nat :=
  match c with
  | 0x04 => 1 | 0x08 => 2 | 0x09 => 3 | 0x0A => 4 | 0x0B => 5 | 0x0C => 6 | 0x0D => 7
  | _ => 0

/-- The lane vector of per-thread causes (R189, R193). -/
def laneVec (l : List (Nat × Nat)) : DWord :=
  l.foldl (fun v p => v ||| (BitVec.ofNat 64 (laneCode p.2) <<< (4 * p.1))) 0

/-- The spilled form of a divergence entry seen from one arm (R182): MASKA is that arm, MASKB the held one. -/
def spillDiv (d : Option Div) (arm : Bool) : List DWord :=
  match d with
  | none => [0, 0, 0]
  | some d =>
    let (a, b) := if arm then (d.t, d.f) else (d.f, d.t)
    [a.mask ++ b.mask ++ (0#29 ++ BitVec.ofBool b.wait ++ 1#2), d.rpc, b.pc]

/-- The divergence entry with the arms' live threads. -/
def Tg.liveDiv (t : Tg) : Option Div :=
  t.div.map fun d => { d with t := { d.t with mask := d.t.mask &&& t.live }, f := { d.f with mask := d.f.mask &&& t.live } }

/-- The bytes of a replay entry (R193). -/
def Replay.bytes (r : Replay) : List Byte :=
  let w0 : BitVec 64 := r.lanes ++ 0#8 ++ BitVec.ofNat 8 r.cause ++ 0#6 ++ r.dest ++ 0#8 ++ BitVec.ofBool r.done ++
    BitVec.ofNat 7 r.kind
  leBytes 8 w0.toNat ++ leBytes 8 r.lvec.toNat ++ leBytes 8 r.ipc.toNat ++ leBytes 8 r.addr.toNat

/-- Bytes padded with zeros to a length. -/
def padTo (n : Nat) (l : List Byte) : List Byte := (l ++ List.replicate (n - l.length) 0).take n

/-- FLAGS of a frame (R193). -/
def Frame.flags (f : Frame) : BitVec 8 :=
  0#4 ++ BitVec.ofBool f.held ++ BitVec.ofBool f.frameFail ++ BitVec.ofBool f.nested ++ BitVec.ofBool f.late

/-- The 1024 bytes of a frame (R193). -/
def Frame.bytes (f : Frame) : List Byte :=
  let w4 : BitVec 64 :=
    f.lmask ++ f.pmask ++ 0#8 ++ f.flags ++ BitVec.ofNat 8 f.replay.length ++ BitVec.ofNat 8 f.cause
  let w5 : BitVec 64 := 0#46 ++ BitVec.ofNat 18 f.actor
  padTo 128 (leBytes 8 f.pc.toNat ++ leBytes 8 f.fpc.toNat ++ leBytes 8 f.addr.toNat ++ leBytes 8 f.lvec.toNat ++
    leBytes 8 w4.toNat ++ leBytes 8 w5.toNat ++ leBytes 8 f.seq.toNat ++ leBytes 8 f.spc.toNat ++
    leBytes 8 0 ++ leBytes 8 0 ++ f.group.flatMap (fun w => leBytes 8 w.toNat) ++
    f.div.flatMap fun w => leBytes 8 w.toNat) ++
  padTo 128 f.carea ++
  padTo 768 (f.replay.flatMap Replay.bytes)

/-- The threads of a held operation. -/
def LateOp.lanes (o : LateOp) : Mask :=
  match o.op with
  | .load l => maskOf fun i => l.lanes.any fun x => x.lane = i
  | .entry e => e.lanes

/-- The kind code of a held operation (R193). -/
def RepOp.kind : RepOp → Nat
  | .load _ => 1
  | .entry e => match e.eff with | .store _ => 2 | _ => 3

/-- The destination specifier of a held operation. -/
def RepOp.dest : RepOp → BitVec 10
  | .load l => l.dest.d.spec .lane
  | .entry e => match e.dest with | some d => d.d.spec .lane | none => 0

/-- The address that a thread of a held operation accesses. -/
def RepOp.ea (core : Nat) (i : Nat) : RepOp → DWord
  | .load l => match l.lanes.find? fun x => x.lane = i with | some x => x.place.ea core | none => 0
  | .entry e => e.place.ea core

/-- The replay entry of the held operations of one instruction. -/
def mkReplay (core : Nat) (ops : List LateOp) : Option Replay :=
  match ops with
  | [] => none
  | o :: _ =>
    let lanes := ops.foldl (fun m o => m ||| o.lanes) 0
    let cause := ops.foldl (fun c o => if o.cause != 0 && (c = 0 || causeRank o.cause < causeRank c) then o.cause else c) 0
    let lvec := laneVec (ops.flatMap fun o => (lanesOf o.lanes).map fun i => (i, o.cause))
    let low := (lowest lanes).getD 0
    let addr := match ops.find? fun o => o.lanes.getLsbD low with | some o => o.op.ea core low | none => 0
    some { pos := o.op.acc.pos, ipc := o.op.acc.ipc, kind := o.op.kind, done := o.done, dest := o.op.dest, cause
           lanes, lvec, addr, ops }

/-- Held operations as replay entries, oldest first (R190). Performed ones keep entries of their own. -/
def mkReplays (core : Nat) (ops : List LateOp) : List Replay :=
  let ps := sortBy (fun a b => a.1 ≤ b.1) (ops.map fun o => (o.op.acc.pos, o.done)).eraseDups
  ps.filterMap fun p => mkReplay core (ops.filter fun o => o.op.acc.pos = p.1 && o.done = p.2)

/-- The replay entry that decides the cause: highest rank, oldest among equals (R190). -/
def topReplay (l : List Replay) : Option Replay :=
  l.foldl (fun b r =>
    if r.cause = 0 then b
    else match b with
      | none => some r
      | some x => if causeRank r.cause < causeRank x.cause then some r else b) none

/-! ## Taking a trap in a temporal group (R189 to R193) -/

/-- What a trap records. -/
structure TrapInfo where
  cause : Nat
  fpc : DWord
  pc : DWord
  units : Nat
  lvec : DWord := 0
  addr : DWord := 0
  late : Bool := false
  carea : List Byte := []
  replay : List Replay := []
  deriving DecidableEq, Repr

/-- A frame's GROUP words (R95, R193): the members of the fused group that the instruction at `fpc` belongs to, those before it
marked as completed, or that PC alone. -/
def Tg.groupWords (t : Tg) (arm : Bool) (fpc : DWord) : List DWord :=
  match t.fused.find? fun g => g.mask = t.active arm && g.pcs[g.at_]? = some fpc with
  | none => [fpc, 0, 0]
  | some g => ((g.pcs.zipIdx.map fun (p : DWord × Nat) => if p.2 < g.at_ then p.1 ||| 1 else p.1) ++ [0, 0, 0]).take 3

/-- The frame that a trap of an arm leaves (R193). -/
def mkFrame (t : Tg) (actor : Nat) (arm : Bool) (x : TrapInfo) : Frame where
  pc := x.pc
  fpc := x.fpc
  addr := x.addr
  lvec := x.lvec
  cause := x.cause
  late := x.late
  nested := t.frame.isSome
  frameFail := false
  held := t.div.isSome
  pmask := t.active arm
  lmask := t.live
  actor := actor
  seq := t.seq
  spc := t.spc
  group := t.groupWords arm x.fpc
  div := spillDiv t.liveDiv arm
  carea := x.carea
  replay := x.replay
  units := x.units
  entry := t.div
  arm := arm

/-- Whether the trap CSRs deliver a cause locally (R191). -/
def Csrs.delivers (c : Csrs) (cause : Nat) : Bool :=
  c.tvec.getLsbD 0 && c.tdeleg.getLsbD cause && c.tframe.extractLsb' 17 39 != 0

/-- The VA of a slot's frame (R191). -/
def Csrs.frameVa (c : Csrs) (slot : Nat) : Nat := (c.tframe.extractLsb' 17 39).toNat * 2 ^ 17 + 1024 * slot

/-- The homes of a frame's eight lines, when every write would succeed (R191). -/
def State.framePages (s : State) (asid va : Nat) : Option (List Page) :=
  (List.range 8).mapM fun i => s.ringPage asid (va + 128 * i)

/-- A frame written line by line at its homes. -/
def State.frameWrite (s : State) : List Page → List Byte → State
  | [], _ => s
  | p :: l, b => (s.homeWrite p (b.take 128)).frameWrite l (b.drop 128)

/-- How far a group has come in the instruction at its PC. -/
def Tg.waits (t : Tg) : Waits := ⟨t.arrived, t.sbWait, t.waitBar, t.barm, t.fuseAt, t.scrub⟩
/-- The group with that replaced. -/
def Tg.setWaits (t : Tg) (w : Waits) : Tg :=
  { t with arrived := w.arrived, sbWait := w.sbWait, waitBar := w.waitBar, barm := w.barm, fuseAt := w.fuseAt, scrub := w.scrub }

/-- A trap delivered to firmware: the group parks on fault service and the ring receives an entry (R191). -/
def State.tgService (s : State) (core slot : Nat) (arm : Bool) (f : Frame) : State :=
  let ids := s.launchIds core
  let s := s.trace core 7 f.actor f.spc f.seq f.cause f.addr.toNat
  let s := s.onTg core slot fun t => { t.setPark arm .fault with svc := some f, late := [] }
  s.post { core, actor := f.actor, cause := f.cause, flags := fService + f.flags.toNat % 8, seq := f.seq, spc := f.spc
           pc := f.fpc, addr := f.addr, aux := f.lvec, vif := ids.1, asid := ids.2 }

/-- The counts of timing errors of an actor's arms begin anew (R459). -/
def State.freshTries (s : State) (a : Nat) : State :=
  { s with retries := mset 0 (mset 0 s.retries (2 * a) 0) (2 * a + 1) 0 }

/-- A trap delivered locally: handler mode at sys.tvec.PC with the faulting arm's mask (R191). -/
def State.tgHandler (s : State) (core slot : Nat) (f : Frame) (lines : List Page) (va : Nat) : State :=
  let s := s.frameWrite lines f.bytes
  let s := (s.trace core 7 f.actor f.spc f.seq f.cause f.addr.toNat).freshTries (tgActor core slot)
  let asid := s.asidOf core
  s.onCore core fun c =>
    let t := c.tg slot
    { c with
      copies := c.copies.filter fun k => !(k.asid = asid && va / 128 ≤ k.line && k.line < va / 128 + 8)
      tgs := mset {} c.tgs slot
        { (t.setWaits {}) with
            frame := some f, outer := t.waits, div := none, path := f.pmask, park := .ready, late := [], wakeAt := 0
            wave := none, pc := (c.csr.tvec.extractLsb' 2 54).setWidth 64 <<< 2 } }

/-- Taking a trap (R189 to R193). The group first waits until its other accesses have completed or faulted, so a
precise trap with accesses outstanding, or with a late fault pending, is no step yet; nor is a trap of one arm while the
other awaits fault service, which stays to be delivered after it (R191). -/
def State.tgTrap (s : State) (core slot : Nat) (arm : Bool) (x : TrapInfo) : State :=
  let t := s.tg core slot
  let a := tgActor core slot
  if s.busy a || (!x.late && !t.late.isEmpty) || t.svc.isSome then s
  else
    let f := mkFrame t a arm x
    let c := (s.core core).csr
    if t.frame.isNone && c.delivers x.cause then
      let va := c.frameVa slot
      match s.framePages (s.asidOf core) va with
      | some lines =>
        if lines.any fun p => (s.owner (p.phys / 128)).isSome || s.dramHeld (.phys p) then s else s.tgHandler core slot f lines va
      | none => s.tgService core slot arm { f with frameFail := true }
    else s.tgService core slot arm f

/-- Whether a group that was to take a trap has taken it: it awaits service, or has entered handler mode. -/
def trapTaken (before after : Tg) : Bool :=
  (before.svc.isNone && after.svc.isSome) || (before.frame.isNone && after.frame.isSome)

/-- The cause of a trap that a group has taken since, if it has taken one (R189). -/
def newCause (before after : Tg) : Option Nat :=
  if before.svc.isNone && after.svc.isSome then after.svc.map (·.cause)
  else if before.frame.isNone && after.frame.isSome then after.frame.map (·.cause)
  else none

/-! ## Returning from a trap (R194) -/

/-- The held operation as it is performed again, under the mode in force now (R194, R287, R316). A release-type access keeps
the clock that it published; any other stamps with the current one (R301). -/
def State.renew (s : State) (a : Acc) : Acc :=
  let x := s.actor a.actor
  { a with clk := if a.rel then a.clk else x.clk, vec := x.vec, mode := s.modeOf a.actor, time := s.refTime }

/-- A load pending again: threads of one load stand together, so that one Perform step may take them (R194, R324). -/
def rejoin (l : Load) (loads : List Load) : List Load :=
  if loads.any fun o => o.acc = l.acc && o.bytes = l.bytes && o.dest = l.dest then
    updFirst (fun o => o.acc = l.acc && o.bytes = l.bytes && o.dest = l.dest) (fun o => { o with lanes := o.lanes ++ l.lanes }) loads
  else loads ++ [l]

/-- An entry put into a store queue before those that entered it after it. -/
def queueIn (e : Entry) : List Entry → List Entry
  | [] => [e]
  | o :: l => if e.uid < o.uid then e :: o :: l else o :: queueIn e l

/-- An entry under a new number: it stands at the tail of its queue, and the observed sets that hold it go on holding it (R40). -/
def State.renumber (s : State) (e : Entry) : State × Entry :=
  let u := s.nextUid
  ({ s with
      nextUid := u + 1
      actors := s.actors.map fun p => (p.1, { p.2 with observed := p.2.observed.map fun n => if n = e.uid then u else n }) },
   { e with uid := u })

/-- One held operation performed again or its reply left for `write` (R194). A store or atomic takes its place in the store queue
again, ahead of what has issued since; where a handler has run (`tail`), its accesses came before (R39). -/
def State.replayOp (s : State) (tail : Bool) (write : State → LateOp → State) (o : LateOp) : State :=
  if o.done then write s o
  else
    match o.op with
    | .load l => s.onActor l.acc.actor fun x => { x with loads := rejoin { l with acc := s.renew l.acc } x.loads }
    | .entry e =>
      let p := if tail then s.renumber e else (s, e)
      p.1.onActor e.acc.actor fun x =>
        { x with storeQ := queueIn { p.2 with acc := s.renew e.acc, page := none } x.storeQ, unacked := x.unacked + 1 }

/-- All operations of a frame's replay entries, but those that SKIP discards (R194). -/
def Frame.replayOps (f : Frame) (skip : Bool) : List LateOp :=
  f.replay.flatMap fun r =>
    r.ops.filter fun o => o.done || !(skip && r.ipc = f.fpc && !f.late)

/-- Where a return resumes (R194). -/
def Frame.resumePc (f : Frame) (skip : Bool) : DWord :=
  if skip && !f.late then f.fpc + BitVec.ofNat 64 (4 * f.units) else f.pc

/-- What a return does to the arm that trapped: its PC, and the replays that come first. An instruction that SKIP passes over
is no longer waited in. A fused group forms anew from the resume PC (R95). -/
def Tg.resume (t : Tg) (f : Frame) (skip : Bool) : Tg :=
  let t := { (t.setArmPc f.arm (f.resumePc skip)).setPark f.arm .ready with replaying := true, fused := [] }
  if skip && !f.late then t.setWaits {} else t

/-- The wait that a handler has interrupted, as it is tested again: a core barrier whose phase is over is waited at no more. -/
def Tg.rewait (t : Tg) : Tg :=
  t.setWaits { t.outer with waitBar := t.outer.waitBar.filter fun b => mget 0 t.lag b != 0 }

/-- A debug halt that waited for the end of handler mode takes effect (R195). -/
def Tg.haltNow (t : Tg) : Tg := { t with halted := t.halted || t.haltReq, haltReq := false }

/-- XRET's return from handler mode (R194). `write` gives a held reply to its destination. -/
def State.tgReturn (s : State) (core slot : Nat) (skip : Bool) (write : State → LateOp → State) : State :=
  match (s.tg core slot).frame with
  | none => s
  | some f =>
    let s := (f.replayOps skip).foldl (fun s o => s.replayOp true write o) s
    s.onTg core slot fun t =>
      ({ { t.rewait with div := f.entry, path := f.pmask, park := .ready }.resume f skip with
          frame := none, outer := {} } : Tg).haltNow

/-- The arm that some threads stand in; none while another arm has pushed them into a spilled divergence entry (R241). -/
def Tg.armOf (t : Tg) (m : Mask) : Option Bool := [true, false].find? fun arm => t.active arm &&& m != 0

/-- What a service does to an arm that the other has pushed: its replays come first, and where it skips, the arm goes on at the
next PC once it is popped (R191, R241). -/
def Tg.resumePushed (t : Tg) (f : Frame) (skip : Bool) : Tg :=
  { t with
    replaying := true
    skips := if skip && !f.late then ⟨f.pmask, f.pc, f.resumePc true⟩ :: t.skips else t.skips }

/-- Firmware's resume of a group parked on fault service, as XRET does (R191); the other arm has gone on meanwhile, so the
divergence entry stands as it is now. The service of an arm that the other has pushed ends too (R241). -/
def State.tgServe (s : State) (core slot : Nat) (skip : Bool) (write : State → LateOp → State) : State :=
  match (s.tg core slot).svc with
  | none => s
  | some f =>
    let s := (f.replayOps skip).foldl (fun s o => s.replayOp false write o) s
    s.onTg core slot fun t =>
      let u := match t.armOf f.pmask with
        | some arm => t.resume { f with arm } skip
        | none => t.resumePushed f skip
      let u := { u with svc := none }
      if u.frame.isSome then u else u.haltNow

/-! ## Spur traps (R137, R138) -/

/-- A precise trap in the Spur: the frame, the ring entry and PARK_FAULT (R137). -/
def State.spurTrap (s : State) (core cause : Nat) (addr : DWord) : State :=
  let p := (s.core core).spur
  let ids := s.launchIds core
  let s := s.trace core 7 (spurActor core) p.pc 0 cause addr.toNat
  let s := s.onSpur core fun p =>
    { p with run := .parkFault, busy := none, frame := some ⟨p.pc, cause, addr, none, p.pc⟩ }
  s.post { core, actor := spurActor core, cause, flags := fService, pc := p.pc, spc := p.pc, addr
           seq := 0, vif := ids.1, asid := ids.2 }

/-! ## Finishing an instruction -/

/-- The group's instruction is done: its arm goes on at the next PC and the issue point moves. -/
def State.tgNext (s : State) (core slot : Nat) (arm : Bool) (pc : DWord) : State :=
  (s.onTg core slot fun t => { (t.setArmPc arm pc).setPark arm .ready with replaying := false }).bump (tgActor core slot)

/-- The Spur's instruction is done. -/
def State.spurNext (s : State) (core : Nat) (pc : DWord) : State :=
  (s.onSpur core fun p => { p with pc := pc, run := if p.run = .run || p.run = .parkFault then p.run else .run }).bump
    (spurActor core)

end Sys2Proof.Machine
end

