-- ==== Sys2Proof/Machine/Order.lean ====
section
/-! DEFINITION. The steps of the abstract ordering machine and how replies reach their agents
(R36, R39 to R44, R153, R154, R247, R256, R272 to R277, R292, R295, R306 to R308). -/

namespace Sys2Proof.Machine

/-! ## Replies (R153, R154, R175, R270, R275, R277) -/

/-- Loaded bytes as a 32-bit register value. -/
def ldWord (sz : LSz) (n : Nat) : Word :=
  match sz with
  | .s8 => (BitVec.ofNat 8 n).signExtend 32
  | .s16 => (BitVec.ofNat 16 n).signExtend 32
  | _ => BitVec.ofNat 32 n

/-- A uniform load's group value: extended to 64 bits by its suffix, `.b32` zero-extended (R270). -/
def ldGroup (sz : LSz) (n : Nat) : DWord :=
  match sz with
  | .s8 => (BitVec.ofNat 8 n).signExtend 64
  | .s16 => (BitVec.ofNat 16 n).signExtend 64
  | _ => BitVec.ofNat 64 n

/-- A Spur load's register value (R153). -/
def ldSpur (sz : SSz) (n : Nat) : DWord :=
  match sz with
  | .s8 => (BitVec.ofNat 8 n).signExtend 64
  | .s16 => (BitVec.ofNat 16 n).signExtend 64
  | .s32 => (BitVec.ofNat 32 n).signExtend 64
  | _ => BitVec.ofNat 64 n

/-- A thread's reply written to its destination, a late result for `l0` (R175). `n` is the value as a number. -/
def Tg.reply (t : Tg) (pos i : Nat) (d : Dest) (n : Nat) : Tg :=
  let w (k : Nat) : Word := BitVec.ofNat 32 (n / 2 ^ (32 * k))
  match d.k, d.d with
  | .ld .b64, .main r | .pair, .main r => ((t.setV r.toNat i (w 0)).setV (r.toNat + 1) i (w 1)).lateL0 pos i (w 0)
  | .ld .b128, .main r =>
    ((((t.setV r.toNat i (w 0)).setV (r.toNat + 1) i (w 1)).setV (r.toNat + 2) i (w 2)).setV (r.toNat + 3) i (w 3)).lateL0
      pos i (w 0)
  | .ld sz, .main r => (t.setV r.toNat i (ldWord sz n)).lateL0 pos i (ldWord sz n)
  | .ld sz, .opnd r => (t.setO r.toNat i (ldWord sz n)).lateL0 pos i (ldWord sz n)
  | .uniform sz, .grp r => t.setG r.toNat (ldGroup sz n)
  | .word, .main r => (t.setV r.toNat i (w 0)).lateL0 pos i (w 0)
  | .word, .opnd r => (t.setO r.toNat i (w 0)).lateL0 pos i (w 0)
  | .half k, .main r =>
    let old := t.vreg r.toNat i
    let h : BitVec 16 := BitVec.ofNat 16 n
    let x : Word := if k = 0 then old.extractLsb' 16 16 ++ h else h ++ old.extractLsb' 0 16
    (t.setV r.toNat i x).lateL0 pos i x
  | .half k, .opnd r =>
    let old := t.oreg r.toNat i
    let h : BitVec 16 := BitVec.ofNat 16 n
    let x : Word := if k = 0 then old.extractLsb' 16 16 ++ h else h ++ old.extractLsb' 0 16
    (t.setO r.toNat i x).lateL0 pos i x
  | _, _ => t

/-- A Spur reply (R153, R154): a SAMO's old value is extended by its width. -/
def Spur.reply (p : Spur) (d : Dest) (n : Nat) : Spur :=
  match d.k with
  | .spurLd sz => p.put d.d (ldSpur sz n)
  | .spurAt w =>
    match w with
    | .s64 | .z64 => p.put d.d (BitVec.ofNat 64 n)
    | .s32 => p.put d.d ((BitVec.ofNat 32 n).signExtend 64)
    | .z32 => p.put d.d ((BitVec.ofNat 32 n).setWidth 64)
  | _ => p

/-- Values returned to an actor's registers: threads of a group, or the Spur. -/
def State.deliver (s : State) (a : Nat) (pos : Nat) (d : Option Dest) (vals : List (Nat × Nat)) : State :=
  match d with
  | none => s
  | some d =>
    if isTgActor a then
      s.onTg (coreOf a) (lowOf a) fun t => vals.foldl (fun t p => t.reply pos p.1 d p.2) t
    else if isSpurActor a then
      s.onSpur (coreOf a) fun p => vals.foldl (fun p v => p.reply d v.2) p
    else s

/-- The Spur's one held access has ended: younger instructions go on (R143). -/
def State.spurRelease (s : State) (a pos : Nat) : State :=
  if isSpurActor a then
    match (s.core (coreOf a)).spur.busy with
    | some (p, pc) => if p = pos then s.onSpur (coreOf a) fun u => { u with busy := none, pc := pc } else s
    | none => s
  else s

/-- A refused store of the Spur is performed again by the instruction that its trap names, and is observed until then (R40, R194). -/
def State.spurOwes (s : State) (a : Nat) (op : RepOp) : State :=
  match op with
  | .entry e => if e.stores then s.onSpur (coreOf a) fun p => { p with owed := e.uid :: p.owed } else s
  | .load _ => s
/-- The store performed again has been acknowledged: its refused forms leave every observed set (R40). -/
def State.spurPaid (s : State) (a : Nat) : State :=
  if isSpurActor a then
    let l := (s.core (coreOf a)).spur.owed
    if l.isEmpty then s
    else
      ({ s with actors := s.actors.map fun p => (p.1, { p.2 with observed := p.2.observed.filter fun u => !l.contains u }) } : State).onSpur
        (coreOf a) fun p => { p with owed := [] }
  else s

/-- A fault returned to its agent: held for replay in a group, a precise trap in the Spur (R143, R190). A race of the
Spur is logged before the ring entry (R314). A queue's is kept for its program (R395). -/
def State.fault (s : State) (a cause : Nat) (addr : DWord) (race : List Byte) (op : RepOp) : State :=
  if isTgActor a then
    s.onTg (coreOf a) (lowOf a) fun t => { t with late := t.late ++ [⟨op, cause, race, false, [], 0, s.cyclesOf (coreOf a)⟩] }
  else if isSpurActor a then
    let s := if race.isEmpty then s else s.raceLog (coreOf a) race
    (s.spurOwes a op).spurTrap (coreOf a) cause addr
  else if isQueueActor a then
    s.onCore (coreOf a) fun c =>
      let q : Queue := mget {} c.queues (lowOf a - 0x84)
      { c with queues := mset {} c.queues (lowOf a - 0x84) { q with late := q.late ++ [⟨op, cause, race, false, [], 0, s.cyclesOf (coreOf a)⟩] } }
  else s

/-- Flags of an access merged into the issuing agent's sys.fpctl (R60). Where a younger CSRW has written the register meanwhile,
they belong before that write, which has replaced them (R65). -/
def State.raise (s : State) (a pos : Nat) (fl : FFlags) : State :=
  if isTgActor a then
    s.onTg (coreOf a) (lowOf a) fun t => if pos < t.fpPos then t else { t with fpctl := fpRaise t.fpctl fl }
  else if isSpurActor a then s.onSpur (coreOf a) fun p => { p with fpctl := fpRaise p.fpctl fl }
  else s

/-! ## Fill and Evict (R39) -/

/-- The copy that a Fill takes of a line. -/
def State.mkCopy (s : State) (asid line : Nat) (p : Page) : Copy :=
  let base := p.phys / 128 * 128
  { asid, line, bytes := s.physBytes base 128, pr := p.pr, pw := p.pw, k := p.k
    wst := if p.k then s.writerStamp p.phys else .empty, recSent := false }

/-- The copy of a line in a core's view. -/
def Core.copy (c : Core) (asid line : Nat) : Option Copy := c.copies.find? fun k => k.asid = asid && k.line = line

/-- The view with its copy of a line dropped. -/
def Core.dropCopy (c : Core) (asid line : Nat) : Core :=
  { c with copies := c.copies.filter fun k => !(k.asid = asid && k.line = line) }

/-- Whether a Fill of a line may be taken: eligible, and no active ownership entry (R39). -/
def State.canFill (s : State) (asid line : Nat) : Bool :=
  match s.page asid (line * 128) with
  | some p => !p.au && p.pr && (s.owner (p.phys / 128)).isNone && !s.damaged (.phys p)
  | none => false

/-- A Fill step (R39). -/
def State.fill (s : State) (core asid line : Nat) : State :=
  match s.page asid (line * 128) with
  | some p =>
    if s.canFill asid line then
      let k := s.mkCopy asid line p
      s.onCore core fun c => { (c.dropCopy asid line) with copies := k :: (c.dropCopy asid line).copies }
    else s
  | none => s

/-- An Evict step (R39). -/
def State.evict (s : State) (core asid line : Nat) : State := s.onCore core fun c => c.dropCopy asid line

/-! ## Perform (R40, R41, R273, R307) -/

/-- The source of one byte of a load. -/
inductive BSrc
  | own (b : Byte)
  | laid (b : Byte) (st : OvStore)
  | base (b : Byte)
  deriving DecidableEq, Repr

/-- The byte. -/
def BSrc.byte : BSrc → Byte
  | .own b | .laid b _ | .base b => b

/-- The byte that an entry's store holds for a place. -/
def Entry.byteFor (e : Entry) (p : Place) : Option Byte :=
  match e.eff with
  | .store data => if e.place.line = p.line && e.place.addr ≤ p.addr then data[p.addr - e.place.addr]? else none
  | _ => none

/-- The youngest entry's byte of an actor's own store queue (R40 source 1). -/
def ownByte (q : List Entry) (p : Place) : Option Byte := q.foldl (fun b e => (e.byteFor p).orElse fun _ => b) none

/-- The most recently drained byte of a core's overlay (R40 source 2). -/
def overByte (l : List OvStore) (asid va : Nat) : Option (Byte × OvStore) :=
  l.foldl (fun b o =>
    if o.asid = asid && o.va ≤ va then
      match o.data[va - o.va]? with
      | some x => some (x, o)
      | none => b
    else b) none

/-- What one thread's perform gives; a value tells whether it met a race that did not trap. -/
inductive LaneAns
  | wait
  | value (n : Nat) (raced : Bool) (s : State)
  | fault (cause : Nat) (race : List Byte) (s : State)

/-- A race of a load judged against a stamp: nothing, or the record with its class (R306, R307, R309). -/
def State.judgeLoad (s : State) (a : Acc) (va size : Nat) (w r : Stamp) : Option (Nat × List Byte) :=
  if a.mode = 1 || isDevActor a.actor then none
  else
    let x := s.actor a.actor
    let kind := if lowOf a.actor > 0x80 then 4 else 1
    match raceClass x ⟨a.actor, a.sc, a.acq || a.rel, false⟩ false w r with
    | some c => some (c, raceRecord x a va size kind c w r)
    | none => none

/-- The state after a judged access that goes on, or `none` when the race traps (R313, R314). With `quiet`, a lower thread of
the same Perform step has reported a race of the line, and no second record is logged (R324, R325). -/
def State.afterJudge (s : State) (a : Acc) (quiet : Bool) (j : Option (Nat × List Byte)) : Option State :=
  match j with
  | none => some s
  | some (c, rec) =>
    match raceAct a.mode c (s.actor a.actor).spent with
    | .none => some s
    | .log => some (if quiet then s else s.logRace a rec)
    | .trap => none

/-- A read record sent for the first read of a copy (R307, R308). -/
def State.sendRecord (s : State) (core : Nat) (a : Acc) (asid line : Nat) (k : Copy) : State :=
  if !k.k || k.recSent then s
  else
    let e : Entry :=
      { uid := s.nextUid, acc := a, place := .glob asid (line * 128), lanes := 0
        eff := .readRec (a.stamp false) k.wst, dest := none, page := none }
    let s := { s with path := s.path ++ [e], nextUid := s.nextUid + 1 }
    s.onCore core fun c =>
      { c with copies := updFirst (fun k => k.asid = asid && k.line = line) (fun k => { k with recSent := true }) c.copies }

/-- The stamp that a drained store will write at its Apply step (R307). -/
def OvStore.stamp (o : OvStore) : Stamp := o.acc.stamp false

/-- The race of a load whose read of a Cairn line meets damage, judged by the line's writer stamp and by some overlay stores of other
actors (R289, R307). -/
def State.fillRace (s : State) (l : Load) (loc : Loc) (va : Nat) (laid : List OvStore) : Option (Nat × List Byte) :=
  match loc with
  | .phys p =>
    if !p.k then none
    else
      let home := if s.damage.contains (.sidecar (p.phys / 128)) then none
        else s.judgeLoad l.acc va l.bytes (s.writerStamp p.phys) .empty
      (home :: laid.map fun o => s.judgeLoad l.acc va l.bytes o.stamp .empty).foldl (· <|> ·) none
  | _ => none

/-- One thread's bytes through the view (R40, R251, R307). -/
def State.loadView (s : State) (core : Nat) (l : Load) (quiet : Bool) (asid va : Nat) : LaneAns :=
  let a := l.acc.actor
  let q := (s.actor a).storeQ
  let ov := (s.core core).overlay
  let early (i : Nat) : Option BSrc :=
    match ownByte q (.glob asid (va + i)) with
    | some b => some (.own b)
    | none => (overByte ov asid (va + i)).map fun p => .laid p.1 p.2
  let srcs := (List.range l.bytes).map early
  let needBase := srcs.any Option.isNone
  let laid := (srcs.filterMap fun b => match b with | some (.laid _ o) => if o.acc.actor = a then none else some o | _ => none).eraseDups
  let line := va / 128
  -- the copy, filled when absent
  let have? := (s.core core).copy asid line
  let s1 : Except Nat State :=
    if !needBase || have?.isSome then .ok s
    else
      match s.locGlob .rd asid va with
      | .error c => .error c
      | .ok loc =>
        if s.ownedByOther a loc || s.dramHeld loc then .ok s
        else if s.damaged loc then
          match s.afterJudge l.acc true (s.fillRace l loc va laid) with
          | none => .error cRace
          | some _ => .error cMemError
        else .ok (s.fill core asid line)
  match s1 with
  | .error c =>
    .fault c (if c = cRace then
      (match s.locGlob .rd asid va with | .ok loc => (s.fillRace l loc va laid).elim [] Prod.snd | .error _ => []) else []) s
  | .ok s1 =>
    match (s1.core core).copy asid line, needBase with
    | none, true => .wait
    | k?, _ =>
      if needBase && (match k? with | some k => !k.pr | none => false) then .fault cPermission [] s1
      else
        let base (i : Nat) : Byte := match k? with | some k => k.bytes.getD (va % 128 + i) 0 | none => 0
        let bs := (List.range l.bytes).map fun i =>
          match srcs.getD i none with | some b => b | none => .base (base i)
        let others := (bs.filterMap fun b => match b with | .laid _ o => if o.acc.actor = a then none else some o | _ => none).eraseDups
        -- judged against the copy's writer stamp, then against the overlay stores of others
        let isK := match s1.page asid va with | some p => p.k | none => false
        let j0 := match k?, needBase with
          | some k, true => if k.k then s1.judgeLoad l.acc va l.bytes k.wst .empty else none
          | _, _ => none
        let js := if isK then others.map fun o => s1.judgeLoad l.acc va l.bytes o.stamp .empty else []
        let j := (j0 :: js).foldl (fun b x => match b with | some _ => b | none => x) none
        match s1.afterJudge l.acc quiet j with
        | none => .fault cRace (match j with | some (_, r) => r | none => []) s1
        | some s2 =>
          let s3 := match k?, needBase with
            | some k, true => s2.sendRecord core l.acc asid line k
            | _, _ => s2
          let s4 := s3.onActor a fun x =>
            let x := { x with observed := (others.map OvStore.uid ++ x.observed).eraseDups }
            if l.acc.acq then
              match k?, needBase with
              | some k, true => if k.k then x.gainStamp a k.wst else x
              | _, _ => others.foldl (fun x o => if isK then x.gainStamp a o.stamp else x) x
            else x
          .value (leNat (bs.map BSrc.byte)) j.isSome s4

/-- One thread's bytes at the home: scratch, the domain window and `ALIAS_UNCACHED` lines (R23, R36, R40, R307). -/
def State.loadHome (s : State) (l : Load) (quiet : Bool) (p : Place) : LaneAns :=
  let a := l.acc.actor
  let q := (s.actor a).storeQ
  let own := (List.range l.bytes).map fun i => ownByte q (p.plus i)
  if s.bitWaits (coreOf a) p || s.restoring a p then .wait
  else if own.all Option.isSome then .value (leNat (own.map fun b => b.getD 0)) false s
  else
    match s.loc a .rd p with
    | .error c => .fault c [] s
    | .ok loc =>
      if s.ownedByOther a loc || s.dramHeld loc then .wait
      else if s.damaged loc then
        let j := match p with | .glob _ va => s.fillRace l loc va [] | _ => none
        match s.afterJudge l.acc true j with
        | none => .fault cRace (j.elim [] Prod.snd) s
        | some _ => .fault cMemError [] s
      else
        let home := s.locBytes loc l.bytes
        let n := leNat ((List.range l.bytes).map fun i => ((own.getD i none).getD (home.getD i 0)))
        match loc, p with
        | .phys g, .glob _ va =>
          if !g.k then .value n false s
          else
            let w := s.writerStamp g.phys
            let j := s.judgeLoad l.acc va l.bytes w (s.readerStamp g.phys)
            match s.afterJudge l.acc quiet j with
            | none => .fault cRace (match j with | some (_, r) => r | none => []) s
            | some s2 =>
              let s3 := s2.applyRead g.phys l.acc (l.acc.stamp false) w none
              .value n j.isSome (if l.acc.acq then s3.onActor a fun x => x.gainStamp a w else s3)
        | _, _ => .value n false s

/-- An acquire atomic of an actor that is older than `pos` and has not been acknowledged: it obeys the acquire half of its kind,
so nothing younger performs or drains (R41). One that waits for its replay is such, and so is an acquire load (R190). -/
def State.acquiring (s : State) (a pos : Nat) : Bool :=
  (((s.actor a).storeQ ++ s.drained a ++ (s.answered a).map Done.e).any fun e => e.acc.acq && e.acc.pos < pos) ||
  (s.svcOps a).any fun o => !o.done && o.op.acc.acq && o.op.acc.pos < pos

/-- An older store or atomic of the actor that a group in fault service holds for its replay keeps a younger access of the other
arm back: R39 lets nothing pass a store of its line, and no load performs before an atomic that it overlaps (R40, R190). -/
def State.behindHeld (s : State) (a pos : Nat) (p : Place) (n : Nat) : Bool :=
  (heldEntries (s.svcOps a)).any fun e =>
    e.acc.pos < pos && match e.eff with
      | .rmw _ k _ => p.overlaps n e.place k
      | _ => p.line = e.place.line

/-- A load of an actor may perform for some threads: no older pending load to an overlapping byte, no older pending acquire, no
older incomplete fence; no unacknowledged atomic of the actor that overlaps; and, in the domain window, no older store to the line
that has drained and is not acknowledged, nor one in the queue unless the queue holds every byte (R39, R40, R41, R295): that the
actor's own queue then gives them, as R40's first source does, is the model's reading of R295 (DESIGN CHOICE, log 106). -/
def State.mayPerform (s : State) (l : Load) (lanes : List LoadLane) : Bool :=
  let a := l.acc.actor
  let x := s.actor a
  let older := x.loads.filter fun o => o.acc.pos < l.acc.pos
  let ent := x.storeQ ++ s.drained a ++ (s.answered a).map Done.e
  !(older.any fun o => o.acc.acq) &&
  !(x.fences.any fun f => f.pos < l.acc.pos) && !s.acquiring a l.acc.pos &&
  lanes.all fun t =>
    !s.behindHeld a l.acc.pos t.place l.bytes &&
    !(older.any fun o => o.lanes.any fun u => t.place.overlaps l.bytes u.place o.bytes) &&
    !(ent.any fun e =>
      match e.eff with
      | .rmw _ n _ => e.acc.pos < l.acc.pos && t.place.overlaps l.bytes e.place n
      | _ => false) &&
    (match t.place with
      | .win _ _ =>
        let older (e : Entry) : Bool := e.acc.pos < l.acc.pos && e.place.line = t.place.line
        !((s.drained a ++ (s.answered a).map Done.e).any older) &&
        (!(x.storeQ.any older) || (List.range l.bytes).all fun i => (ownByte x.storeQ (t.place.plus i)).isSome)
      | _ => true)

/-- The threads of a load that a mask names. -/
def Load.named (l : Load) (m : Mask) : List LoadLane := l.lanes.filter fun t => m.getLsbD t.lane

/-- The threads named are closed under sharing a byte (R273), and a scratch line: a load sees a line as it was before a command
cleared it, or as it has landed (R23, R371). -/
def Load.closed (l : Load) (m : Mask) : Bool :=
  let scr (p : Place) : Bool := match p with | .scr _ _ => true | _ => false
  (l.named m).all fun t => l.lanes.all fun u =>
    !(t.place.overlaps l.bytes u.place l.bytes || (scr t.place && t.place.line = u.place.line)) || m.getLsbD u.lane

/-- A load without some of its threads; a load with none left leaves the pending set. -/
def dropLanes (m : Mask) (pos : Nat) (loads : List Load) : List Load :=
  (updAll (fun l => l.acc.pos = pos) (fun l => { l with lanes := l.lanes.filter fun t => !m.getLsbD t.lane }) loads).filter
    fun l => !l.lanes.isEmpty

/-- One thread performed. -/
def State.performLane (s : State) (l : Load) (quiet : Bool) (t : LoadLane) : LaneAns :=
  match t.place with
  | .glob asid va =>
    if s.eligible t.place && lowOf l.acc.actor ≤ 0x80 && !isDevActor l.acc.actor then
      s.loadView (coreOf l.acc.actor) l quiet asid va
    else s.loadHome l quiet t.place
  | p => s.loadHome l quiet p

/-- The threads performed in ascending order; `none` when one of them must wait. `raced` holds the lines of which a thread
has reported a race. -/
def State.performLanes (s : State) (l : Load) (raced : List Place) : List LoadLane → Option State
  | [] => some s
  | t :: ts =>
    match s.performLane l (raced.contains t.place.line) t with
    | .wait => none
    | .value n r s' =>
      (s'.deliver l.acc.actor l.acc.pos (some l.dest) [(t.lane, n)]).performLanes l
        (if r then t.place.line :: raced else raced) ts
    | .fault c r s' =>
      (s'.fault l.acc.actor c (t.place.ea (coreOf l.acc.actor)) r (.load { l with lanes := [t] })).performLanes l raced ts

/-- PERFORM (R39, R40): the named threads of an actor's pending load. -/
def State.perform (s : State) (a pos : Nat) (m : Mask) : State :=
  match (s.actor a).loads.find? fun l => l.acc.pos = pos with
  | none => s
  | some l =>
    let ts := l.named m
    if ts.isEmpty || !l.closed m || !s.mayPerform l ts then s
    else
      let s0 := if l.acc.acq then
          (match Scope.of? l.acc.sc with | some sc => s.acquire (coreOf a) sc | none => s) else s
      match s0.performLanes l [] ts with
      | none => s
      | some s1 =>
        let s2 := s1.onActor a fun x => { x with loads := dropLanes m pos x.loads }
        s2.spurRelease a pos

/-! ## Drain and Forward (R39, R251, R295) -/

/-- Two element atomics of one word of one instruction: nothing orders the halves of a pair (R277). -/
def Entry.sibling (e o : Entry) : Bool :=
  match e.eff, o.eff with
  | .rmw (.flt _ _ _) _ _, .rmw (.flt _ _ _) _ _ =>
    e.acc.actor = o.acc.actor && e.acc.pos = o.acc.pos && e.place.line = o.place.line && e.place.addr / 4 = o.place.addr / 4
  | _, _ => false

/-- A store-queue entry may drain: no older entry of the queue for its line, no older pending acquire load, no older
incomplete fence. -/
def Actor.mayDrain (x : Actor) (e : Entry) : Bool :=
  !(x.storeQ.any fun o => o.uid < e.uid && o.place.line = e.place.line && !e.sibling o) &&
  !(x.loads.any fun l => l.acc.acq && l.acc.pos < e.acc.pos) &&
  !(x.fences.any fun f => f.pos < e.acc.pos)

/-- Two atomics of one instruction at one bank's atomic unit: they reach it in ascending thread order (R247, R276). A bank holds
every 32nd line of a scratchpad (R244). -/
def Entry.sameBank (e o : Entry) : Bool :=
  match e.eff, o.eff, e.place, o.place with
  | .rmw _ _ _, .rmw _ _ _, .scr c x, .scr d y =>
    e.acc.actor = o.acc.actor && e.acc.pos = o.acc.pos && c = d && x / 128 % 32 = y / 128 % 32
  | _, _, _, _ => false

/-- Whether an entry's atomic at another device must wait: an older store of its actor to the line is not acknowledged (R295). -/
def State.winHeld (s : State) (a : Nat) (e : Entry) : Bool :=
  match e.eff, e.place with
  | .rmw _ _ _, .win _ _ =>
    ((s.actor a).storeQ ++ s.drained a ++ (s.answered a).map Done.e).any fun o =>
      o.uid < e.uid && o.place.line = e.place.line && !e.sibling o &&
      (match o.eff with | .store _ => true | _ => false)
  | _, _ => false

/-- The same, with no older acquire atomic that awaits its acknowledgement (R41), no earlier thread of the instruction still to
go to the same bank (R276), at another device no store before it (R295), and no older entry of its line held for its replay (R39). -/
def State.mayDrain (s : State) (a : Nat) (e : Entry) : Bool :=
  (s.actor a).mayDrain e &&
  !((heldEntries (s.svcOps a)).any fun o => o.acc.pos < e.acc.pos && o.place.line = e.place.line) && !s.acquiring a e.acc.pos && !s.winHeld a e &&
  !((s.actor a).storeQ.any fun o => o.uid < e.uid && e.sameBank o)

/-- A refused entry waits for its Acknowledge step with the cause (R256). -/
def State.refuse (s : State) (e : Entry) (cause : Nat) (race : List Byte) : State :=
  { s with done := s.done ++ [⟨e, cause, [], 0, .empty, race⟩] }

/-- DRAIN (R39): the entry goes to the overlay and its path, or to a peer-link queue. A store that finds W clear in a
present L1 copy fails there (R251). -/
def State.drain (s : State) (a uid : Nat) : State :=
  let x := s.actor a
  match x.storeQ.find? fun e => e.uid = uid with
  | none => s
  | some e =>
    if !s.mayDrain a e then s
    else
      let s := s.setActor a { x with storeQ := x.storeQ.filter fun o => o.uid != uid }
      let core := coreOf a
      match e.place, e.eff with
      | .glob asid va, .store data =>
        if s.eligible e.place && lowOf a ≤ 0x80 && !isDevActor a then
          match (s.core core).copy asid (va / 128) with
          | some k =>
            if !k.pw && e.page.isNone then s.refuse e cPermission []
            else
              let s := s.onCore core fun c => { c with overlay := c.overlay ++ [⟨uid, e.acc, asid, va, data⟩] }
              { s with path := s.path ++ [e] }
          | none =>
            let s := s.onCore core fun c => { c with overlay := c.overlay ++ [⟨uid, e.acc, asid, va, data⟩] }
            { s with path := s.path ++ [e] }
        else { s with path := s.path ++ [e] }
      | .win _ va, _ => { s with links := s.links ++ [(va / 2 ^ 40 % 256, e)] }
      | _, _ => { s with path := s.path ++ [e] }

/-- FORWARD (R39): the oldest entry of a peer-link queue moves to the destination's path, but in a LINK saddle (R437). -/
def State.forward (s : State) (dest : Nat) : State :=
  match s.links.find? fun p => p.1 = dest with
  | none => s
  | some (d, e) =>
    if s.linkDown then s else
    { s with links := s.links.erase (d, e), path := s.path ++ [e] }

/-! ## Apply (R39, R247, R276, R277, R307) -/

/-- The path an entry travels on: its core's, a device-level actor's, or a peer-link receiver's (R35, R36). -/
def Entry.pathKey (e : Entry) : Nat × Nat :=
  match e.place with
  | .win _ va => (2, va / 2 ^ 40 % 256)
  | _ => if isDevActor e.acc.actor then (1, e.acc.actor) else (0, coreOf e.acc.actor)

/-- An entry that comes before another on its path: for the same line (R39), or at one bank's atomic unit (R276). -/
def Entry.before (o e : Entry) : Bool :=
  (o.pathKey = e.pathKey && o.place.line = e.place.line && !e.sibling o) || (e.sameBank o && o.uid < e.uid)

/-- No older entry on the same path for the same line (R39); the path is held oldest first. -/
def pathFirst (e : Entry) : List Entry → Bool
  | [] => true
  | o :: l => if o.uid = e.uid then true else !o.before e && pathFirst e l

/-- An entry's turn on its path has come: none stands before it, and none before it that its home has refused awaits the
return of its fault, which takes the younger ones off the path with it (R39, R190). -/
def State.pathOpen (s : State) (e : Entry) : Bool :=
  pathFirst e s.path && !(s.done.any fun d => d.cause != 0 && d.e.uid < e.uid && d.e.before e)

/-- The new memory value of an integer atomic (R247, R248, R275). -/
def atopInt (op : Aop) (bits : Nat) (m v : Nat) : Nat :=
  let sg (n : Nat) : Int := if n ≥ 2 ^ (bits - 1) then (n : Int) - 2 ^ bits else n
  match op with
  | .add => (m + v) % 2 ^ bits
  | .smin => if sg v < sg m then v else m
  | .smax => if sg m < sg v then v else m
  | .zmin => Nat.min m v
  | .zmax | .pmax => Nat.max m v
  | .and => m &&& v
  | .or => m ||| v
  | .xor => m ^^^ v
  | .xchg => v

/-- The element format of a float atomic (R277). -/
def atFmt (k : Nat) : Fmt := match k with | 0 => fp32 | 1 => fp16 | _ => bf16

/-- The new memory value of an atomic for one thread (R154, R276, R277), with its flags. -/
def AtOp.eval (op : AtOp) (bytes : Nat) (m v c : Nat) : Nat × FFlags :=
  match op with
  | .int o => (atopInt o (8 * bytes) m v, 0)
  | .cas => (if m = c then v else m, 0)
  | .flt o k rm =>
    let f := atFmt k
    let mode := Rm.ofCode rm
    let x := FV.ofBits f false m
    let y := FV.ofBits f false v
    match o with
    | .add =>
      let (z, fl) := FV.add (mode = .rdn) x y
      let (r, g) := f.round { mode, t := srMix 0 0 } z
      (r, fl ||| g)
    | .min => (f.exact (FV.minMax false x y), x.sigFlag ||| y.sigFlag)
    | .max => (f.exact (FV.minMax true x y), x.sigFlag ||| y.sigFlag)

/-- The threads of an atomic applied in order: the memory value, the replies and the flags. -/
def rmwAll (op : AtOp) (bytes : Nat) : List RmwLane → Nat → Nat × List (Nat × DWord) × FFlags
  | [], m => (m, [], 0)
  | l :: ls, m =>
    let v := l.v.toNat % 2 ^ (8 * bytes)
    let c := l.c.toNat % 2 ^ (8 * bytes)
    let (m', fl) := op.eval bytes m v c
    let (r, reps, fl') := rmwAll op bytes ls m'
    (r, (l.lane, BitVec.ofNat 64 m) :: reps, fl ||| fl')

/-- The bytes an entry needs at its home. -/
def Entry.size (e : Entry) : Nat :=
  match e.eff with | .store d => d.length | .rmw _ n _ => n | .readRec _ _ => 128

/-- What an entry needs of its page. -/
def Entry.need (e : Entry) : Need := match e.eff with | .store _ => .wr | .rmw _ _ _ => .rw | .readRec _ _ => .rd

/-- Where an entry is served; a store whose check has passed keeps its translation (R251). -/
def State.entryLoc (s : State) (e : Entry) : Except Nat Loc :=
  match e.page with
  | some p => .ok (.phys p)
  | none => s.loc e.acc.actor e.need e.place

/-- The judgement of a write or atomic at its Apply step (R307, R309): by its actor's view table and vector as they stand at that step
(DESIGN CHOICE, log 107). -/
def State.judgeWrite (s : State) (e : Entry) (va : Nat) (w r : Stamp) : Option (Nat × List Byte) :=
  let a := e.acc
  if a.mode = 1 || isDevActor a.actor then none
  else
    let x := s.actor a.actor
    let at_ := match e.eff with | .rmw _ _ _ => true | _ => false
    let kind := if lowOf a.actor > 0x80 then 5 else if at_ then 3 else 2
    match raceClass x ⟨a.actor, a.sc, a.acq || a.rel || at_, at_⟩ true w r with
    | some c => some (c, raceRecord x a va e.size kind c w r)
    | none => none

/-- The home bytes of an entry changed, with its replies and flags. -/
def State.effect (s : State) (e : Entry) (loc : Loc) : State × List (Nat × DWord) × FFlags :=
  match e.eff with
  | .store data => (s.locWrite loc data, [], 0)
  | .rmw op n lanes =>
    let (m, reps, fl) := rmwAll op n lanes (leNat (s.locBytes loc n))
    (s.locWrite loc (leBytes n m), reps, fl)
  | .readRec _ _ => (s, [], 0)

/-- The last writer of a Cairn line recorded (R308). -/
def setWriter (w : Writer) (l : List Writer) : List Writer := w :: l.filter fun p => p.line != w.line

/-- A counter of an address space that an agent watches has reached its target in a line that an Apply step has written. -/
def State.reachedIn (s : State) (actor asid : Nat) (loc : Loc) (va : DWord) (target : Nat) : Bool :=
  match decodeEa (coreOf actor) asid va with
  | .ok p =>
    match s.loc actor .rd p with
    | .ok l => l.sameLine loc && decide (target ≤ leNat (s.locBytes l 8))
    | .error _ => false
  | .bad _ => false

/-- A Spur parked on LJOIN reads its counter again (R122). -/
def State.spurWatch (s : State) (loc : Loc) (actor asid : Nat) (p : Spur) : Spur :=
  match p.run, p.watch with
  | .parkLjoin, some (va, target) => { p with met := p.met || s.reachedIn actor asid loc va target.toNat }
  | _, _ => p

/-- A queue that waits at CWAT reads its counter again (R388). -/
def State.queueWatch (s : State) (loc : Loc) (actor asid : Nat) (x : Queue) : Queue :=
  match x.pend with
  | some (.cwat va target) =>
    let held := s.drained? && va.toNat < 2 ^ 56
    { x with met := x.met || (!held && s.reachedIn actor asid loc va target.toNat) }
  | _ => x

/-- A core's watchers. -/
def State.coreWatch (s : State) (loc : Loc) (core : Nat) (c : Core) : Core :=
  match c.launch with
  | none => c
  | some l =>
    { c with
      spur := s.spurWatch loc (spurActor core) l.asid c.spur
      queues := c.queues.map fun p => (p.1, s.queueWatch loc (queueActor core p.1) l.asid p.2) }

/-- After an Apply step to a line, every watcher reads its counter again (R122, R388); for a Spur that has been swapped out the
front end does (R123). -/
def State.watchers (s : State) (loc : Loc) : State :=
  { s with
    cores := s.cores.map fun p => (p.1, s.coreWatch loc p.1 p.2)
    images := s.images.map fun i =>
      if i.saved.kind != 2 then i
      else
        { i with saved := { i.saved with core := { i.saved.core with
            spur := s.spurWatch loc frontActor (match i.saved.core.launch with | some l => l.asid | none => 0) i.saved.core.spur } } } }

/-- A Spur's store whose last verdict has been given at its home holds nothing back any more; one to the domain window awaits its
acknowledgement (R143). -/
def State.storeVerdict (s : State) (e : Entry) : State :=
  match e.eff, e.place with
  | .store _, .win _ _ => s
  | .store _, _ => s.spurRelease e.acc.actor e.acc.pos
  | _, _ => s

/-- An entry meets damage that its write must not pass over (R263, R289, R319). A store that has passed its check goes on. -/
def State.entryBad (s : State) (e : Entry) (loc : Loc) : Bool :=
  e.page.isNone &&
  match e.eff with
  | .store d => if d.length < 128 then s.damaged loc else s.wholeBad loc
  | _ => s.damaged loc

/-- The AT bit that an entry stamps: an atomic's, but the command front end stamps as stores do (R307). -/
def Entry.at_ (e : Entry) : Bool := match e.eff with | .rmw _ _ _ => !isDevActor e.acc.actor | _ => false

/-- An applied entry awaits its Acknowledge step, and the watchers of its line read again. -/
def State.applied (s : State) (e : Entry) (loc : Loc) (st : Stamp) : State :=
  let (s, reps, fl) := s.effect e loc
  (({ s with done := s.done ++ [⟨e, 0, reps, fl, st, []⟩] } : State).storeVerdict e).watchers loc

/-- A Cairn line's writer stamp replaced, its reader stamp emptied, and the write remembered (R307, R308). -/
def State.stampWrite (s : State) (phys : Nat) (st : Stamp) (a : Acc) (va size : Nat) : State :=
  let s := s.setSidecar phys st .empty
  { s with writers := setWriter ⟨phys / 128, a, va, size⟩ s.writers }

/-- The sidecar of a Cairn line can be read (R319). -/
def State.sidecarOk (s : State) (p : Page) : Bool := p.k && !s.damage.contains (.sidecar (p.phys / 128))

/-- An entry applied at its home, or refused there (R39, R256, R289, R307, R314): a race that traps ranks before damage (R141, R289),
and nothing is logged of an access that damage refuses. A store to the domain window that is served here stamps with the ID of the
peer-link receiver, which is never judged (R307, R426), with the issuing actor's clock and scope and no vector (DESIGN CHOICE,
log 108). -/
def State.applyAt (s : State) (e : Entry) (loc : Loc) : State :=
  let bad := s.entryBad e loc
  match loc, e.place with
  | .phys p, .glob _ va =>
    if !p.k then (if bad then s.refuse e cMemError [] else s.applied e loc .empty)
    else
      let w := s.writerStamp p.phys
      let j := if s.sidecarOk p then s.judgeWrite e va w (s.readerStamp p.phys) else none
      match s.afterJudge e.acc false j with
      | none => s.refuse e cRace (match j with | some (_, rec) => rec | none => [])
      | some t =>
        if bad then s.refuse e cMemError []
        else
          let st := e.acc.stamp e.at_
          let t := if e.at_ && e.acc.acq then t.onActor e.acc.actor fun x => x.gainStamp e.acc.actor w else t
          (t.applied e loc st).stampWrite p.phys st e.acc va e.size
  | .phys p, .win _ va =>
    if bad then s.refuse e cMemError []
    else
      let a := { e.acc with actor := peerActor, vec := 0 }
      let s := s.applied e loc .empty
      if p.k then s.stampWrite p.phys (a.stamp false) a va e.size else s
  | _, _ => if bad then s.refuse e cMemError [] else s.applied e loc .empty

/-- APPLY (R39): the entry takes effect at its home, where no other engine owns the line and, in scratch, the
presence bit is set and no launch is being restored on the target core (R23, R245). -/
def State.apply (s : State) (uid : Nat) : State :=
  match s.path.find? fun e => e.uid = uid with
  | none => s
  | some e =>
    if !s.pathOpen e || e.isRecord || s.restoring e.acc.actor e.place then s
    else
      let gone : State := { s with path := s.path.filter fun o => o.uid != uid }
      match s.entryLoc e with
      | .error c => gone.refuse e c []
      | .ok loc =>
        if s.ownedByOther e.acc.actor loc || s.dramHeld loc || s.bitWaits (coreOf e.acc.actor) e.place then s
        else gone.applyAt e loc

/-- READ_RECORD at its home (R308); a damaged sidecar is not used (R319). -/
def State.applyRecord (s : State) (uid : Nat) : State :=
  match s.path.find? fun e => e.uid = uid with
  | none => s
  | some e =>
    if !s.pathOpen e then s
    else
      match e.eff, e.place with
      | .readRec rd wr, .glob asid va =>
        let gone : State := { s with path := s.path.filter fun o => o.uid != uid }
        match s.page asid va with
        | some p =>
          if p.k && !s.damage.contains (.sidecar (p.phys / 128)) then
            gone.applyRead p.phys e.acc rd wr (s.writers.find? fun q => q.line = p.phys / 128)
          else gone
        | none => gone
      | _, _ => s

/-! ## Acknowledge (R39, R190, R256) -/

/-- The overlay bytes of a store written into a copy. -/
def Copy.absorb (k : Copy) (o : OvStore) (st : Stamp) : Copy :=
  { k with
    bytes := (List.range 128).map fun i =>
      if o.va % 128 ≤ i && i < o.va % 128 + o.data.length then o.data.getD (i - o.va % 128) 0 else k.bytes.getD i 0
    wst := if k.k then st else k.wst }

/-- The view at an Acknowledge step: an applied store's overlay bytes move into a present copy, a refused one's are
dropped; an atomic drops the copy (R39, R256). -/
def Core.ackView (c : Core) (d : Done) : Core :=
  let ov := c.overlay.find? fun o => o.uid = d.e.uid
  let c1 := { c with overlay := c.overlay.filter fun o => o.uid != d.e.uid }
  match d.e.eff, ov, d.e.place with
  | .store _, some o, _ =>
    if d.cause = 0 then
      { c1 with copies := updFirst (fun k => k.asid = o.asid && k.line = o.va / 128) (·.absorb o d.stamp) c1.copies }
    else c1
  | .rmw _ _ _, _, .glob asid va => c1.dropCopy asid (va / 128)
  | _, _, _ => c1

/-- A younger store or atomic of the actor that a refused store keeps behind it: one to its line (R39, R190). -/
def Entry.holdsEntry (e o : Entry) : Bool :=
  (match e.eff with | .store _ => true | _ => false) && o.acc.actor = e.acc.actor && !o.isRecord && decide (o.uid > e.uid) &&
  o.place.line = e.place.line

/-- A thread's part of a younger load of the actor that a refused entry keeps behind it: for a store one of its line (R190), for
an atomic one that overlaps it, since it performs only after the acknowledgement (R40). -/
def Entry.holdsLoad (e : Entry) (l : Load) (t : LoadLane) : Bool :=
  decide (l.acc.pos > e.acc.pos) &&
  match e.eff with
  | .rmw _ n _ => t.place.overlaps l.bytes e.place n
  | _ => t.place.line = e.place.line

/-- Younger operations of the actor kept behind a refused store or atomic, to be performed after it (R40, R190). -/
def State.heldBehind (s : State) (e : Entry) : List LateOp :=
  let x := s.actor e.acc.actor
  let st := (s.path ++ s.links.map Prod.snd ++ x.storeQ).filter e.holdsEntry
  let ld := x.loads.filterMap fun l =>
    let ls := l.lanes.filter (e.holdsLoad l)
    if ls.isEmpty then none else some (RepOp.load { l with lanes := ls })
  (st.map fun o => ⟨.entry o, 0, [], false, [], 0, 0⟩) ++ (ld.map fun l => ⟨l, 0, [], false, [], 0, 0⟩)

/-- The machine without the operations held behind a refused entry. -/
def State.dropHeld (s : State) (e : Entry) : State :=
  let keep (o : Entry) : Bool := !e.holdsEntry o
  let n := ((s.path ++ s.links.map Prod.snd ++ (s.actor e.acc.actor).storeQ).filter e.holdsEntry).length
  let s := { s with path := s.path.filter keep, links := s.links.filter fun p => keep p.2 }
  let gone := (s.actor e.acc.actor).storeQ.filter fun o => !keep o
  let s := s.onCore (coreOf e.acc.actor) fun c =>
    { c with overlay := c.overlay.filter fun o =>
        !((match e.eff with | .store _ => true | _ => false) && o.acc.actor = e.acc.actor && o.uid > e.uid &&
          Place.line (.glob o.asid o.va) = e.place.line) }
  s.onActor e.acc.actor fun x =>
    { x with
      storeQ := x.storeQ.filter fun o => !gone.contains o
      unacked := x.unacked - n
      loads := (x.loads.map fun l =>
        { l with lanes := l.lanes.filter fun t => !e.holdsLoad l t }).filter
          fun l => !l.lanes.isEmpty }

/-- A store that has been acknowledged leaves every observed set (R40). -/
def State.unobserve (s : State) (uid : Nat) : State :=
  { s with actors := s.actors.map fun p => (p.1, { p.2 with observed := p.2.observed.filter (· != uid) }) }

/-- ACKNOWLEDGE (R39): the count falls, the overlay bytes move, a reply is delivered; a fault returns in its place. An acquire
atomic performs at its home, and the view's copies are dropped here, where its reply ends the wait of the younger accesses
(R41; log 77). -/
def State.acknowledge (s : State) (uid : Nat) : State :=
  match s.done.find? fun d => d.e.uid = uid with
  | none => s
  | some d =>
    let e := d.e
    let a := e.acc.actor
    let s := { s with done := s.done.filter fun o => o.e.uid != uid }
    let s := s.onActor a fun x => { x with unacked := x.unacked - 1 }
    let s := if isDevActor a then s else s.onCore (coreOf a) fun c => c.ackView d
    if d.cause = 0 then
      let s := if e.stores then (s.unobserve uid).spurPaid a else s.unobserve uid
      let s := if e.acc.acq then
          (match Scope.of? e.acc.sc with | some sc => s.acquire (coreOf a) sc | none => s) else s
      let s := s.raise a e.acc.pos d.flags
      let s := s.deliver a e.acc.pos e.dest (d.reply.map fun p => (p.1, p.2.toNat))
      s.spurRelease a e.acc.pos
    else
      let held := if isTgActor a then s.heldBehind e else []
      let s := s.fault a d.cause (e.place.ea (coreOf a)) d.race (.entry e)
      if held.isEmpty then s
      else (s.dropHeld e).onTg (coreOf a) (lowOf a) fun t => { t with late := t.late ++ held }

/-! ## Fences (R43) -/

/-- The completion condition of a fence (R43). -/
def State.fenceDone (s : State) (a : Nat) (f : Fence) : Bool :=
  match f.kind with
  | .acq => s.loadsDone a f.pos
  | .rel | .ar => s.releaseReady a f.pos f.sc
  | .cum =>
    s.releaseReady a f.pos f.sc &&
    (match f.sc with
      | .tg | .core => true
      | _ => (s.actor a).observed.isEmpty)

/-- FENCE_COMPLETE (R43). -/
def State.fenceComplete (s : State) (a pos : Nat) : State :=
  match (s.actor a).fences.find? fun f => f.pos = pos with
  | none => s
  | some f =>
    if !s.fenceDone a f then s
    else
      let s := s.onActor a fun x => { x with fences := x.fences.filter fun g => g.pos != pos }
      if f.kind = .rel then s else s.acquire (coreOf a) f.sc

/-! ## Issue (R39) -/

/-- A load joins the pending loads. -/
def State.issueLoad (s : State) (l : Load) : State := s.onActor l.acc.actor fun x => { x with loads := x.loads ++ [l] }

/-- A store or atomic joins the tail of the store queue. -/
def State.issueEntry (s : State) (acc : Acc) (place : Place) (lanes : Mask) (eff : Eff) (dest : Option Dest)
    (page : Option Page) : State :=
  let e : Entry := { uid := s.nextUid, acc, place, lanes, eff, dest, page }
  { (s.onActor acc.actor fun x => { x with storeQ := x.storeQ ++ [e], unacked := x.unacked + 1 }) with
    nextUid := s.nextUid + 1 }

/-- A fence becomes incomplete. -/
def State.issueFence (s : State) (a : Nat) (f : Fence) : State :=
  s.onActor a fun x => { x with fences := x.fences ++ [f] }

/-- A held reply given to its destination at a resume (R194, R297). -/
def State.writeHeld (s : State) (o : LateOp) : State :=
  match o.op with
  | .entry e => (s.raise e.acc.actor e.acc.pos o.flags).deliver e.acc.actor e.acc.pos e.dest (o.reply.map fun p => (p.1, p.2.toNat))
  | .load l => s.deliver l.acc.actor l.acc.pos (some l.dest) (o.reply.map fun p => (p.1, p.2.toNat))

end Sys2Proof.Machine
end

