-- ==== Sys2Proof/Machine/Issue.lean ====
section
/-! DEFINITION. How a meaning meets the agent that issues it: the wrong engine, precise traps, guards, and the shapes that
lane and Spur instructions share (R72, R90, R139, R173, R189, R199). -/

namespace Sys2Proof.Machine

/-- What a meaning answers. -/
abbrev Out := Host.Outcome State Fault Refusal

/-! ## Traps of a meaning -/

/-- A precise trap of a group's instruction at its own PC. -/
def State.tgStop (s : State) (c k : Nat) (arm : Bool) (units cause : Nat) (lvec addr : DWord) (carea : List Byte) : State :=
  let pc := (s.tg c k).armPc arm
  s.tgTrap c k arm { cause, fpc := pc, pc, units, lvec, addr, carea }

/-- A precise trap for a whole-TG cause. -/
def State.tgCause (s : State) (c k : Nat) (arm : Bool) (units cause : Nat) : State := s.tgStop c k arm units cause 0 0 []

/-- The highest-ranking cause of some threads' causes (R189). -/
def topCause (l : List (Nat × Nat)) : Nat :=
  l.foldl (fun b p => if b = 0 || causeRank p.2 < causeRank b then p.2 else b) 0

/-- A precise trap for per-lane causes; `addr` gives the address of a thread (R189, R193). -/
def State.tgLanes (s : State) (c k : Nat) (arm : Bool) (units : Nat) (l : List (Nat × Nat)) (addr : Nat → DWord) : State :=
  let top := topCause l
  let low := match l.find? fun p => p.2 = top with | some p => p.1 | none => 0
  s.tgStop c k arm units top (laneVec l) (addr low) []

/-- The engine that has no such instruction takes WRONG_ENGINE; no agent takes nothing (R90). -/
def wrongEngine (units : Nat) (s : State) : Out :=
  match s.who with
  | .spur c => .next (s.spurTrap c cWrongEngine 0)
  | .tg c k arm => .next (s.tgCause c k arm units cWrongEngine)
  | .queue _ _ | .none => .next s

/-- A lane instruction's effect on its group's state. -/
def onLane (units : Nat) (s : State) (f : Nat → Nat → Bool → State) : Out :=
  match s.who with
  | .tg c k arm => .next (f c k arm)
  | _ => wrongEngine units s

/-- A Spur instruction's effect. -/
def onScalar (units : Nat) (s : State) (f : Nat → State) : Out :=
  match s.who with
  | .spur c => .next (f c)
  | _ => wrongEngine units s

/-! ## Finishing -/

/-- The group's next PC. -/
def State.tgSkip (s : State) (c k : Nat) (arm : Bool) (units : Nat) : State :=
  s.tgNext c k arm ((s.tg c k).armPc arm + BitVec.ofNat 64 (4 * units))

/-- The group's registers replaced and the instruction done. -/
def State.tgDone (s : State) (c k : Nat) (arm : Bool) (units : Nat) (t : Tg) : State :=
  (s.setTg c k t).tgSkip c k arm units

/-- The Spur's instruction done, at the next PC. -/
def State.spurSkip (s : State) (c units : Nat) : State :=
  s.spurNext c ((s.core c).spur.pc + BitVec.ofNat 64 (4 * units))

/-- The Spur changed and its instruction done. -/
def State.spurDone (s : State) (c units : Nat) (f : Spur → Spur) : State := (s.onSpur c f).spurSkip c units

/-! ## Shapes of lane instructions -/

/-- An integer lane instruction (R173, R198, R201): `bad` is a thread's cause or 0, `f` its result in the low bits, and
`ext` extends a uniform result to 64 bits. -/
def laneCalc (h : Hd) (units : Nat) (wide : Bool) (d : Dst) (bad : Tg → Nat → Nat) (f : Tg → Nat → DWord)
    (ext : DWord → DWord) (s : State) : Out :=
  onLane units s fun c k arm =>
    let t := s.tg c k
    let m := if h.u then maskOf fun i => t.leadGuard arm h.pred h.pn && i = t.lead arm else t.contrib arm h.pred h.pn
    let errs := (lanesOf m).filterMap fun i => if bad t i = 0 then none else some (i, bad t i)
    if !errs.isEmpty then s.tgLanes c k arm units errs fun _ => 0
    else if h.u then
      s.tgDone c k arm units (if m = 0 then t else t.putUniform d (ext (f t (t.lead arm))))
    else s.tgDone c k arm units (t.putLanes wide (s.nextPos (tgActor c k)) m d (f t))

/-- The cause of no thread. -/
def noCause (_ : Tg) (_ : Nat) : Nat := 0

/-- A float lane instruction (R60, R63, R65, R207). `sr` says whether it rounds under SR, `disc` is the discard word of an
element of a thread, and `f` the result and flags of a thread given the neighbour hash of each element. -/
def laneFloat (h : Hd) (units : Nat) (wide : Bool) (d : Dst) (sr : DWord → Bool) (disc : DWord → Tg → Nat → Nat → Nat)
    (f : DWord → Tg → (Nat → Nat) → Nat → DWord × FFlags) (s : State) : Out :=
  onLane units s fun c k arm =>
    let t := s.tg c k
    let m := t.contrib arm h.pred h.pn
    let fp := t.fpctl
    if m != 0 && sr fp && !s.hasSrnd then
      s.tgLanes c k arm units ((lanesOf m).map fun i => (i, cUnitAbsent)) fun _ => 0
    else
      let dw (e i : Nat) : Nat := if m.getLsbD i then disc fp t e i else 0
      let mix (i e : Nat) : Nat := srMix (dw e ((i + 15) % 16)) (dw e ((i + 1) % 16))
      let r (i : Nat) : DWord × FFlags := f fp t (mix i) i
      let fl := (lanesOf m).foldl (fun x i => x ||| (r i).2) 0
      s.tgDone c k arm units
        { t.putLanes wide (s.nextPos (tgActor c k)) m d (fun i => (r i).1) with fpctl := fpRaise fp fl }

/-! ## Shapes of Spur instructions -/

/-- A Spur instruction with a result (R139). -/
def spurCalc (h : Hd) (d : Dst) (f : Spur → DWord) (s : State) : Out :=
  onScalar (hdLen h) s fun c =>
    let p := (s.core c).spur
    s.spurDone c (hdLen h) fun q => if p.guard h then q.put d (f p) else q

end Sys2Proof.Machine
end

