-- ==== Sys2Proof/Machine/Barrier.lean ====
section
/-! DEFINITION. Core barriers, scope barriers, the BARM rendezvous and the spawning of gangs
(R15, R20, R158, R183 to R187, R235 to R239, R302 to R304, R453). -/

namespace Sys2Proof.Machine

/-! ## Ties (R22, R119, R283) -/

/-- In one local cycle agents go in ascending order: one with a higher number has already gone in this cycle, by the last cycle
plus 1 and number. -/
def tieLost (now id : Nat) (last : Nat × Nat) : Bool := last.1 = now + 1 && decide (id < last.2)

/-! ## Core barriers (R183 to R185, R453) -/

/-- A core barrier. -/
def Core.bar (c : Core) (b : Nat) : Bar := mget {} c.bars b
/-- The core with a barrier replaced. -/
def Core.setBar (c : Core) (b : Nat) (x : Bar) : Core := { c with bars := mset {} c.bars b x }
/-- A queue. -/
def Core.queue (c : Core) (q : Nat) : Queue := mget {} c.queues q
/-- The core with a queue replaced. -/
def Core.setQueue (c : Core) (q : Nat) (x : Queue) : Core := { c with queues := mset {} c.queues q x }
/-- A group's lag at a barrier. -/
def Tg.lagAt (t : Tg) (b : Nat) : Nat := mget 0 t.lag b

/-- The cluster of a core, with its registers. -/
def State.cluster (s : State) (c : Nat) : Cluster := mget {} s.clusters c
/-- The state with a cluster changed. -/
def State.onCluster (s : State) (c : Nat) (f : Cluster → Cluster) : State :=
  { s with clusters := mset {} s.clusters c (f (s.cluster c)) }

/-- WAVE and GAP of sys.didt (R452). -/
def Cluster.wave (c : Cluster) : Nat := (c.didt.extractLsb' 0 8).toNat
/-- GAP. -/
def Cluster.gap (c : Cluster) : Nat := (c.didt.extractLsb' 8 8).toNat

/-- A group after a completed phase: its lag falls and it keeps the other arrivers' entries for its wait (R184, R303). -/
def Tg.absorb (t : Tg) (b : Nat) (self : Nat) (pubs : List (ViewEnt × BitVec 18)) : Tg :=
  if t.lagAt b = 0 then t
  else
    { t with
      lag := mset 0 t.lag b (t.lagAt b - 1)
      gains := t.gains ++ (pubs.filter fun p => p.1.actor != self).map fun p => (b, p) }

/-- The slots that a completion releases: waiting at the barrier with no lag left, in ascending actor ID (R185). -/
def Core.released (c : Core) (b : Nat) : List Nat :=
  (List.range 128).filter fun k => let t := c.tg k; t.waitBar = some b && t.lagAt b = 0

/-- Released groups in waves (R453). -/
def Core.waves (c : Core) (b now wave gap : Nat) : List Nat → Nat → Core
  | [], _ => c
  | k :: l, i =>
    let t := { c.tg k with waitBar := none, wakeAt := now + gap * (i / wave) }
    Core.waves { c with tgs := mset {} c.tgs k (if i / wave = 0 then t else { t with wave := some b }) } b now wave gap l (i + 1)

/-- One completed phase (R184). -/
def Core.completePhase (c : Core) (core b now wave gap : Nat) : Core :=
  let x := c.bar b
  let c := c.setBar b { x with phase := !x.phase, cur := x.next, next := 0, pubs := x.nextPubs, nextPubs := [] }
  let tgs : NMap Tg := c.tgs.map fun p => (p.1, p.2.absorb b (tgActor core p.1) x.pubs)
  let qs : NMap Queue := c.queues.map fun p => (p.1, { p.2 with lag := mset 0 p.2.lag b (mget 0 p.2.lag b - 1) })
  let c := { c with tgs := tgs, queues := qs }
  c.waves b now wave gap (c.released b) 0

/-- Phases completed while CUR equals EXP. -/
def Core.completePhases (c : Core) (core b now wave gap : Nat) : Nat → Core
  | 0 => c
  | n + 1 =>
    if (c.bar b).cur = (c.bar b).exp then (c.completePhase core b now wave gap).completePhases core b now wave gap n else c

/-- An arrival at a core barrier by an agent with a lag (R184): the cause of its failure, or the core with the arrival
counted and the phases it completes. `setLag` writes the agent's lag. -/
def State.arrive (s : State) (core b e lag : Nat) (actor : Nat) (setLag : Nat → Core → Core) : Except Nat State :=
  let x := (s.core core).bar b
  let x := if x.cur = 0 && x.next = 0 then { x with exp := e } else x
  if e != x.exp then .error cBadOperand
  else if lag ≥ 2 then .error cBarrierLap
  else
    let pub := s.pubEntry actor
    let x := if lag = 0 then { x with cur := x.cur + 1, pubs := x.pubs ++ [pub] }
      else { x with next := x.next + 1, nextPubs := x.nextPubs ++ [pub] }
    let cl := s.cluster (clusterOf core)
    let s := s.onCore core fun c =>
      ((setLag (lag + 1) c).setBar b x).completePhases core b (s.cyclesOf core) (Nat.max 1 cl.wave) cl.gap 2
    .ok (s.publish actor)

/-- A group's arrival. -/
def State.tgArrive (s : State) (core slot b e : Nat) : Except Nat State :=
  s.arrive core b e ((s.tg core slot).lagAt b) (tgActor core slot) fun n c =>
    { c with tgs := mset {} c.tgs slot { c.tg slot with lag := mset 0 (c.tg slot).lag b n } }

/-- The acquire of a finished barrier wait: the entries of its phases are gained (R237, R303). -/
def State.barGain (s : State) (core slot b : Nat) : State :=
  let t := s.tg core slot
  let s := (t.gains.filter fun p => p.1 = b).foldl (fun s p => s.gainEntry (tgActor core slot) p.2) s
  s.onTg core slot fun t => { t with gains := t.gains.filter fun p => p.1 != b, waitBar := none, arrived := false }

/-! ## Scope barriers (R187, R239, R304) -/

/-- The ordering scope of an SBAR. -/
def scScope (sc : Sc) : Scope := match sc with | .core => .core | .clu => .clu | .dev => .dev
/-- The code of an SBAR's scope. -/
def scCode (sc : Sc) : Nat := match sc with | .core => 1 | .clu => 2 | .dev => 3
/-- The instance of a scope that holds a core. -/
def scInst (sc : Sc) (core : Nat) : Nat := match sc with | .core => core | .clu => clusterOf core | .dev => 0

/-- The scope barrier of an instance and address space. -/
def State.sbar (s : State) (sc inst asid : Nat) : Sbar :=
  match s.sbars.find? fun b => b.sc = sc && b.inst = inst && b.asid = asid with
  | some b => b
  | none => ⟨sc, inst, asid, 0, [], 0⟩

/-- The state with a scope barrier replaced. -/
def State.setSbar (s : State) (b : Sbar) : State :=
  { s with sbars := b :: s.sbars.filter fun o => !(o.sc = b.sc && o.inst = b.inst && o.asid = b.asid) }

/-- The barrier index that a number of completed rounds gives: modulo 64 (R304). -/
def roundIndex (n : Nat) : BitVec 6 := BitVec.ofNat 6 n

/-- A barrier index set to a round count (R304): not moved back where an acquire carried it there already. -/
def setIndex (sc : Nat) (n : BitVec 6) (x : Actor) : Actor :=
  match sc with
  | 1 => { x with bc := n }
  | 2 => { x with bl := n }
  | _ => { x with bd := n }

/-- An arrival at a scope barrier (R239); `none` is a count that disagrees. The arrival that fills the count ends the round:
the count of completed rounds rises, and every participant's wait is over (R187, R304). -/
def State.sbarArrive (s : State) (sc inst asid e actor : Nat) : Option State :=
  let b := s.sbar sc inst asid
  let b := if b.members.isEmpty then { b with exp := e } else b
  if b.exp != e then none
  else
    let b := { b with members := b.members ++ [actor] }
    let s := s.publish actor
    some (s.setSbar (if b.members.length = b.exp then { b with members := [], exp := 0, rounds := b.rounds + 1 } else b))

/-! ## Gangs (R15, R177) -/

/-- The member slots of a group's gang. -/
def Tg.gang (t : Tg) : List Nat := (List.range t.width).map (t.base + ·)

/-- A group that has threads left. -/
def Tg.alive (t : Tg) : Bool := t.used && t.live != 0

/-- A group that holds a slot is of a group's gang: a slot whose member has ended may have gone to another gang (R171). -/
def Tg.mate (t u : Tg) : Bool := u.used && u.base = t.base && u.width = t.width && u.order = t.order

/-- Live members of a group's gang. -/
def Core.liveGang (c : Core) (t : Tg) : List Nat := t.gang.filter fun k => (c.tg k).alive && t.mate (c.tg k)

/-! ## Placing gangs (R158, R171, R351) -/

/-- A slot whose group has ended is free once its stores and atomics have been acknowledged (R171). -/
def State.slotFree (s : State) (core slot : Nat) : Bool :=
  let t := s.tg core slot
  !t.used || (t.live = 0 && t.svc.isNone && t.late.isEmpty && !s.busy (tgActor core slot))

/-- Pool slots per partition, and registers of each (R351). -/
def Csrs.poolSlots (c : Csrs) : Nat := (c.hpool.extractLsb' 0 4).toNat
/-- HREGS. -/
def Csrs.hregs (c : Csrs) : Nat := (c.hpool.extractLsb' 16 8).toNat

/-- A slot of a partition is a pool slot. -/
def Csrs.isPool (c : Csrs) (slot : Nat) : Bool := slot % 16 ≥ 16 - c.poolSlots

/-- Free spawn slots of a partition. -/
def State.freeSpawn (s : State) (core part : Nat) : List Nat :=
  ((List.range 16).map (16 * part + ·)).filter fun k => !(s.core core).csr.isPool k && s.slotFree core k

/-- Main-file registers that a partition's spawned groups hold, and its pool reserves. -/
def State.usedRegs (s : State) (core part : Nat) : Nat :=
  let c := s.core core
  ((List.range 16).map (16 * part + ·)).foldl (fun n k =>
    n + (if c.csr.isPool k then 16 * c.csr.hregs else if s.slotFree core k then 0 else 16 * (c.tg k).regs)) 0

/-- The lowest free aligned group of a width in a partition, of the slots listed. -/
def alignedIn (free : List Nat) (part width : Nat) : Option Nat :=
  ((List.range (16 / width)).map fun g => 16 * part + g * width).find? fun b =>
    (List.range width).all fun i => free.contains (b + i)

/-- The partition with the most free spawn slots, the lowest on ties (R158). -/
def State.anyPart (s : State) (core : Nat) : Nat :=
  (List.range 8).foldl (fun b p => if (s.freeSpawn core p).length > (s.freeSpawn core b).length then p else b) 0

/-- Where a gang would be placed (R158); `part` is none for any. -/
def State.findGang (s : State) (core width : Nat) (part : Option Nat) : Option Nat :=
  let p := part.getD (s.anyPart core)
  match alignedIn (s.freeSpawn core p) p width, (s.core core).launch with
  | some b, some l => if s.usedRegs core p + width * 16 * l.regs ≤ 8192 then some b else none
  | _, _ => none

/-- A gang width's number of groups. -/
def widN (w : Wid) : Nat := match w with | .w16 => 1 | .w32 => 2 | .w64 => 4

/-- The Cairn state of a started actor (R302): the spawner's vector, an empty view, and the published entry. -/
def State.startActor (s : State) (a spawner : Nat) (pub : ViewEnt × BitVec 18) : State :=
  let v := s.actor spawner
  s.onActor a fun x =>
    ({ x with bc := v.bc, bl := v.bl, bd := v.bd, view := [], lossy := false, ovr := 0, spent := false }.gain pub.1).adopt a
      pub.1.actor (pub.2.extractLsb' 12 6) (pub.2.extractLsb' 6 6) (pub.2.extractLsb' 0 6)

/-- The gang placed and started (R158): `pub` is the Spur's entry that the spawning instruction published. -/
def State.startGang (s : State) (core base width : Nat) (pc arg spc seq : DWord) (pub : ViewEnt × BitVec 18) : State :=
  let c := s.core core
  let regs := match c.launch with | some l => l.regs | none => 8
  let s := s.onCore core fun c => { c with spawnNo := c.spawnNo + 1 }
  (List.range width).foldl (fun s i =>
    let t : Tg := {
      used := true, live := 0xFFFF, path := 0xFFFF, pc, regs, g := mset 0 (mset 0 [] 0 arg) 1 (BitVec.ofNat 64 i)
      fpctl := fpClear c.spur.fpctl, width, base, order := c.spawnNo + 1, spc, seq, halted := c.haltAll
      readySince := s.cyclesOf core }
    (s.setTg core (base + i) t).startActor (tgActor core (base + i)) (spurActor core) pub) s

/-! ## Fork sets (R20, R112) -/

/-- A member leaves its fork set, with the status it ends with and the entry that RDZV gains (R20, R160, R303). -/
def Spur.memberDone (p : Spur) (m : Member) (status : DWord) (pub : ViewEnt × BitVec 18) : Spur :=
  { p with sets := p.sets.map fun f =>
      if f.running.contains m then
        { f with
          running := f.running.erase m
          status := if f.status = 0 || (status != 0 && status.toNat / 2 ^ 32 < f.status.toNat / 2 ^ 32) then
            (if status = 0 then f.status else status) else f.status
          gains := f.gains ++ [pub] }
      else f }

end Sys2Proof.Machine
end

