-- ==== Sys2Proof/Machine/MemAccess.lean ====
section
/-! DEFINITION. The lane loads, stores and atomics, and the ordering instructions (R23, R41, R43, R268 to R281, R287, R288). -/

namespace Sys2Proof.Machine

/-! ## Addresses (R269, R271) -/

/-- An address as the trap frame records it, with what it names. -/
structure Addr where
  val : DWord
  ans : EaAns
  deriving DecidableEq, Repr

/-- The address of a thread that takes a trap: a scratch address word that names a byte is recorded as its 64-bit form. -/
def Addr.seen (x : Addr) (core : Nat) : DWord := match x.ans with | .ok p => p.ea core | .bad _ => x.val

/-- A 64-bit effective address. -/
def State.eaOf (s : State) (core : Nat) (ea : DWord) : Addr := ⟨ea, decodeEa core (s.asidOf core) ea⟩

/-- A 64-bit effective address of a form that takes no scratch address (R269). -/
def State.homeEa (s : State) (core : Nat) (ea : DWord) : Addr :=
  match s.eaOf core ea with
  | ⟨v, .ok (.scr _ _)⟩ => ⟨v, .bad cScratchRange⟩
  | x => x

/-- The global form: A plus the sign-extended B. -/
def State.globAddr (s : State) (core : Nat) (h : Hd) (a b : Src) (t : Tg) (i : Nat) : Addr :=
  s.eaOf core (t.src64 h.lit i a + (t.src32 h.lit i b).signExtend 64)

/-- The scratch form: A plus B modulo 2^32. -/
def scrAddr (core : Nat) (h : Hd) (a b : Src) (t : Tg) (i : Nat) : Addr :=
  let sa := t.src32 h.lit i a + t.src32 h.lit i b
  ⟨sa.setWidth 64, decodeSa core sa⟩

/-- The cause that an access of `size` bytes takes before anything leaves the core, or 0 (R271). -/
def State.addrCause (s : State) (size : Nat) (x : Addr) : Nat :=
  let mis := x.val.toNat % size != 0
  match x.ans with
  | .ok (.win _ _) => if !s.hasPeer then cUnitAbsent else if mis then cMisaligned else 0
  | .ok _ => if mis then cMisaligned else 0
  | .bad c => if mis then cMisaligned else c

/-- The causes of some threads; every one of them lacks a unit where `absent` holds (R4, R271). -/
def State.memErrs (s : State) (m : Mask) (absent : Bool) (size : Nat) (f : Nat → Addr) : List (Nat × Nat) :=
  (lanesOf m).filterMap fun i =>
    let c := if absent then cUnitAbsent else s.addrCause size (f i)
    if c = 0 then none else some (i, c)

/-- The place of an address that has passed its checks. -/
def Addr.place (x : Addr) : Place := match x.ans with | .ok p => p | .bad _ => .glob 0 0

/-- A group of a core parks: an access of one of these threads meets a scratch line whose presence bit is clear, so the
instruction does not issue (R23, R245, R442). -/
def State.parked (s : State) (core : Nat) (m : Mask) (f : Nat → Addr) : Bool :=
  (lanesOf m).any fun i => s.bitWaits core (f i).place

/-- The threads that act: the lowest active one for a uniform instruction, else the contributing ones (R72, R173, R199). -/
def Tg.acting (t : Tg) (arm : Bool) (h : Hd) : Mask :=
  if h.u then maskOf fun i => t.leadGuard arm h.pred h.pn && i = t.lead arm else t.contrib arm h.pred h.pn

/-! ## Ordering kinds (R41, R270) -/

/-- The scope code that an access stamps. -/
def ordCode (o : Ord) : Nat := match o with | .plain => 0 | .sync s => s.code
/-- Whether the access carries its acquire or release kind. -/
def ordSync (o : Ord) : Bool := match o with | .plain => false | .sync _ => true
/-- Whether a form carries `.dom` on a device without peer links (R4). -/
def State.noDom (s : State) (sc : Scope) : Bool := sc = .dom && !s.hasPeer
/-- The same of an ordering kind. -/
def State.ordAbsent (s : State) (o : Ord) : Bool := match o with | .plain => false | .sync sc => s.noDom sc
/-- Whether the wait of a store's kind is met (R41). -/
def State.ordReady (s : State) (a pos : Nat) (o : Ord) : Bool :=
  match o with | .plain => true | .sync sc => s.releaseReady a pos sc
/-- The publication of a releasing store (R301). -/
def State.ordPublish (s : State) (a : Nat) (o : Ord) : State := if ordSync o then s.publish a else s

/-! ## Loads and stores (R273, R274) -/

/-- Bytes of a size (R270). -/
def lszBytes (sz : LSz) : Nat :=
  match sz with | .b32 => 4 | .s8 | .z8 => 1 | .s16 | .z16 => 2 | .b64 => 8 | .b128 => 16

/-- A load of the acting threads. -/
def loadInstr (h : Hd) (sz : LSz) (o : Ord) (d : Dst) (addr : State → Nat → Tg → Nat → Addr) (s : State) : Out :=
  onLane (hdLen h) s fun c k arm =>
    let t := s.tg c k
    let m := t.acting arm h
    let errs := s.memErrs m (s.ordAbsent o) (lszBytes sz) (addr s c t)
    if !errs.isEmpty then s.tgLanes c k arm (hdLen h) errs fun i => (addr s c t i).seen c
    else if m = 0 then s.tgSkip c k arm (hdLen h)
    else if s.parked c m (addr s c t) then s.onTg c k fun t => t.setPark arm .presence
    else
      let a := tgActor c k
      let pos := s.nextPos a
      let l : Load :=
        { acc := s.newAcc a pos (t.armPc arm) t.spc t.seq (ordCode o) (ordSync o) false
          bytes := lszBytes sz
          lanes := (lanesOf m).map fun i => ⟨i, (addr s c t i).place⟩
          dest := ⟨d, if h.u then .uniform sz else .ld sz⟩ }
      (s.issueLoad l).tgSkip c k arm (hdLen h)

/-- The bytes that a thread stores: the low SZ bytes of D (R274). -/
def Tg.storeBytes (t : Tg) (sz : LSz) (i : Nat) (d : Dst) : List Byte :=
  match d with
  | .main n =>
    ((List.range 4).flatMap fun k => leBytes 4 (if 4 * k < (lszBytes sz) then (t.vreg (n.toNat + k) i).toNat else 0)).take (lszBytes sz)
  | .opnd n => leBytes (lszBytes sz) (t.oreg n.toNat i).toNat
  | _ => []

/-- A store of the contributing threads. -/
def storeInstr (h : Hd) (sz : LSz) (o : Ord) (d : Dst) (addr : State → Nat → Tg → Nat → Addr) (s : State) : Out :=
  onLane (hdLen h) s fun c k arm =>
    let t := s.tg c k
    let m := t.acting arm h
    let a := tgActor c k
    let pos := s.nextPos a
    let errs := s.memErrs m (s.ordAbsent o) (lszBytes sz) (addr s c t)
    if !errs.isEmpty then s.tgLanes c k arm (hdLen h) errs fun i => (addr s c t i).seen c
    else if m = 0 then s.tgSkip c k arm (hdLen h)
    else if s.parked c m (addr s c t) then s.onTg c k fun t => t.setPark arm .presence
    else if !s.ordReady a pos o then s
    else
      let acc := s.newAcc a pos (t.armPc arm) t.spc t.seq (ordCode o) false (ordSync o)
      let s := (lanesOf m).foldl (fun s i =>
        s.issueEntry acc (addr s c t i).place (1#16 <<< i) (.store (t.storeBytes sz i d)) (some ⟨d, .data⟩) none) s
      (s.ordPublish a o).tgSkip c k arm (hdLen h)

/-- LD (R273). -/
def execLd (h : Hd) (sz : LSz) (ord : Ord) (d : Dst) (a b : Src) (s : State) : Out :=
  loadInstr h sz ord d (fun s c => s.globAddr c h a b) s
/-- LDS (R273). -/
def execLds (h : Hd) (sz : LSz) (ord : Ord) (d : Dst) (a b : Src) (s : State) : Out :=
  loadInstr h sz ord d (fun _ c => scrAddr c h a b) s
/-- ST (R274). -/
def execSt (h : Hd) (sz : LSz) (ord : Ord) (d : Dst) (a b : Src) (s : State) : Out :=
  storeInstr h sz ord d (fun s c => s.globAddr c h a b) s
/-- STS (R274). -/
def execSts (h : Hd) (sz : LSz) (ord : Ord) (d : Dst) (a b : Src) (s : State) : Out :=
  storeInstr h sz ord d (fun _ c => scrAddr c h a b) s

/-! ## Atomics (R275 to R277) -/

/-- Threads put to the requests that merge them: one for each word, words in the order of their lowest threads (R276). -/
def mergeWords : List (Nat × Place) → List (Place × List Nat)
  | [] => []
  | (i, p) :: l =>
    let r := mergeWords l
    let same := (r.filter fun x => x.1 = p).flatMap Prod.snd
    (p, i :: same) :: r.filter fun x => x.1 != p

/-- One request for each thread, as at a bank atomic unit (R247, R276). -/
def eachLane (l : List (Nat × Place)) : List (Place × List Nat) := l.map fun x => (x.2, [x.1])

/-- A part of an atomic: its operation, byte offset within the word, byte count and reply (R276, R277). -/
structure AtPart where
  op : AtOp
  off : Nat
  bytes : Nat
  k : DKind
  deriving DecidableEq, Repr

/-- A place `n` bytes on. -/
def placePlus (p : Place) (n : Nat) : Place := p.plus n

/-- An atomic of the contributing threads: `parts` of each word, `val` and `cmp` the operands of a thread. -/
def atomInstr (h : Hd) (size : Nat) (sc : Scope) (absent : DWord → Bool) (parts : DWord → List AtPart) (bank : Bool) (d : Dst)
    (addr : State → Nat → Tg → Nat → Addr) (val cmp : Tg → Nat → DWord) (s : State) : Out :=
  onLane (hdLen h) s fun c k arm =>
    let t := s.tg c k
    let m := t.acting arm h
    let a := tgActor c k
    let pos := s.nextPos a
    let errs := s.memErrs m (s.noDom sc || absent t.fpctl) size (addr s c t)
    if !errs.isEmpty then s.tgLanes c k arm (hdLen h) errs fun i => (addr s c t i).seen c
    else if m = 0 then s.tgSkip c k arm (hdLen h)
    else if s.parked c m (addr s c t) then s.onTg c k fun t => t.setPark arm .presence
    else if sc != .tg && !s.releaseReady a pos sc then s
    else
      let acc := s.newAcc a pos (t.armPc arm) t.spc t.seq sc.code (sc != .tg) (sc != .tg)
      let places := (lanesOf m).map fun i => (i, (addr s c t i).place)
      let reqs := if bank then eachLane places else mergeWords places
      let s := reqs.foldl (fun s r =>
        (parts t.fpctl).foldl (fun s q =>
          s.issueEntry acc (placePlus r.1 q.off) (maskOf fun i => r.2.contains i)
            (.rmw q.op q.bytes (r.2.map fun i => ⟨i, val t i >>> (8 * q.off), cmp t i⟩)) (some ⟨d, q.k⟩) none) s) s
      (if sc = .tg then s else s.publish a).tgSkip c k arm (hdLen h)

/-- Bytes of an atomic's width. -/
def atBytes (w64 : Bool) : Nat := if w64 then 8 else 4
/-- The reply of an atomic's width. -/
def atKind (w64 : Bool) : DKind := if w64 then .pair else .word
/-- No unit is lacking. -/
def noAbsent (_ : DWord) : Bool := false

/-- ATOM (R275, R276). -/
def execAtom (h : Hd) (op : Aop) (w64 : Bool) (sc : Scope) (d : Dst) (a b : Src) (s : State) : Out :=
  atomInstr h (atBytes w64) sc noAbsent (fun _ => [⟨.int op, 0, atBytes w64, atKind w64⟩]) false d
    (fun s c t i => s.homeEa c (t.src64 h.lit i a)) (fun t i => t.srcW w64 h.lit i b) (fun _ _ => 0) s
/-- ATOMS: the operand is B, so the address is A alone (R269, R276). -/
def execAtoms (h : Hd) (op : Aop) (w64 : Bool) (sc : Scope) (d : Dst) (a b : Src) (s : State) : Out :=
  atomInstr h (atBytes w64) sc noAbsent (fun _ => [⟨.int op, 0, atBytes w64, atKind w64⟩]) true d
    (fun _ c => scrAddr c h a (.imm 0)) (fun t i => t.srcW w64 h.lit i b) (fun _ _ => 0) s
/-- CAS (R276). -/
def execCas (h : Hd) (w64 : Bool) (sc : Scope) (d : Dst) (a b c : Src) (s : State) : Out :=
  atomInstr h (atBytes w64) sc noAbsent (fun _ => [⟨.cas, 0, atBytes w64, atKind w64⟩]) false d
    (fun s k t i => s.homeEa k (t.src64 h.lit i a)) (fun t i => t.srcW w64 h.lit i b) (fun t i => t.srcW w64 h.lit i c) s
/-- The parts of ATOMF: one word, or each half of a pair as its own atomic (R277). -/
def atomfParts (op : Fop) (ft : AFt) (fp : DWord) : List AtPart :=
  let rm := (fp.extractLsb' 0 3).toNat
  match ft with
  | .f32 => [⟨.flt op 0 rm, 0, 4, .word⟩]
  | .f16x2 => [⟨.flt op 1 rm, 0, 2, .half 0⟩, ⟨.flt op 1 rm, 2, 2, .half 1⟩]
  | .bf16x2 => [⟨.flt op 2 rm, 0, 2, .half 0⟩, ⟨.flt op 2 rm, 2, 2, .half 1⟩]
/-- ATOMF (R277). -/
def execAtomf (h : Hd) (op : Fop) (ft : AFt) (sc : Scope) (d : Dst) (a b : Src) (s : State) : Out :=
  atomInstr h 4 sc (fun fp => op = .add && fpIsSr fp && !s.hasSrnd) (atomfParts op ft) false d
    (fun s c t i => s.homeEa c (t.src64 h.lit i a)) (fun t i => t.srcW false h.lit i b) (fun _ _ => 0) s

/-! ## Ordering instructions (R279 to R281) -/

/-- A fence may issue (R190): what it needs of the actor's own older loads, stores and atomics has come about, so that no fault
of theirs can return after it. Until then the actor's next instructions wait with it. -/
def State.fenceReady (s : State) (a : Nat) (f : Fence) : Bool :=
  match f.kind with
  | .acq => s.loadsDone a f.pos
  | .rel | .ar | .cum => s.releaseReady a f.pos f.sc

/-- FENCE (R43, R279): in a group once, under the guard of its lowest active thread; in the Spur as one step of its actor. -/
def execFence (h : Hd) (k : Fk) (sc : Scope) (s : State) : Out :=
  match s.who with
  | .tg c slot arm =>
    let t := s.tg c slot
    let a := tgActor c slot
    if !t.leadGuard arm h.pred h.pn then .next (s.tgSkip c slot arm (hdLen h))
    else if s.noDom sc then .next (s.tgLanes c slot arm (hdLen h) [(t.lead arm, cUnitAbsent)] fun _ => 0)
    else if !s.fenceReady a ⟨s.nextPos a, k, sc⟩ then .next s
    else
      let s := s.issueFence a ⟨s.nextPos a, k, sc⟩
      .next ((if k = .acq then s else s.publish a).tgSkip c slot arm (hdLen h))
  | .spur c =>
    let a := spurActor c
    if !(s.core c).spur.guard h then .next (s.spurSkip c (hdLen h))
    else if s.noDom sc then .next (s.spurTrap c cUnitAbsent 0)
    else if !s.fenceReady a ⟨s.nextPos a, k, sc⟩ then .next s
    else
      let s := s.issueFence a ⟨s.nextPos a, k, sc⟩
      .next ((if k = .acq then s else s.publish a).spurSkip c (hdLen h))
  | _ => wrongEngine (hdLen h) s

/-- WAITST (R280): younger instructions issue once everything older has completed. -/
def execWaitst (h : Hd) (s : State) : Out :=
  onLane (hdLen h) s fun c k arm =>
    let t := s.tg c k
    if t.acting arm h != 0 && s.unsettled (tgActor c k) then s else s.tgSkip c k arm (hdLen h)

/-- PREF (R281): a Fill of each thread's line where the line may be filled; the L2 form is no step of the machine. -/
def execPref (h : Hd) (l2 : Bool) (a b : Src) (s : State) : Out :=
  onLane (hdLen h) s fun c k arm =>
    let t := s.tg c k
    let s := if l2 then s else
      (lanesOf (t.acting arm h)).foldl (fun s i =>
        match (s.globAddr c h a b t i).ans with
        | .ok (.glob asid va) => s.fill c asid (va / 128)
        | _ => s) s
    s.tgSkip c k arm (hdLen h)

/-! ## Cairn controls (R287, R288) -/

/-- The code of a CAIRN mode (R287). -/
def cmCode (m : Cm) : Nat := match m with | .as => 0 | .off => 1 | .precise => 2 | .report => 3 | .once => 4

/-- An actor's override set; its spent bit is cleared (R287, R313). -/
def State.setMode (s : State) (a : Nat) (m : Cm) : State := s.onActor a fun x => { x with ovr := cmCode m, spent := false }

/-- CAIRN (R287). -/
def execCairn (h : Hd) (cm : Cm) (d : Dst) (s : State) : Out :=
  match s.who with
  | .tg c k arm =>
    let t := s.tg c k
    let a := tgActor c k
    let m := t.acting arm h
    let old := BitVec.ofNat 64 (s.actor a).ovr
    .next (if m = 0 then s.tgSkip c k arm (hdLen h)
      else (s.setMode a cm).tgDone c k arm (hdLen h) (t.putTg false (s.nextPos a) m d old))
  | .spur c =>
    let a := spurActor c
    let old := BitVec.ofNat 64 (s.actor a).ovr
    .next (if !(s.core c).spur.guard h then s.spurSkip c (hdLen h)
      else (s.setMode a cm).spurDone c (hdLen h) fun p => p.put d old)
  | _ => wrongEngine (hdLen h) s

/-- The view copies of a range's Cairn lines dropped by every core that runs the address space (R288). -/
def State.dropRange (s : State) (asid line n : Nat) : State :=
  { s with cores := s.cores.map fun p => (p.1, { p.2 with
      copies := p.2.copies.filter fun k => !(k.asid = asid && k.k && line ≤ k.line && k.line < line + n) }) }

/-- One line's sidecar cleared: no earlier write of it is remembered (R288, R308). -/
def State.scrubLine (s : State) (phys : Nat) : State :=
  { s.setSidecar phys .empty .empty with writers := s.writers.filter fun w => w.line != phys / 128 }

/-- The step of one line of a scrub: the state, or the fault that ends the scrub there (R288). -/
def State.scrubAt (s : State) (asid va : Nat) : Except Nat State :=
  if inWindow va then .ok s
  else if va ≥ 2 ^ 56 then .error cTranslation
  else
    match s.locGlob .wr asid va with
    | .error c => .error c
    | .ok (.phys p) => .ok (if p.k then s.scrubLine p.phys else s)
    | .ok _ => .ok s

/-- The sidecar of a scrub's next line cannot be reached during a saddle (R434). -/
def State.scrubHeld (s : State) (asid va : Nat) : Bool :=
  !inWindow va && match s.locGlob .wr asid va with | .ok loc => s.dramHeld loc | .error _ => false

/-- The cause that CSCRUB's operands take, or 0 (R4, R269, R288). DESIGN CHOICE (log 97): a B of 0 beside an A that is misaligned or
in scratch form takes the trap. -/
def State.scrubCause (s : State) (core : Nat) (a : DWord) (len : Nat) : Nat :=
  let va := a.toNat
  if !s.hasPeer && len != 0 && va < 0x0100000000000000 && 0x00FF000000000000 < va + len then cUnitAbsent
  else if va % 128 != 0 || len % 128 != 0 then cMisaligned
  else match (s.homeEa core a).ans with | .bad c => c | .ok _ => 0

/-- CSCRUB (R288): it waits as WAITST does, then clears the range line by line, one line a turn, and at the end the views drop
their copies; its faults are precise, and an instruction that has trapped begins again. -/
def execCscrub (h : Hd) (a b : Src) (s : State) : Out :=
  match s.who with
  | .tg c k arm =>
    let t := s.tg c k
    match lowest (t.acting arm h) with
    | none => .next (s.tgSkip c k arm (hdLen h))
    | some i =>
      let va := t.src64 h.lit i a
      let len := (t.src32 h.lit i b).toNat
      let cause := s.scrubCause c va len
      if cause != 0 then .next (s.tgLanes c k arm (hdLen h) [(i, cause)] fun _ => va)
      else if s.unsettled (tgActor c k) then .next (s.onTg c k fun t => { t with scrubbing := true })
      else
        let asid := s.asidOf c
        let line := match t.scrub with | some p => p.2 | none => va.toNat
        let done (s : State) : State :=
          (s.dropRange asid (va.toNat / 128) (len / 128)).onTg c k fun t => { t with scrubbing := false, scrub := none }
        if va.toNat + len ≤ line then .next ((done s).tgSkip c k arm (hdLen h))
        else if s.scrubHeld asid line then .next (s.onTg c k fun t => { t with scrubbing := true })
        else match s.scrubAt asid line with
          | .ok s => .next (s.onTg c k fun t => { t with scrubbing := true, scrub := some (arm, line + 128) })
          | .error cause =>
            let u := (done s).tgLanes c k arm (hdLen h) [(i, cause)] fun _ => BitVec.ofNat 64 line
            .next (if trapTaken t (u.tg c k) then u else s)
  | .spur c =>
    let p := (s.core c).spur
    if !p.guard h then .next (s.spurSkip c (hdLen h))
    else
      let va := p.src h.lit a
      let len := (p.src h.lit b).toNat % 2 ^ 32
      let cause := s.scrubCause c va len
      if cause != 0 then .next (s.spurTrap c cause va)
      else if s.busy (spurActor c) then .next (s.onSpur c fun p => { p with scrubbing := true })
      else
        let asid := s.asidOf c
        let line := p.scrub.getD va.toNat
        let done (s : State) : State :=
          (s.dropRange asid (va.toNat / 128) (len / 128)).onSpur c fun p => { p with scrubbing := false, scrub := none }
        if va.toNat + len ≤ line then .next ((done s).spurSkip c (hdLen h))
        else if s.scrubHeld asid line then .next (s.onSpur c fun p => { p with scrubbing := true })
        else match s.scrubAt asid line with
          | .ok s => .next (s.onSpur c fun p => { p with scrubbing := true, scrub := some (line + 128) })
          | .error cause => .next ((done s).spurTrap c cause (BitVec.ofNat 64 line))
  | _ => wrongEngine (hdLen h) s

end Sys2Proof.Machine
end

