-- ==== Sys2Proof/Machine/Walk.lean ====
section
/-! DEFINITION. Problem records, tiles, operand layouts and the arithmetic of a K-step (R6, R56 to R58, R66 to R68, R327 to
R341, R360). -/

namespace Sys2Proof.Machine

/-! ## The record (R328, R329) -/

/-- A little-endian field of some bytes. -/
def fieldAt (bs : List Byte) (off n : Nat) : Nat := leNat ((bs.drop off).take n)

/-- Bits `hi` down to `lo` of a number. -/
def bitsAt (x hi lo : Nat) : Nat := x / 2 ^ lo % 2 ^ (hi + 1 - lo)

/-- The fields of a record's 256 bytes. -/
def Prob.ofBytes (bs : List Byte) : Prob :=
  let c := fieldAt bs 0 8
  { fusm := bitsAt c 1 0
    order := bitsAt c 5 4
    cplx := bitsAt c 8 8 = 1
    grouped := bitsAt c 9 9 = 1
    akind := bitsAt c 11 10
    bkind := bitsAt c 13 12
    kt := bitsAt c 15 14
    cons := bitsAt c 19 16
    proda := bitsAt c 23 20
    prodb := bitsAt c 27 24
    m := fieldAt bs 8 4
    n := fieldAt bs 12 4
    k := fieldAt bs 16 4
    g := fieldAt bs 20 4
    afmt := BitVec.ofNat 32 (fieldAt bs 24 4)
    bfmt := BitVec.ofNat 32 (fieldAt bs 28 4)
    abase := fieldAt bs 32 8
    bbase := fieldAt bs 40 8
    ald := fieldAt bs 48 4
    bld := fieldAt bs 52 4
    asbase := fieldAt bs 56 8
    bsbase := fieldAt bs 64 8
    bgstride := fieldAt bs 72 8
    offs := fieldAt bs 80 8
    seed := fieldAt bs 88 4
    slotoff := fieldAt bs 96 4
    slotsz := fieldAt bs 100 4
    rowmask := fieldAt bs 104 8
    colmask := fieldAt bs 112 8
    raw := bs.take 256 }

/-- A reserved bit of the record is set, or a reserved code is used (R328, R329). -/
def recordReserved (bs : List Byte) : Bool :=
  let c := fieldAt bs 0 8
  bitsAt c 63 28 != 0 || bitsAt c 7 6 != 0 || bitsAt c 3 2 != 0 || bitsAt c 5 4 = 3 || bitsAt c 11 10 = 3 ||
  bitsAt c 13 12 = 3 || fieldAt bs 92 4 != 0 || (bs.drop 120).any (· != 0)

/-! ## Shapes (R330, R331, R336) -/

/-- Tile height. -/
def Prob.th (p : Prob) : Nat := match p.fusm with | 0 => 64 | 1 => 32 | 2 => 128 | _ => 32
/-- Tile width. -/
def Prob.tw (p : Prob) : Nat := match p.fusm with | 0 => 64 | 1 => 128 | 2 => 32 | _ => 32
/-- SPLIT. -/
def Prob.split (p : Prob) : Bool := p.fusm = 3
/-- K-steps of an operand tile. -/
def Prob.ksteps (p : Prob) : Nat := 2 ^ p.kt
/-- K-chunks of a tile. -/
def Prob.chunks (p : Prob) : Nat := (p.k + 32 * p.ksteps - 1) / (32 * p.ksteps)
/-- Tile-columns. -/
def Prob.tn (p : Prob) : Nat := (p.n + p.tw - 1) / p.tw
/-- Stored rows of an operand tile; `b` selects B. -/
def Prob.stored (p : Prob) (b : Bool) : Nat := if b then (if p.cplx then p.tw / 2 else p.tw) else p.th

/-- Whether a format word names Q4. -/
def isQ4 (w : Word) : Bool := (FmtWord.ofWord w).efmt = 5
/-- Element bytes of a format that is not Q4 (R335). -/
def elemSize (w : Word) : Nat := match (FmtWord.ofWord w).efmt with | 1 | 2 => 2 | _ => 1
/-- Bytes of one stored row over a chunk (R336). -/
def rowBytes (ksteps : Nat) (w : Word) : Nat :=
  (if isQ4 w then 16 * ksteps else 32 * ksteps * elemSize w) / (if (FmtWord.ofWord w).sparse then 2 else 1)
/-- Bytes that an operand tile needs in its slot (R336). -/
def Prob.slotNeed (p : Prob) (b : Bool) : Nat :=
  if (if b then p.bkind else p.akind) = 2 then p.stored b * (64 * p.ksteps)
  else
    let w := if b then p.bfmt else p.afmt
    p.stored b * rowBytes p.ksteps w + (if isQ4 w && (FmtWord.ofWord w).splane then p.stored b * p.ksteps else 0)
/-- Bytes that one row or column occupies in memory (R335). -/
def Prob.strideNeed (p : Prob) (b : Bool) : Nat :=
  let w := if b then p.bfmt else p.afmt
  let f := FmtWord.ofWord w
  if f.sparse then (if isQ4 w then (p.k + 3) / 4 else 2 * ((p.k + 3) / 4) * elemSize w)
  else if isQ4 w then (p.k + 1) / 2 else p.k * elemSize w

/-- The first scratch byte of a slot (R336). -/
def Prob.slotAt (p : Prob) (b : Bool) (slot : Nat) : Nat := p.slotoff + (4 * (if b then 1 else 0) + slot) * p.slotsz

/-! ## Refusals (R6, R341) -/

/-- What a walk checks besides its record: units, handlers, and the regions that the other context holds. -/
structure WalkEnv where
  cplx : Bool
  spgen : Bool
  peer : Bool
  hasHandler : Nat → Bool
  others : List (Nat × Nat)

/-- MODE_ABSENT (R6). The addresses are the record's fields: rows or words that run on into the window are met when they are read,
as any access there is (DESIGN CHOICE, log 80). -/
def Prob.modeAbsent (p : Prob) (e : WalkEnv) : Bool :=
  let sparse (kind : Nat) (w : Word) : Bool := kind != 2 && (FmtWord.ofWord w).sparse
  let far (x : Nat) : Bool := !e.peer && inWindow x
  (p.cplx && !e.cplx) || (!e.spgen && (p.seed != 0 || sparse p.akind p.afmt || sparse p.bkind p.bfmt)) ||
  (p.akind ≤ 1 && (far p.abase || far p.asbase)) || (p.bkind ≤ 1 && (far p.bbase || far p.bsbase)) ||
  far p.offs || far p.rowmask || far p.colmask

/-- A field that is not used is set, or a used one is out of range (R328). -/
def Prob.badField (p : Prob) : Bool :=
  let range (x : Nat) : Bool := x = 0 || x > 16777216
  let aDir := p.akind != 2
  let bDir := p.bkind != 2
  (aDir && p.proda != 0) || (bDir && p.prodb != 0) || range p.m || range p.n || range p.k ||
  (if p.grouped then p.g = 0 || p.g > 4095 else p.g != 0 || p.offs != 0) ||
  (!aDir && (p.afmt != 0 || p.abase != 0 || p.ald != 0 || p.asbase != 0)) ||
  (!bDir && (p.bfmt != 0 || p.bbase != 0 || p.bld != 0 || p.bsbase != 0)) ||
  (!(p.grouped && bDir) && p.bgstride != 0) ||
  p.abase % 16 != 0 || p.bbase % 16 != 0 || p.ald % 16 != 0 || p.bld % 16 != 0 || p.bgstride % 16 != 0 ||
  p.offs % 4 != 0 || p.rowmask % 8 != 0 || p.colmask % 8 != 0 || (p.cplx && (p.n % 2 = 1 || p.k % 2 = 1))

/-- The words of two direct operands disagree in CPLX, which makes both malformed (R58). -/
def Prob.cplxSplit (p : Prob) : Bool :=
  p.akind != 2 && p.bkind != 2 && (FmtWord.ofWord p.afmt).cplx != (FmtWord.ofWord p.bfmt).cplx

/-- The checks that depend on a direct format word, made only when it is well formed (R341). -/
def Prob.badDirect (p : Prob) (b : Bool) : Bool :=
  let w := if b then p.bfmt else p.afmt
  if (if b then p.bkind else p.akind) = 2 then p.slotsz < p.slotNeed b
  else if fmtMalformed (!b) w || p.cplxSplit then false
  else
    (!(FmtWord.ofWord w).splane && (if b then p.bsbase else p.asbase) != 0) ||
    (if b then p.bld else p.ald) < p.strideNeed b || p.slotsz < p.slotNeed b

/-- A bad slot region (R341). -/
def Prob.badRegion (p : Prob) (others : List (Nat × Nat)) : Bool :=
  p.slotoff % 128 != 0 || p.slotsz % 128 != 0 || p.slotoff + 8 * p.slotsz > 524288 ||
  others.any fun o => p.slotoff < o.1 + 8 * o.2 && o.1 < p.slotoff + 8 * p.slotsz

/-- BAD_FORMAT (R58, R341). -/
def Prob.badFormat (p : Prob) : Bool :=
  (p.akind != 2 && (fmtMalformed true p.afmt || (FmtWord.ofWord p.afmt).cplx != p.cplx)) ||
  (p.bkind != 2 && (fmtMalformed false p.bfmt || (FmtWord.ofWord p.bfmt).cplx != p.cplx))

/-- The status of the checks from MODE_ABSENT to HANDLER_MISSING, 0 for none (R341). -/
def refuseCode (bs : List Byte) (e : WalkEnv) : Nat :=
  let p := Prob.ofBytes bs
  if p.modeAbsent e then 0x02
  else if recordReserved bs || p.badField || p.badDirect false || p.badDirect true || p.badRegion e.others then 0x03
  else if p.badFormat then 0x04
  else if !e.hasHandler p.cons || (p.akind = 2 && !e.hasHandler p.proda) || (p.bkind = 2 && !e.hasHandler p.prodb) then 0x05
  else 0

/-- BAD_OFFSETS (R340). -/
def badOffsets (m : Nat) : List Nat → Bool
  | [] => false
  | off => off.headD 0 != 0 || off.getLastD 0 > m || (off.zip (off.drop 1)).any fun p => p.2 < p.1

/-! ## Tiles in walk order (R331 to R334, R340) -/

/-- The row spans of a walk: one for each group, with the group's number. -/
def Prob.spans (p : Prob) (offs : List Nat) : List (Nat × Nat × Nat) :=
  if p.grouped then
    (List.range p.g).map fun g => (g, offs.getD g 0, offs.getD (g + 1) 0)
  else [(0, 0, p.m)]

/-- A tile before its masks are known: group, tile-row across groups, tile-column, first row, and the group's end. -/
structure Cell where
  group : Nat
  ti : Nat
  tj : Nat
  row0 : Nat
  stop : Nat
  deriving DecidableEq, Repr

/-- The tile of a group at a place of its order (R332). -/
def Prob.place (p : Prob) (tm k : Nat) : Nat × Nat :=
  match p.order with
  | 1 => (k % tm, k / tm)
  | 2 => (k / p.tn, if k / p.tn % 2 = 1 then p.tn - 1 - k % p.tn else k % p.tn)
  | _ => (k / p.tn, k % p.tn)

/-- The tile at a place of the walk's order. -/
def Prob.cellAt (p : Prob) : List (Nat × Nat × Nat) → Nat → Nat → Option Cell
  | [], _, _ => none
  | (g, lo, hi) :: l, ti0, k =>
    let tm := (hi - lo + p.th - 1) / p.th
    if k < tm * p.tn then
      let (t, tj) := p.place tm k
      some ⟨g, ti0 + t, tj, lo + p.th * t, hi⟩
    else p.cellAt l (ti0 + tm) (k - tm * p.tn)

/-- The number with the bits of a range that meet a test. -/
def maskNat (n : Nat) (f : Nat → Bool) : Nat := (List.range n).foldl (fun x i => if f i then x + 2 ^ i else x) 0

/-- The number of set bits among the first `n`. -/
def onesNat (n x : Nat) : Nat := ((List.range n).filter fun i => x.testBit i).length

/-- The effective masks of a tile from the explicit bits of its rows and columns (R333). -/
def Prob.mask (p : Prob) (c : Cell) (row col : Nat → Bool) : Tile :=
  { group := c.group, ti := c.ti, tj := c.tj, row0 := c.row0
    rows := maskNat p.th fun r => c.row0 + r < c.stop && (p.rowmask = 0 || row (c.row0 + r))
    cols := maskNat p.tw fun k => p.tw * c.tj + k < p.n && (p.colmask = 0 || col (p.tw * c.tj + k)) }

/-- The 64-bit words of a mask that cover `n` bits from bit `lo`, below a bound: their VAs (R334). -/
def maskWords (base lo n bound : Nat) : List Nat :=
  if base = 0 then []
  else
    let hi := Nat.min (lo + n) bound
    if hi ≤ lo then [] else (List.range (((hi - 1) / 64) - lo / 64 + 1)).map fun i => base + 8 * (lo / 64 + i)

/-- A tile with nothing to do. -/
def Tile.empty (t : Tile) : Bool := t.rows = 0 || t.cols = 0

/-- Tiles of a list with the first of each key kept, in ascending order of the key. -/
def distinctBy (f : Tile → Nat) (l : List Tile) : List Tile :=
  let ks := sortBy (fun a b => a ≤ b) (l.map f).eraseDups
  ks.filterMap fun k => l.find? fun t => f t = k

/-- The operand tiles that a step needs for a chunk, each as a tile that uses it (R342). -/
def WStep.items (w : WStep) (b : Bool) : List Tile :=
  distinctBy (if b then Tile.tj else Tile.ti) (w.tiles.map Prod.snd)

/-- The stored rows of an operand tile that are fetched: enabled rows of A, or columns of B, a pair's stored column where
either result column is enabled (R333, R334, R339). -/
def Prob.storedMask (p : Prob) (b : Bool) (t : Tile) : Nat :=
  if !b then t.rows
  else if p.cplx then maskNat (p.tw / 2) fun i => t.cols.testBit (2 * i) || t.cols.testBit (2 * i + 1)
  else t.cols

/-- The first stored row of an operand tile: a row of A, or a stored column of B. -/
def Prob.first (p : Prob) (b : Bool) (t : Tile) : Nat := if b then p.stored true * t.tj else t.row0

/-! ## Direct fetches (R335, R338) -/

/-- A run of source bytes: their VA, length and place in the slot. -/
structure Seg where
  va : Nat
  len : Nat
  off : Nat
  deriving DecidableEq, Repr

/-! ## The sparse pattern (R338) -/

/-- The generator's choice for a column and a K-group. -/
def sparseChoice (seed j q : Nat) : Nat :=
  let x : Word := BitVec.ofNat 32 seed ^^^ (BitVec.ofNat 32 j * 0x9E3779B9) ^^^ (BitVec.ofNat 32 q * 0x85EBCA6B)
  let x := if x = 0 then 0x6D2B79F5 else x
  let x := x ^^^ (x <<< 13)
  let x := x ^^^ (x >>> 17)
  let x := x ^^^ (x <<< 5)
  x.toNat * 6 / 2 ^ 32

/-- The kept positions of a choice. -/
def keptPair (c : Nat) : Nat × Nat :=
  match c with | 0 => (0, 1) | 1 => (0, 2) | 2 => (0, 3) | 3 => (1, 2) | 4 => (1, 3) | _ => (2, 3)

/-- A stored element of a stored row of a chunk lies at K or beyond. -/
def Prob.dead (p : Prob) (b : Bool) (t : Tile) (kk r e : Nat) : Bool :=
  let k0 := 32 * p.ksteps * kk
  if (FmtWord.ofWord (if b then p.bfmt else p.afmt)).sparse then
    let q := k0 / 4 + e / 2
    let w := keptPair (sparseChoice p.seed (p.first b t + r) q)
    decide (p.k ≤ 4 * q + (if e % 2 = 0 then w.1 else w.2))
  else decide (p.k ≤ k0 + e)

/-- The stored elements of a chunk's share of a row: two for each group of four where the column is sparse. -/
def storedElems (w : Word) (k0 k1 : Nat) : Nat :=
  if (FmtWord.ofWord w).sparse then 2 * ((k1 + 3) / 4) - k0 / 2 else k1 - k0

/-- The bytes of a stored row over a chunk from position `k0`, up to its last element with a position below K: first byte within the
row and length, for `n` elements (R335). -/
def rowSpan (w : Word) (k0 n : Nat) : Nat × Nat :=
  let a := if (FmtWord.ofWord w).sparse then k0 / 2 else k0
  if isQ4 w then (a / 2, (a + n + 1) / 2 - a / 2) else (a * elemSize w, n * elemSize w)

/-- The elements of a stored row in a chunk that are read: kept positions ascend, so those at K and beyond are the last of a group. -/
def Prob.liveElems (p : Prob) (b : Bool) (t : Tile) (kk r n : Nat) : Nat :=
  n - ([n - 1, n - 2].filter fun e => e < n && p.dead b t kk r e).eraseDups.length

/-- The source of an operand tile's chunk (R335). -/
def Prob.segs (p : Prob) (b : Bool) (t : Tile) (kk : Nat) : List Seg :=
  let w := if b then p.bfmt else p.afmt
  let k0 := 32 * p.ksteps * kk
  let k1 := Nat.min p.k (k0 + 32 * p.ksteps)
  let rb := rowBytes p.ksteps w
  let adv := if b && p.grouped then t.group * p.bgstride else 0
  let base := (if b then p.bbase else p.abase) + adv
  let sbase := (if b then p.bsbase else p.asbase) + adv / 16
  let ld := if b then p.bld else p.ald
  let sld := ld / (if (FmtWord.ofWord w).sparse then 8 else 16)
  let n := storedElems w k0 k1
  let rows := (List.range (p.stored b)).filter fun r => (p.storedMask b t).testBit r
  let i (r : Nat) : Nat := p.first b t + r
  (rows.map fun r =>
    let o := rowSpan w k0 (p.liveElems b t kk r n)
    ⟨base + i r * ld + o.1, o.2, r * rb⟩) ++
  (if isQ4 w && (FmtWord.ofWord w).splane then
    rows.map fun r => ⟨sbase + i r * sld + k0 / 32, (k1 + 31) / 32 - k0 / 32, p.stored b * rb + r * p.ksteps⟩
  else [])

/-- The lines that some runs touch, each once. -/
def segLines (l : List Seg) : List Nat :=
  (l.flatMap fun s => (List.range (if s.len = 0 then 0 else (s.va + s.len + 127) / 128 - s.va / 128)).map (s.va / 128 + ·)).eraseDups

/-- What a landed line brings to a slot: offsets with their bytes. -/
def landings (l : List Seg) (line : Nat) (bytes : List Byte) : List (Nat × List Byte) :=
  l.filterMap fun s =>
    let lo := Nat.max s.va (128 * line)
    let hi := Nat.min (s.va + s.len) (128 * line + 128)
    if lo < hi then some (s.off + (lo - s.va), (bytes.drop (lo - 128 * line)).take (hi - lo)) else none

/-! ## What a landing holds (R336, R337) -/

/-- A byte that a landing leaves at an offset of its slot: positions at K and beyond hold zero (R336). -/
def Prob.landByte (p : Prob) (b : Bool) (t : Tile) (kk off : Nat) (x : Byte) : Byte :=
  let w := if b then p.bfmt else p.afmt
  let rb := rowBytes p.ksteps w
  if p.stored b * rb ≤ off then x
  else
    let dead := p.dead b t kk (off / rb)
    let o := off % rb
    if isQ4 w then
      (if dead (2 * o) then 0 else x &&& 0x0F) ||| (if dead (2 * o + 1) then 0 else x &&& 0xF0)
    else if dead (o / elemSize w) then 0 else x

/-- The runs of a slot that a source line fills. -/
def Prob.lineRuns (p : Prob) (b : Bool) (t : Tile) (kk line : Nat) (bytes : List Byte) : List (Nat × List Byte) :=
  (landings (p.segs b t kk) line bytes).map fun r =>
    (r.1, (r.2.zip (List.range r.2.length)).map fun x => p.landByte b t kk (r.1 + x.2) x.1)

/-- What a shared fetch agrees in with those that are identical (R337). -/
def Prob.fetchKey (p : Prob) (cluster asid : Nat) (b : Bool) (t : Tile) (kk : Nat) : FetchKey :=
  let adv := if b && p.grouped then t.group * p.bgstride else 0
  { cluster, asid, opB := b
    base := (if b then p.bbase else p.abase) + adv, sbase := (if b then p.bsbase else p.asbase) + adv / 16
    ld := if b then p.bld else p.ald, fmt := if b then p.bfmt else p.afmt
    first := p.first b t, rows := p.storedMask b t
    k0 := 32 * p.ksteps * kk, k1 := Nat.min p.k (32 * p.ksteps * (kk + 1)) }

/-! ## Elements and K-steps (R52, R57, R66 to R68) -/

/-- An operand tile in its slot: its bytes' first scratch address, format word, stored rows, K-steps and first position. -/
structure Oper where
  at_ : Nat
  fmt : Word
  rows : Nat
  ksteps : Nat
  k0 : Nat
  deriving DecidableEq, Repr

/-- The 16-byte units of a slot that some of its K-steps read: `n` of them from `ks` on. -/
def Oper.units (o : Oper) (ks n : Nat) : List Nat :=
  let rb := rowBytes o.ksteps o.fmt
  let w := rb / o.ksteps
  let span (a len : Nat) : List Nat := (List.range ((a + len + 15) / 16 - a / 16)).map (a / 16 + ·)
  (List.range o.rows).flatMap fun r =>
    span (o.at_ + r * rb + ks * w) (n * w) ++
      (if isQ4 o.fmt && (FmtWord.ofWord o.fmt).splane then span (o.at_ + o.rows * rb + r * o.ksteps + ks) n else [])

/-- The value of stored element `e` of stored row `r`, whose position along K is `k`. -/
def Oper.value (o : Oper) (rd : Nat → Byte) (daz : Bool) (r e k : Nat) : FV :=
  let f := FmtWord.ofWord o.fmt
  let rb := rowBytes o.ksteps o.fmt
  if f.efmt = 5 then
    let b := (rd (o.at_ + r * rb + e / 2)).toNat
    let code := if e % 2 = 0 then b % 16 else b / 16
    let sc := if f.splane then (rd (o.at_ + o.rows * rb + r * o.ksteps + (k - o.k0) / 32)).toNat else 32
    blockValue (if f.bov then f.btype else sc / 64) code (sc % 64)
  else
    let n := elemSize o.fmt
    let a := o.at_ + r * rb + e * n
    let bits := if n = 2 then (rd a).toNat + 256 * (rd (a + 1)).toNat else (rd a).toNat
    FV.ofBits (efmtOf f.efmt) (daz && f.efmt ≤ 2) bits

/-- The stored element of a position of a B column, `none` where the pattern prunes it. -/
def Oper.kept (o : Oper) (seed j k : Nat) : Option Nat :=
  let p := k - o.k0
  if !(FmtWord.ofWord o.fmt).sparse then some p
  else
    let (a, b) := keptPair (sparseChoice seed j (k / 4))
    if k % 4 = a then some (2 * (p / 4)) else if k % 4 = b then some (2 * (p / 4) + 1) else none

/-- What one K-step adds to a result element: its exact terms with their flags. -/
structure KIn where
  a : Oper
  b : Oper
  rd : Nat → Byte
  daz : Bool
  seed : Nat
  /-- first stored column of B -/
  col0 : Nat
  /-- K -/
  k : Nat

/-- The product of position `ka` of row `r` and position `kb` of stored column `c`, negated where asked; `none` when the
pattern prunes it. -/
def KIn.term (x : KIn) (neg : Bool) (r c ka kb : Nat) : Option (FV × FFlags) :=
  match x.b.kept x.seed (x.col0 + c) kb with
  | none => none
  | some e =>
    let va := x.a.value x.rd x.daz r (ka - x.a.k0) ka
    let (p, fl) := va.mul (x.b.value x.rd x.daz c e kb)
    some (if neg then p.negate else p, fl)

/-- The terms of a K-step's positions for a result element. -/
def KIn.terms (x : KIn) (cplx : Bool) (r c s : Nat) : List (FV × FFlags) :=
  if !cplx then
    (List.range 32).filterMap fun i => let k := 32 * s + i; if k < x.k then x.term false r c k k else none
  else
    (List.range 16).flatMap fun i =>
      let k := 32 * s + 2 * i
      if k < x.k then
        let n := c / 2
        (if c % 2 = 0 then [x.term false r n k k, x.term true r n (k + 1) (k + 1)]
         else [x.term false r n k (k + 1), x.term false r n (k + 1) k]).filterMap id
      else []

/-- One K-step of one result element: the accumulator after its one addition, and the flags (R66). -/
def KIn.step (x : KIn) (cplx ftz : Bool) (r c s : Nat) (acc : Word) : Word × FFlags :=
  match x.terms cplx r c s with
  | [] => (acc, 0)
  | ts =>
    let (p, f1) := FV.sum false (ts.map Prod.fst)
    let (t, f2) := FV.sum false [FV.ofBits fp32 false acc.toNat, p]
    let (y, f3) := fp32.round { mode := .rne, ftz } t
    (BitVec.ofNat 32 y, ts.foldl (fun f t => f ||| t.2) 0 ||| f1 ||| f2 ||| f3)

/-- The word of a bank that holds an element (R331, R360). -/
def Prob.bankWord (p : Prob) (q r c : Nat) : Nat :=
  if p.split then (32 * (q / 2) + r) * 64 + 32 * (q % 2) + c else r * p.tw + c

/-- One K-step of a tile: every element of an enabled row and column (R66, R334). -/
def Prob.stepTile (p : Prob) (x : KIn) (ftz : Bool) (q : Nat) (t : Tile) (s : Nat) (w : NMap Word × FFlags) :
    NMap Word × FFlags :=
  (List.range p.th).foldl (fun w r =>
    if !t.rows.testBit r then w
    else
      (List.range p.tw).foldl (fun w c =>
        if !t.cols.testBit c then w
        else
          let i := p.bankWord q r c
          let (y, f) := x.step p.cplx ftz r c s (mget 0 w.1 i)
          (mset 0 w.1 i y, w.2 ||| f)) w) w

end Sys2Proof.Machine
end

