-- ==== Sys2Proof/Machine/Traverse.lean ====
section
/-! DEFINITION. The Traverse at work: engine reads, the start of a walk, requests, landings, steps, upcalls, cancelling and
finishing (R337, R342 to R346, R353, R356 to R358, R361 to R366). -/

namespace Sys2Proof.Machine

/-! ## Contexts -/

/-- A context of a core. -/
def Core.ctx (c : Core) (i : Nat) : Ctx := mget {} c.ctxs i
/-- The core with a context replaced. -/
def Core.setCtx (c : Core) (i : Nat) (x : Ctx) : Core := { c with ctxs := mset {} c.ctxs i x }
/-- A context of the device. -/
def State.ctx (s : State) (core i : Nat) : Ctx := (s.core core).ctx i
/-- The state with a context replaced. -/
def State.setCtx (s : State) (core i : Nat) (x : Ctx) : State := s.onCore core fun c => c.setCtx i x
/-- The state with a context changed. -/
def State.onCtx (s : State) (core i : Nat) (f : Ctx → Ctx) : State := s.setCtx core i (f (s.ctx core i))

/-- IDLE, WALKING, PAUSING, PAUSED and CANCELLING (R353). -/
def xIdle : Nat := 0
def xWalking : Nat := 1
def xPausing : Nat := 2
def xPaused : Nat := 3
def xCancelling : Nat := 4

/-- A slot of an operand ring. -/
def Ctx.slot (x : Ctx) (b : Bool) (i : Nat) : TSlot := mget {} (if b then x.slotsB else x.slotsA) i
/-- The context with a slot replaced. -/
def Ctx.setSlot (x : Ctx) (b : Bool) (i : Nat) (t : TSlot) : Ctx :=
  if b then { x with slotsB := mset {} x.slotsB i t } else { x with slotsA := mset {} x.slotsA i t }
/-- A bank. -/
def Ctx.bank (x : Ctx) (i : Nat) : Bank := mget {} x.banks i
/-- The context with a bank replaced. -/
def Ctx.setBank (x : Ctx) (i : Nat) (b : Bank) : Ctx := { x with banks := mset {} x.banks i b }
/-- The source kind of an operand: 2 is PRODUCED. -/
def Ctx.kind (x : Ctx) (b : Bool) : Nat := if b then x.prob.bkind else x.prob.akind
/-- The next request of an operand. -/
def Ctx.req (x : Ctx) (b : Bool) : ReqPos := if b then x.reqB else x.reqA
/-- The ring place that the next request takes. -/
def Ctx.tail (x : Ctx) (b : Bool) : Nat := if b then x.tailB else x.tailA
/-- A step whose tiles are known. -/
def Ctx.stepOf (x : Ctx) (n : Nat) : Option WStep := x.steps.find? fun w => w.no = n

/-- Upcalls of a context queued and not dispatched, and its running instances. -/
def Core.queued (c : Core) (i : Nat) : List Upcall := c.upq.filter fun u => u.ctx = i
def Core.running (c : Core) (i : Nat) : List Inst := c.insts.filter fun n => n.up.ctx = i

/-- Producer upcalls raised and not returned (R342). -/
def Core.pout (c : Core) (i : Nat) : Nat :=
  ((c.queued i).filter fun u => u.kind ≤ 1).length + ((c.running i).filter fun n => n.up.kind ≤ 1).length

/-! ## Engine reads (R36, R334, R335, R366) -/

/-- What a read by an engine gives. -/
inductive ReadAns
  | wait
  | ok (bytes : List Byte) (s : State)
  | fault (cause va : Nat) (s : State)

/-- A read of bytes of one line by an engine, at the home (R36); its races are logged (R313). -/
def State.engineRead (s : State) (actor : Nat) (spc seq : DWord) (va n : Nat) : ReadAns :=
  if va ≥ 2 ^ 56 then .fault cTranslation va s
  else
    let acc := s.newAcc actor (s.nextPos actor) 0 spc seq 0 false false
    match s.loadHome ⟨acc, n, [], ⟨.main 0, .word⟩⟩ false (vaPlace (s.asidOf (coreOf actor)) va) with
    | .wait => .wait
    | .value v _ s => .ok (leBytes n v) s
    | .fault c _ s => .fault c va s

/-- A read of bytes that may cover several lines; `fuel` bounds the lines. -/
def State.engineBytes (s : State) (actor : Nat) (spc seq : DWord) : Nat → Nat → Nat → ReadAns
  | 0, _, _ => .ok [] s
  | fuel + 1, va, n =>
    if n = 0 then .ok [] s
    else
      let k := Nat.min n (128 - va % 128)
      match s.engineRead actor spc seq va k with
      | .wait => .wait
      | .fault c a s => .fault c a s
      | .ok bs s =>
        match s.engineBytes actor spc seq fuel (va + k) (n - k) with
        | .ok cs s => .ok (bs ++ cs) s
        | r => r

/-! ## Upcalls (R342, R357 to R359) -/

/-- The positions of a chunk below K. -/
def Prob.chunkLen (p : Prob) (kk : Nat) : Nat := Nat.min p.k (32 * p.ksteps * (kk + 1)) - 32 * p.ksteps * kk

/-- The descriptor words `g0` to `g5` of an upcall (R358). -/
def descriptor (x : Ctx) (u : Upcall) (inst : Nat) : List DWord :=
  let p := x.prob
  let t := u.tile
  let cons := u.kind = 2
  let b := u.kind = 1
  let rm := if cons then t.rows else p.storedMask b t
  let n := if cons then p.th else p.stored b
  let g0 : DWord := x.cseq.extractLsb' 0 32 ++ 0#4 ++ BitVec.ofNat 12 t.group ++ BitVec.ofNat 4 u.hid ++
    BitVec.ofNat 4 inst ++ BitVec.ofNat 2 (if cons then u.sub else 0) ++ BitVec.ofBool (cons && u.slot = 1) ++
    BitVec.ofNat 1 u.ctx ++ BitVec.ofNat 4 u.kind
  let g1 : DWord := BitVec.ofNat 32 (if u.kind = 0 then 0 else t.tj) ++ BitVec.ofNat 32 (if b then 0 else t.ti)
  let g2 : DWord := BitVec.ofNat 8 (if cons then onesNat p.tw t.cols else 0) ++ BitVec.ofNat 8 (onesNat n rm) ++
    BitVec.ofNat 16 (if cons then 0 else p.chunkLen u.kk) ++ BitVec.ofNat 32 (if cons then 0 else u.kk)
  let g3 : DWord := if cons then 0 else BitVec.ofNat 64 (0xF0 * 2 ^ 56 + p.slotAt b u.slot)
  [g0, g1, g2, g3, BitVec.ofNat 64 rm, BitVec.ofNat 64 (if cons then t.cols else 0)]

/-- An upcall put into the queue: context 0 goes first within a local cycle (R357). -/
def queueUp (u : Upcall) (l : List Upcall) : List Upcall :=
  if u.ctx = 0 then
    let r := l.span fun v => !(v.ctx = 1 && v.raised = u.raised)
    r.1 ++ u :: r.2
  else l ++ [u]

/-- An upcall joins the core's queue (R357), with its UPRAISE record. One raised again has been counted before (R365, R375). -/
def State.raiseUp (s : State) (core : Nat) (u : Upcall) (again : Bool) : State :=
  let x := s.ctx core u.ctx
  let d := descriptor x u 0
  let s := s.trace core 3 (travActor core u.ctx) x.spc x.cseq (d.getD 0 0).toNat (d.getD 1 0).toNat
  s.onCore core fun c => { (c.setCtx u.ctx { x with upcalls := x.upcalls + (if again then 0 else 1) }) with upq := queueUp u c.upq }

/-! ## Cancelling (R353, R356) -/

/-- The context ends its step, withdraws what is not dispatched, and waits (R356): `status` is the end status to come. -/
def State.cancelWalk (s : State) (core i status : Nat) : State :=
  let x := s.ctx core i
  if x.state = xIdle || x.state = xCancelling then s
  else
    s.onCore core fun c =>
      { (c.setCtx i { x with state := xCancelling, endAs := status, run := false, maskFault := none }) with
        upq := c.upq.filter fun u => u.ctx != i
        arrays := if c.arrays = some i then none else c.arrays }

/-- The entry of a fetch or mask fault in the trap ring (R363). -/
def State.fetchPost (s : State) (core i cause va : Nat) : State :=
  let x := s.ctx core i
  let ids := s.launchIds core
  s.post { core, actor := travActor core i, cause, flags := fService, seq := x.cseq, spc := x.spc
           addr := BitVec.ofNat 64 va, vif := ids.1, asid := ids.2 }

/-- A fault of an engine read: an uncorrectable one cancels the walk, any other awaits service through `mark` (R363). -/
def State.walkFault (s : State) (core i cause va : Nat) (mark : Ctx → Ctx) : State :=
  if cause = cMemError then s.cancelWalk core i 0x14
  else
    (s.onCtx core i mark).fetchPost core i cause va

/-! ## Tiles and steps becoming known (R331, R333, R334) -/

/-- The 64-bit mask words at some VAs. -/
def State.readWords (s : State) (actor : Nat) (spc seq : DWord) : List Nat → Except (Option (Nat × Nat)) (State × List (Nat × Nat))
  | [] => .ok (s, [])
  | va :: l =>
    match s.engineRead actor spc seq va 8 with
    | .wait => .error none
    | .fault c a _ => .error (some (c, a))
    | .ok bs s =>
      match s.readWords actor spc seq l with
      | .ok (s, ws) => .ok (s, (va, leNat bs) :: ws)
      | .error e => .error e

/-- The bit of an explicit mask in the words that were read. -/
def wordBit (base : Nat) (ws : List (Nat × Nat)) (i : Nat) : Bool :=
  match ws.find? fun w => w.1 = base + 8 * (i / 64) with
  | some w => w.2.testBit (i % 64)
  | none => false

/-- A tile's effective masks, read where the record names explicit ones (R333, R334). -/
def State.readTile (s : State) (core i : Nat) (c : Cell) : Except (Option (Nat × Nat)) (State × Tile) :=
  let x := s.ctx core i
  let p := x.prob
  let ws := maskWords p.rowmask c.row0 p.th (Nat.min c.stop p.m) ++ maskWords p.colmask (p.tw * c.tj) p.tw p.n
  if !ws.isEmpty && s.drained? then .error none
  else
    match s.readWords (travActor core i) x.spc x.cseq ws with
    | .ok (s, l) => .ok (s, p.mask c (wordBit p.rowmask l) (wordBit p.colmask l))
    | .error e => .error e

/-- The tiles of a step from a place of the order: one, or in SPLIT the next four of the same group (R331). -/
def State.readStep (s : State) (core i : Nat) (group : Option Nat) (k q : Nat) :
    Nat → Except (Option (Nat × Nat)) (State × List (Nat × Tile) × Nat)
  | 0 => .ok (s, [], k)
  | n + 1 =>
    let x := s.ctx core i
    match x.prob.cellAt (x.prob.spans x.offs) 0 k with
    | none => .ok (s, [], k)
    | some c =>
      if group.any (· != c.group) then .ok (s, [], k)
      else
        match s.readTile core i c with
        | .error e => .error e
        | .ok (s, t) =>
          match s.readStep core i (some c.group) (k + 1) (q + 1) n with
          | .error e => .error e
          | .ok (s, l, k') => .ok (s, if t.empty then l else (q, t) :: l, k')

/-- The next step that has a tile becomes known; a step whose tiles are all empty is passed over. `fuel` bounds the steps
passed over. -/
def State.nextStep (s : State) (core i : Nat) : Nat → State
  | 0 => s
  | n + 1 =>
    let x := s.ctx core i
    if x.allSteps.isSome || x.maskFault.isSome then s
    else
      match s.readStep core i none x.cursor 0 (if x.prob.split then 4 else 1) with
      | .error none => s
      | .error (some (c, va)) => s.walkFault core i c va fun x => { x with maskFault := some va }
      | .ok (s, l, k) =>
        if k = x.cursor then s.onCtx core i fun x => { x with allSteps := some x.nextNo }
        else if l.isEmpty then (s.onCtx core i fun x => { x with cursor := k }).nextStep core i n
        else s.onCtx core i fun x =>
          { x with cursor := k, nextNo := x.nextNo + 1, steps := x.steps ++ [⟨x.nextNo, l⟩] }

/-- The number of tiles of a walk. -/
def Ctx.tiles (x : Ctx) : Nat :=
  ((x.prob.spans x.offs).map fun g => (g.2.2 - g.2.1 + x.prob.th - 1) / x.prob.th * x.prob.tn).foldl (· + ·) 0

/-! ## Requests (R342, R365) -/

/-- The order of two requests' chunks. -/
def ReqPos.before (a b : ReqPos) : Bool := a.step < b.step || (a.step = b.step && a.kk < b.kk)

/-- A request is the next of its class in the fetch sequence: operands of one class keep their common order. -/
def Ctx.inOrder (x : Ctx) (b : Bool) : Bool :=
  if (x.kind false = 2) != (x.kind true = 2) then true
  else if b then x.reqB.before x.reqA else !x.reqB.before x.reqA

/-- Whether a context may make a request for a step: WALKING for any, PAUSING for the running step (R356). -/
def Ctx.mayAsk (x : Ctx) (step : Nat) : Bool :=
  x.state = xWalking || (x.state = xPausing && x.run && x.runStep = step)

/-- A slot lands whole: what its lines brought, and zeros elsewhere (R336, R346). -/
def State.landSlot (s : State) (r : SlotRef) : State :=
  let x := s.ctx r.core r.ctx
  let t := x.slot r.opB r.slot
  let p := x.prob
  match t.tile with
  | none => s
  | some tile =>
    let s := s.scrWrite r.core (p.slotAt r.opB r.slot) (List.replicate (p.slotNeed r.opB) 0)
    let runs := t.got.flatMap fun g => p.lineRuns r.opB tile t.kk g.1 g.2
    let s := runs.foldl (fun s u => s.scrWrite r.core (p.slotAt r.opB r.slot + u.1) u.2) s
    s.onCtx r.core r.ctx fun x => x.setSlot r.opB r.slot { t with st := 2, got := [], group := none }

/-- A shared fetch offered to its cluster's arbiter: it joins the group of an identical fetch of the last 512 local cycles whose line
reads have not begun, or starts one (R337). -/
def State.joinArb (s : State) (r : SlotRef) (k : FetchKey) : State × Nat :=
  let now := s.cyclesOf r.core
  match s.arb.find? fun g => g.key = k && !g.begun && decide (now ≤ g.since + 512) with
  | some g => ({ s with arb := updFirst (fun h => h.id = g.id) (fun h => { h with since := now }) s.arb }, g.id)
  | none => ({ s with arb := ⟨s.nextArb, k, now, false, r⟩ :: s.arb, nextArb := s.nextArb + 1 }, s.nextArb)

/-- A slot's request issued: a fetch whose lines are all to land, or a producer upcall (R342); `again` where it is issued again. -/
def State.issueSlot (s : State) (core i : Nat) (b : Bool) (n : Nat) (again : Bool) : State :=
  let x := s.ctx core i
  let t := x.slot b n
  let p := x.prob
  match t.tile with
  | none => s
  | some tile =>
    if x.kind b = 2 then
      (s.setCtx core i (x.setSlot b n { t with st := 1, lines := [] })).raiseUp core
        { ctx := i, kind := if b then 1 else 0, hid := if b then p.prodb else p.proda, tile, kk := t.kk, slot := n, sub := 0
          raised := s.cyclesOf core } again
    else
      let r : SlotRef := ⟨core, i, b, n⟩
      let lines := segLines (p.segs b tile t.kk)
      let t := { t with st := 1, lines, faults := [], got := [], group := none, fmt := if b then p.bfmt else p.afmt }
      if lines.isEmpty then (s.setCtx core i (x.setSlot b n t)).landSlot r
      else if x.kind b = 1 then
        let (s, g) := s.joinArb r (p.fetchKey (clusterOf core) (s.asidOf core) b tile t.kk)
        s.setCtx core i (x.setSlot b n { t with group := some g })
      else s.setCtx core i (x.setSlot b n t)

/-- A producer request waits while three producers of the context are out (R342). -/
def State.mayRaise (s : State) (core i : Nat) (b : Bool) : Bool :=
  (s.ctx core i).kind b != 2 || (s.core core).pout i < 3

/-- The slots set aside, in the order of the fetch sequence (R364, R365). -/
def Ctx.queuedSlots (x : Ctx) : List (Bool × Nat) :=
  let l := ((List.range 4).map fun n => (false, n)) ++ (List.range 4).map fun n => (true, n)
  let l := l.filter fun q => (x.slot q.1 q.2).st = 3 && x.mayAsk (x.slot q.1 q.2).step
  let key (q : Bool × Nat) : Nat × Nat × Nat × Nat :=
    let t := x.slot q.1 q.2
    (t.step, t.kk, if q.1 then 1 else 0, match t.tile with | some u => if q.1 then u.tj else u.ti | none => 0)
  sortBy (fun a b =>
    let u := key a
    let v := key b
    u.1 < v.1 || (u.1 = v.1 && (u.2.1 < v.2.1 || (u.2.1 = v.2.1 && (u.2.2.1 < v.2.2.1 ||
      (u.2.2.1 = v.2.2.1 && u.2.2.2 ≤ v.2.2.2)))))) l

/-- The requests set aside are issued again. -/
def State.reissue (s : State) (core i : Nat) : List (Bool × Nat) → State
  | [] => s
  | (b, n) :: l => if s.mayRaise core i b then (s.issueSlot core i b n true).reissue core i l else s.reissue core i l

/-- The position after a request. -/
def Ctx.after (x : Ctx) (items : Nat) (r : ReqPos) : ReqPos :=
  if r.item + 1 < items then { r with item := r.item + 1 }
  else if r.kk + 1 < x.prob.chunks then { r with kk := r.kk + 1, item := 0 }
  else { step := r.step + 1, kk := 0, item := 0 }

/-- One request of an operand, where it may be made now. -/
def State.ask (s : State) (core i : Nat) (b : Bool) : Option State :=
  let x := s.ctx core i
  let r := x.req b
  let n := x.tail b
  match x.stepOf r.step with
  | none => none
  | some w =>
    let items := w.items b
    let direct := x.kind b != 2
    if !x.mayAsk r.step || (x.slot b n).st != 0 || !x.inOrder b || !s.mayRaise core i b || (direct && s.drained?) then none
    else
      let x := x.setSlot b n { st := 3, step := r.step, kk := r.kk, tile := items[r.item]? }
      let r' := x.after items.length r
      let x := if b then { x with reqB := r', tailB := (n + 1) % 4 } else { x with reqA := r', tailA := (n + 1) % 4 }
      some ((s.setCtx core i x).issueSlot core i b n false)

/-- Everything a context may ask for now: set-aside requests, then new ones, with the steps they need becoming known.
`fuel` bounds the requests. -/
def State.askAll (s : State) (core i : Nat) : Nat → State
  | 0 => s
  | n + 1 =>
    let x := s.ctx core i
    let s := if x.state = xWalking && ((x.stepOf x.reqA.step).isNone || (x.stepOf x.reqB.step).isNone) then
        s.nextStep core i (x.tiles + 1) else s
    match s.ask core i false with
    | some s => s.askAll core i n
    | none =>
      match s.ask core i true with
      | some s => s.askAll core i n
      | none => s

/-- A context's fetches and upcalls brought up to date (R342, R365). -/
def State.pump (s : State) (core i : Nat) : State :=
  let x := s.ctx core i
  if x.state = xWalking || x.state = xPausing then
    let s := if x.queuedSlots.all fun q => x.kind q.1 = 2 || !s.drained? then s.reissue core i x.queuedSlots
      else s.reissue core i (x.queuedSlots.filter fun q => x.kind q.1 = 2)
    s.askAll core i 9
  else s

/-! ## Finishing, pausing and the end of a cancel (R353, R356) -/

/-- Fetches issued that have not landed: while a walk is cancelled those that await service too (R356), else the ones that do not
(log 47). -/
def Ctx.inFlight (x : Ctx) : Bool :=
  [false, true].any fun b => (List.range 4).any fun n => (x.slot b n).lines.any fun l =>
    x.state = xCancelling || !(x.slot b n).faults.contains l

/-- Stores and atomics of the handler groups of a context await acknowledgement. -/
def State.handlerBusy (s : State) (core i : Nat) : Bool :=
  (s.core core).tgs.any fun p => p.2.handler.any (fun id => id % 2 = i) && s.busy (tgActor core p.1)

/-- The context returns to IDLE (R353): its flags join the Spur's, and it leaves its fork set. -/
def State.walkEnd (s : State) (core i status : Nat) : State :=
  let x := s.ctx core i
  let pub := s.pubEntry (travActor core i)
  s.onCore core fun c =>
    let keep : Ctx := { status, flags := x.flags, stepsDone := x.stepsDone, pstall := x.pstall, cstall := x.cstall
                        fstall := x.fstall, upcalls := x.upcalls }
    { (c.setCtx i keep) with
      spur := ({ c.spur with fpctl := fpRaise c.spur.fpctl x.flags }).memberDone (.walk i)
        (if status = 0x10 then 0 else BitVec.ofNat 64 status) pub }

/-- Whether nothing of the context is out: no instance runs, no upcall is queued, no step runs. -/
def State.walkQuiet (s : State) (core i : Nat) : Bool :=
  let c := s.core core
  !(c.ctx i).run && (c.running i).isEmpty && (c.queued i).isEmpty && !(c.ctx i).inFlight

/-- A context's change of state where one is due. -/
def State.walkCheck (s : State) (core i : Nat) : State :=
  let x := s.ctx core i
  if !s.walkQuiet core i then s
  else if x.state = xPausing then s.onCtx core i fun x => { x with state := xPaused }
  else if s.handlerBusy core i then s
  else if x.state = xCancelling then s.walkEnd core i x.endAs
  else if x.state = xWalking && x.allSteps = some x.runStep then s.walkEnd core i 0x10
  else s

/-- A context after anything that may let it go on. -/
def State.walkGo (s : State) (core i : Nat) : State := (s.pump core i).walkCheck core i

/-- Both contexts of a core. -/
def State.walksGo (s : State) (core : Nat) : State := (s.walkGo core 0).walkGo core 1

/-! ## Landings and fetch faults (R335, R346, R363) -/

/-- The slot of a context. -/
def State.slotOf (s : State) (r : SlotRef) : TSlot := (s.ctx r.core r.ctx).slot r.opB r.slot

/-- A slot waits for a line of its fetch, and not for service. -/
def State.slotWaits (s : State) (r : SlotRef) (line : Nat) : Bool :=
  let t := s.slotOf r
  t.st = 1 && t.tile.isSome && t.lines.contains line && !t.faults.contains line

/-- The slots that a line read for one of them reaches: those of its group that wait for the line, or that slot alone (R337). -/
def State.mates (s : State) (r : SlotRef) (line : Nat) : List SlotRef :=
  match (s.slotOf r).group with
  | none => [r]
  | some g =>
    let all := (s.cores.map Prod.fst).flatMap fun c => [0, 1].flatMap fun i => [false, true].flatMap fun b =>
      (List.range 4).map fun n => (⟨c, i, b, n⟩ : SlotRef)
    all.filter fun q => (s.slotOf q).group = some g && s.slotWaits q line

/-- The fetch whose actor reads a line: the first of the group while it waits for the line too. -/
def State.reader (s : State) (r : SlotRef) (line : Nat) : SlotRef :=
  match (s.slotOf r).group.bind fun g => s.arb.find? fun h => h.id = g with
  | some g => if (s.mates r line).contains g.lead then g.lead else r
  | none => r

/-- The reads of a slot's group have begun (R337). -/
def State.arbBegins (s : State) (r : SlotRef) : State :=
  match (s.slotOf r).group with
  | none => s
  | some g => { s with arb := updFirst (fun h => h.id = g) (fun h => { h with begun := true }) s.arb }

/-- A line that has been read reaches a slot, which lands with its last one. -/
def State.slotLine (s : State) (line : Nat) (bs : List Byte) (r : SlotRef) : State :=
  let t := s.slotOf r
  let rest := t.lines.filter (· != line)
  let s := s.onCtx r.core r.ctx fun x => x.setSlot r.opB r.slot { t with lines := rest, got := (line, bs) :: t.got }
  if rest.isEmpty then (s.landSlot r).walkGo r.core r.ctx else s

/-- A slot without a line that will not land: an uncorrectable one, or one whose service firmware has declined (R363). -/
def TSlot.lose (line : Nat) (t : TSlot) : TSlot :=
  { t with lines := t.lines.filter (· != line), faults := t.faults.filter (· != line) }

/-- The fault of a line meets the walk of a slot. -/
def State.slotFault (s : State) (line cause va : Nat) (r : SlotRef) : State :=
  let t := s.slotOf r
  let s := if cause = cMemError then s.onCtx r.core r.ctx fun x => x.setSlot r.opB r.slot (t.lose line) else s
  (s.walkFault r.core r.ctx cause va fun x => x.setSlot r.opB r.slot { t with faults := line :: t.faults }).walkGo r.core r.ctx

/-- One line of a fetch read at its home, or its fault handled: `faults` says which of the two may happen. From the drain horizon
to the saddle's end no line is read (R366): the read and the landing of a line are one turn, so none is between them at a start
(R435). -/
def State.fetchLine (s : State) (core i : Nat) (b : Bool) (n line : Nat) (faults : Bool) : State :=
  let r : SlotRef := ⟨core, i, b, n⟩
  if !s.slotWaits r line || s.drained? then s
  else
    let ms := s.mates r line
    let q := s.reader r line
    let x := s.ctx q.core q.ctx
    match s.engineRead (travActor q.core q.ctx) x.spc x.cseq (128 * line) 128 with
    | .wait => s
    | .ok bs s' => if faults then s else ms.foldl (fun s m => s.slotLine line bs m) (s'.arbBegins r)
    | .fault c v s' => if !faults then s else ms.foldl (fun s m => s.slotFault line c v m) (s'.arbBegins r)

/-! ## Steps (R66, R343, R344) -/

/-- The slots that a chunk reads. -/
def Ctx.chunkSlots (x : Ctx) (b : Bool) (step kk : Nat) : List (Nat × TSlot) :=
  ((List.range 4).map fun n => (n, x.slot b n)).filter fun p => p.2.st != 0 && p.2.step = step && p.2.kk = kk

/-- Every slot that a chunk reads is full. -/
def Ctx.chunkFull (x : Ctx) (w : WStep) (kk : Nat) : Bool :=
  [false, true].all fun b =>
    let l := x.chunkSlots b w.no kk
    l.length = (w.items b).length && l.all fun p => p.2.st = 2

/-- A context is ready to start its next step (R344). -/
def Ctx.ready (x : Ctx) : Bool :=
  x.state = xWalking && !x.run && (x.bank (x.runStep % 2)).st = 0 &&
  match x.stepOf x.runStep with
  | some w => x.chunkFull w 0
  | none => false

/-- A context's place in the choice of R344, smaller first: what was ready when the last step ended, the other context ahead of the
one that ran; then what became ready since, by the cycle. -/
def Core.arraysKey (c : Core) (i : Nat) : Nat :=
  match (c.ctx i).readyAt with
  | some t => if t ≤ c.stepEndAt then (if i = c.lastArrays then 1 else 0) else 2 * t + 2 + i
  | none => 0

/-- The arrays go to a ready context: the other one is not ready or comes after it, and context 1 lets the cycle pass in which
context 0 might become ready too (R344). -/
def State.mayStart (s : State) (core i : Nat) : Bool :=
  let c := s.core core
  let now := s.cyclesOf core
  c.arrays.isNone && (c.ctx i).ready && i ≤ 1 && (!(c.ctx (1 - i)).ready || c.arraysKey i < c.arraysKey (1 - i)) &&
    !(i = 1 && c.stepEndAt < now && (c.ctx 1).readyAt = some now)

/-- STEP_START (R343, R344). -/
def State.stepStart (s : State) (core i : Nat) : State :=
  let x := s.ctx core i
  if !s.mayStart core i then s
  else
    s.onCore core fun c =>
      { (c.setCtx i (({ x with run := true, runKk := 0, runKs := 0, units := [], readyAt := none }).setBank (x.runStep % 2)
          { st := 1, words := [], step := x.runStep, mask := [] })) with arrays := some i }

/-- The operand tile of a slot as the arithmetic reads it. -/
def Ctx.oper (x : Ctx) (b : Bool) (n : Nat) (t : TSlot) : Oper :=
  { at_ := x.prob.slotAt b n, fmt := t.fmt, rows := x.prob.stored b, ksteps := x.prob.ksteps, k0 := 32 * x.prob.ksteps * t.kk }

/-- The K-steps of a chunk for a tile of the step. -/
def Ctx.tileSteps (x : Ctx) (rd : Nat → Byte) (kk ks n : Nat) (w : NMap Word × FFlags) (q : Nat × Tile) : NMap Word × FFlags :=
  let find (b : Bool) (key : Tile → Nat) : Option (Nat × TSlot) :=
    (x.chunkSlots b x.runStep kk).find? fun p => p.2.tile.any fun t => key t = key q.2
  match find false Tile.ti, find true Tile.tj with
  | some a, some b =>
    let k : KIn := { a := x.oper false a.1 a.2, b := x.oper true b.1 b.2, rd, daz := fpDaz x.fp, seed := x.prob.seed
                     col0 := x.prob.first true q.2, k := x.prob.k }
    (List.range n).foldl (fun w j => x.prob.stepTile k (fpFtz x.fp) q.1 q.2 (x.prob.ksteps * kk + ks + j) w) w
  | _, _ => w

/-- The consumers of a completed step raised, in ascending quarter (R343). -/
def State.raiseCons (s : State) (core i : Nat) (w : WStep) : State :=
  let x := s.ctx core i
  w.tiles.foldl (fun s q => s.raiseUp core
    { ctx := i, kind := 2, hid := x.prob.cons, tile := q.2, kk := 0, slot := w.no % 2, sub := q.1, raised := s.cyclesOf core } false) s

/-- A step's end: its bank is held by the consumers, and the arrays are free (R343, R344). -/
def State.stepEnd (s : State) (core i : Nat) (w : WStep) : State :=
  let x := s.ctx core i
  let bk := x.bank (w.no % 2)
  let s := s.trace core 5 (travActor core i) x.spc x.cseq w.no (w.no % 2 + 2 * i)
  let s := s.onCore core fun c =>
    { (c.setCtx i (({ x with run := false, runStep := w.no + 1, runKk := 0, runKs := 0
                             stepsDone := Nat.min (x.stepsDone + 1) (2 ^ 40 - 1)
                             steps := x.steps.filter fun v => w.no < v.no }).setBank (w.no % 2)
        { bk with st := 2, mask := w.tiles.map Prod.fst })) with arrays := none, lastArrays := i, stepEndAt := s.cyclesOf core }
  (s.raiseCons core i w).driveSrc 5

/-- A byte of a slot as the running chunk reads it: a unit that it has read is not read again (R346). -/
def Ctx.byteOf (x : Ctx) (scr : NMap Byte) (a : Nat) : Byte :=
  match x.units.find? fun u => u.1 = a / 16 with
  | some u => u.2.getD (a % 16) 0
  | none => mget 0 scr a

/-- The units that the running chunk has read once `n` more K-steps are done. -/
def Ctx.unitsAfter (x : Ctx) (scr : NMap Byte) (n : Nat) : List (Nat × List Byte) :=
  let us := [false, true].flatMap fun b => (x.chunkSlots b x.runStep x.runKk).flatMap fun p => (x.oper b p.1 p.2).units x.runKs n
  x.units ++ (us.filter fun u => !x.units.any fun v => v.1 = u).map fun u => (u, mbytes 0 scr (16 * u) 16)

/-- CHUNK_COMPLETE (R66, R342, R344): some K-steps of the running chunk; with the last, its slots are freed, and with the
last chunk the step ends. -/
def State.chunkSteps (s : State) (core i ksteps : Nat) : State :=
  let x := s.ctx core i
  match x.stepOf x.runStep with
  | none => s
  | some w =>
    if !x.run || ksteps = 0 || !x.chunkFull w x.runKk then s
    else
      let touched := [false, true].flatMap fun b => (x.chunkSlots b x.runStep x.runKk).map fun p => x.prob.slotAt b p.1
      if touched.any fun a => (List.range (x.prob.slotsz / 128)).any fun j => s.damaged (.scr core (a + 128 * j)) then
        (s.cancelWalk core i 0x14).walkGo core i
      else
        let n := Nat.min ksteps (x.prob.ksteps - x.runKs)
        let scr := (s.core core).scratch
        let rd := x.byteOf scr
        let us := x.unitsAfter scr n
        let bk := x.bank (x.runStep % 2)
        let (ws, fl) := w.tiles.foldl (x.tileSteps rd x.runKk x.runKs n) (bk.words, x.flags)
        let x := { (x.setBank (x.runStep % 2) { bk with words := ws }) with flags := fl, runKs := x.runKs + n }
        if x.runKs < x.prob.ksteps then s.setCtx core i { x with units := us }
        else
          let free (x : Ctx) (b : Bool) : Ctx :=
            (x.chunkSlots b x.runStep x.runKk).foldl (fun x p => x.setSlot b p.1 {}) x
          let x := free (free x false) true
          let x := { x with runKk := x.runKk + 1, runKs := 0, units := [] }
          let s := s.setCtx core i x
          (if x.runKk < x.prob.chunks then s else s.stepEnd core i w).walkGo core i

/-! ## Dispatch (R357, R358) -/

/-- The pool slots of a partition that are free. -/
def State.freePool (s : State) (core part : Nat) : List Nat :=
  ((List.range 16).map (16 * part + ·)).filter fun k => (s.core core).csr.isPool k && s.slotFree core k

/-- Where an instance of a width would go: the partition and its lowest free aligned group (R357). -/
def State.poolPlace (s : State) (core wid : Nat) : Option (Nat × Nat) :=
  let from_ := (s.core core).dptr
  ((List.range 8).map fun i => (from_ + 1 + i) % 8).findSome? fun p =>
    (alignedIn (s.freePool core p) p wid).map fun b => (p, b)

/-- A handler-table entry. -/
def Core.handlerAt (c : Core) (id : Nat) : Option Handler := mget none c.handlers id

/-- The oldest queued upcall that may be dispatched, with its handler and place: none passes an older one of its handler. -/
def State.dispatchable (s : State) (core : Nat) : List Nat → List Upcall → Option (Upcall × Handler × Nat × Nat)
  | _, [] => none
  | seen, u :: l =>
    let c := s.core core
    if seen.contains u.hid then s.dispatchable core seen l
    else
      match c.handlerAt u.hid with
      | none => s.dispatchable core (u.hid :: seen) l
      | some h =>
        let n := (c.insts.filter fun x => x.up.hid = u.hid).length
        match if n < h.maxi then s.poolPlace core h.wid else none with
        | some (p, b) => some (u, h, p, b)
        | none => s.dispatchable core (u.hid :: seen) l

/-- The lowest instance number that a handler does not use. -/
def Core.freeInst (c : Core) (hid : Nat) : Nat :=
  ((List.range 16).find? fun n => !c.insts.any fun x => x.up.hid = hid && x.inst = n).getD 0

/-- UPCALL_DISPATCH (R357, R358, R302). -/
def State.dispatch (s : State) (core : Nat) : State :=
  match s.dispatchable core [] (s.core core).upq with
  | none => s
  | some (u, h, part, base) =>
    let c := s.core core
    let x := c.ctx u.ctx
    let inst := c.freeInst u.hid
    let id := 2 * c.nextInst + u.ctx
    let gs := descriptor x u inst
    let mk (i : Nat) : Tg :=
      { used := true, live := 0xFFFF, path := 0xFFFF, pc := h.pc, regs := h.regs
        g := ((gs ++ [BitVec.ofNat 64 i]).zip (List.range 7)).foldl (fun m p => mset 0 m p.2 p.1) []
        fpctl := fpClear x.fp, width := h.wid, base, order := c.spawnNo + 1, wakeAt := u.raised + 12, spc := x.spc
        seq := x.cseq, handler := some id, halted := c.haltAll }
    let s := s.onCore core fun c =>
      { c with upq := c.upq.erase u, insts := c.insts ++ [⟨id, u, inst, (List.range h.wid).map (base + ·), 0⟩]
               nextInst := c.nextInst + 1, dptr := part, spawnNo := c.spawnNo + 1 }
    (List.range h.wid).foldl (fun s i =>
      (s.setTg core (base + i) (mk i)).startActor (tgActor core (base + i)) (travActor core u.ctx) x.pub) s

/-! ## The end of an instance (R361) -/

/-- The member groups of an instance that have not ended; another instance may have a slot of one that has. -/
def Core.members (c : Core) (n : Inst) : List Nat := n.slots.filter fun k => (c.tg k).alive && (c.tg k).handler = some n.id

/-- The flags of a member that has ended are kept for the walk (R361). -/
def Core.keepFlags (c : Core) (id : Nat) (fl : FFlags) : Core :=
  { c with insts := c.insts.map fun n => if n.id = id then { n with flags := n.flags ||| fl } else n }

/-- A running instance by its number. -/
def Core.instOf (c : Core) (id : Nat) : Option Inst := c.insts.find? fun n => n.id = id

/-- The instance's hold returned: the slot full with a format word, or its share of the bank (R342, R343, R361). -/
def State.instReturn (s : State) (core : Nat) (n : Inst) (fmt : Word) : State :=
  let u := n.up
  s.onCtx core u.ctx fun x =>
    if u.kind = 2 then
      let b := x.bank u.slot
      let m := b.mask.filter (· != u.sub)
      x.setBank u.slot (if m.isEmpty then {} else { b with mask := m })
    else
      let t := x.slot (u.kind = 1) u.slot
      if t.st = 1 then x.setSlot (u.kind = 1) u.slot { t with st := 2, fmt } else x

/-- The instance leaves the core's table. -/
def State.instDrop (s : State) (core id : Nat) : State :=
  s.onCore core fun c => { c with insts := c.insts.filter fun n => n.id != id }

/-- Every member group of an instance has ended without HRET (R361): the hold is released and the walk is cancelled. -/
def State.instGone (s : State) (core id : Nat) : State :=
  match (s.core core).instOf id with
  | none => s
  | some n =>
    if !((s.core core).members n).isEmpty then s
    else (((s.instReturn core n 0).instDrop core id).cancelWalk core n.up.ctx 0x13).walkGo core n.up.ctx

/-! ## Starting a walk (R302, R327, R340, R341, R354) -/

/-- The lowest-numbered idle context. -/
def Core.idleCtx (c : Core) : Option Nat := [0, 1].find? fun i => (c.ctx i).state = xIdle

/-- What a walk on a context checks besides its record. -/
def State.walkEnv (s : State) (core : Nat) : WalkEnv :=
  let c := s.core core
  { cplx := s.hasCplx, spgen := s.hasSpgen, peer := s.hasPeer
    hasHandler := fun id => (c.handlerAt id).isSome
    others := ([0, 1].map fun i => c.ctx i).filterMap fun x =>
      if x.state = xIdle then none else some (x.prob.slotoff, x.prob.slotsz) }

/-- What reading and checking a record gives. -/
inductive WalkAns
  | wait
  | refused (code : Nat) (s : State)
  | fault (cause va : Nat) (s : State)
  | ok (p : Prob) (offs : List Nat) (s : State)

/-- The words of some bytes. -/
def wordsOf (n : Nat) (bs : List Byte) : List Nat := (List.range n).map fun i => fieldAt bs (4 * i) 4

/-- The record read once at its home, checked, and the offsets of a grouped walk (R340, R341, R354 steps 4 to 6). The reads
are those of the context that takes the walk, whose Cairn state starts here (R302), under the number that the walk takes (R462). -/
def State.walkRead (s : State) (core ctx : Nat) (spc : DWord) (va : Nat) : WalkAns :=
  if s.drained? then .wait
  else
    let a := travActor core ctx
    let s := s.startActor a (spurActor core) (s.pubEntry (spurActor core))
    let seq := (s.core core).launch.elim 0 Launch.nextSeq
    match s.engineBytes a spc seq 3 va 256 with
    | .wait => .wait
    | .fault c v s => .fault c v s
    | .ok bs s =>
      let code := refuseCode bs (s.walkEnv core)
      let p := Prob.ofBytes bs
      if code != 0 then .refused code s
      else if !p.grouped then .ok p [] s
      else
        match s.engineBytes a spc seq (4 * (p.g + 1) / 128 + 2) p.offs (4 * (p.g + 1)) with
        | .wait => .wait
        | .fault c v s => .fault c v s
        | .ok os s =>
          let offs := wordsOf (p.g + 1) os
          if badOffsets p.m offs then .refused 0x06 s else .ok p offs s

/-- A context takes a walk (R354 step 7): `pub` is the Spur's entry that the instruction published. -/
def State.walkStart (s : State) (core ctx : Nat) (p : Prob) (offs : List Nat) (recva spc seq : DWord)
    (fset : Option Nat) (pub : ViewEnt × BitVec 18) : State :=
  let fp := (s.core core).spur.fpctl
  (s.setCtx core ctx { state := xWalking, prob := p, recva, cseq := seq, spc, offs, fp, fset, pub }).walkGo core ctx

/-- The launch's next command sequence number taken (R462). -/
def State.takeSeq (s : State) (core : Nat) : State × DWord :=
  match (s.core core).launch with
  | none => (s, 0)
  | some l => (s.onCore core fun c => { c with launch := some { l with nextSeq := l.nextSeq + 1 } }, l.nextSeq)

end Sys2Proof.Machine
end

