-- ==== Sys2Proof/Machine/Couloir.lean ====
section
/-! DEFINITION. Couloir: queues, command records, issue, landing and completion, faults and program ends
(R92, R93, R164, R377 to R397). -/

namespace Sys2Proof.Machine

/-! ## End codes (R390) -/

def qBadCommand : Nat := 0x01
def qUnitAbsent : Nat := 0x02
def qBadShape : Nat := 0x03
def qMisaligned : Nat := 0x04
def qScratchRange : Nat := 0x05
def qTranslation : Nat := 0x06
def qPermission : Nat := 0x07
def qMemError : Nat := 0x08
def qBadOperand : Nat := 0x09
def qBarrierLap : Nat := 0x0A

/-! ## Queues and places -/

/-- A queue of the device. -/
def State.queue (s : State) (core q : Nat) : Queue := (s.core core).queue q
/-- The state with a queue replaced. -/
def State.setQueue (s : State) (core q : Nat) (x : Queue) : State := s.onCore core fun c => c.setQueue q x
/-- The state with a queue changed. -/
def State.onQueue (s : State) (core q : Nat) (f : Queue → Queue) : State := s.setQueue core q (f (s.queue core q))

/-- A place in global memory, the domain window among it. -/
def Place.isGlob : Place → Bool
  | .scr _ _ => false
  | _ => true

/-- The place `n` bytes on; a global one may run into the domain window. -/
def Place.at_ (p : Place) (n : Nat) : Place :=
  match p with
  | .glob a va | .win a va => vaPlace a (va + n)
  | .scr c off => .scr c (off + n)

/-- The number that names a destination line in an event: VA / 128 of a global line, and 2^49 + 4096 × core + line of a
scratch line. -/
def Place.item (p : Place) : Nat :=
  match p with
  | .scr c off => 2 ^ 49 + 4096 * c + off / 128
  | p => p.addr / 128

/-- A row that leaves the scratchpad (R380 check 4). -/
def rowOver (p : Place) (len : Nat) : Bool := match p with | .scr _ off => off + len > 524288 | _ => false

/-- A row that touches the domain window of a device without peer links (R7). -/
def State.rowFar (s : State) (p : Place) (len : Nat) : Bool :=
  !s.hasPeer && p.isGlob && p.addr < 2 ^ 56 && p.addr + len > 0x00FF000000000000

/-- An outstanding fault of a line (R395). -/
def Queue.faulted (x : Queue) (p : Place) : Bool := p.isGlob && x.faults.any fun f => f.2 / 128 = p.addr / 128

/-! ## Ending a program (R164, R292, R390, R393, R395) -/

/-- The clear lines of a queue stranded. -/
def strand (a : Nat) (l : List Absent) : List Absent := updAll (fun b => b.queue = a) (fun b => { b with stranded := true }) l
/-- Those of a saved image's scratchpad. -/
def Img.strand (a : Nat) (i : Img) : Img := { i with saved := { i.saved with absent := Machine.strand a i.saved.absent } }

/-- Every scratch line that a queue has not landed becomes stranded, and its ownership goes (R292, R393). -/
def State.abandon (s : State) (a : Nat) : State :=
  { s with
    absent := strand a s.absent
    images := s.images.map (Img.strand a)
    owners := s.owners.filter fun o => o.actor != a }

/-- The queue is IDLE: flags join the Spur's, and its fork set loses it (R160, R390). -/
def State.queueFinish (s : State) (core q code : Nat) : State :=
  let x := s.queue core q
  let a := queueActor core q
  let pub := s.pubEntry a
  let s := s.trace core 6 a x.spc x.seq x.ridx code
  let s := s.onCore core fun c =>
    let y : Queue := { x with run := false, code, ending := none, pend := none, read := [], cmd := none, faults := [], late := []
                              statusSent := false, declined := none }
    { c.setQueue q y with
      spur := ({ c.spur with fpctl := fpRaise c.spur.fpctl x.flags }).memberDone (.queue q)
        (if code = 0 then 0 else BitVec.ofNat 64 ((q + 1) * 2 ^ 32 + code)) pub }
  s.driveSrc 6

/-- The status word of an end code (R390). -/
def statusWord (ridx code : Nat) : DWord := if code = 0 then 0 else BitVec.ofNat 64 (ridx % 2 ^ 32 * 2 ^ 32 + code)

/-- A program that is ending goes on: its accesses are awaited, its status word is written as a release at `.core` and
acknowledged, and it ends (R164). -/
def State.queueSettle (s : State) (core q : Nat) : State :=
  let x := s.queue core q
  let a := queueActor core q
  match x.ending with
  | none => s
  | some code =>
    if s.busy a || !x.late.isEmpty then s
    else
      match decodeEa core (s.asidOf core) x.stva with
      | .ok p =>
        if x.stva != 0 && !x.statusSent then
          if p.isGlob && s.drained? then s
          else
          let acc := s.newAcc a (s.nextPos a) 0 x.spc x.seq 1 false true
          let s := s.issueEntry acc p 0 (.store (leBytes 8 (statusWord x.ridx code).toNat)) none none
          ((s.publish a).bump a).onQueue core q fun x => { x with statusSent := true }
        else s.queueFinish core q code
      | .bad _ => s.queueFinish core q code

/-- A program ends with a code (R390, R395). -/
def State.queueEnd (s : State) (core q code : Nat) : State :=
  ((s.abandon (queueActor core q)).onQueue core q fun x =>
    { x with pend := none, read := [], cmd := none, faults := [], late := [], declined := none, ending := some code }).queueSettle core q

/-! ## Faults (R395) -/

/-- A fault that firmware may serve. -/
def servable (cause : Nat) (p : Place) : Bool := p.isGlob && (cause = cTranslation || cause = cPermission)

/-- The end code of a fault. -/
def faultCode (cause : Nat) : Nat :=
  if cause = cTranslation then qTranslation else if cause = cPermission then qPermission else qMemError

/-- The trap ring entry of a queue's fault. -/
def State.queuePost (s : State) (core q cause : Nat) (addr : DWord) (flags : Nat) : State :=
  let x := s.queue core q
  let ids := s.launchIds core
  s.post { core, actor := queueActor core q, cause, flags, seq := x.seq, spc := x.spc, addr, aux := BitVec.ofNat 64 x.ridx
           vif := ids.1, asid := ids.2 }

/-- A fault of a line read or write: it awaits service, or the program ends at once. -/
def State.queueFault (s : State) (core q cause : Nat) (p : Place) : State :=
  let x := s.queue core q
  if !servable cause p then s.queueEnd core q (faultCode cause)
  else if x.faulted p then s
  else (s.setQueue core q { x with faults := x.faults ++ [(cause, p.addr)] }).queuePost core q cause
    (BitVec.ofNat 64 p.addr) fService

/-- An access of a queue that its home has refused, just returned: of a status word a notice, else as a line's (R164, R395). -/
def State.queueLate (s : State) (core q : Nat) (o : LateOp) : State :=
  let x := s.queue core q
  let p : Place := match o.op with | .entry e => e.place | .load _ => .glob 0 0
  if x.statusSent then
    let s := s.queuePost core q o.cause x.stva 0
    s.queueFinish core q (x.ending.getD 0)
  else if servable o.cause p then s.queuePost core q o.cause (BitVec.ofNat 64 p.addr) fService
  else s.queueEnd core q (faultCode o.cause)

/-- After an Acknowledge step of a queue's access. -/
def State.queueReply (s : State) (a before : Nat) : State :=
  if lowOf a < 0x84 || isDevActor a then s
  else
    let core := coreOf a
    let q := lowOf a - 0x84
    let s := match (s.queue core q).late[before]? with
      | some o => s.queueLate core q o
      | none => s
    s.queueSettle core q

/-! ## Line reads (R36, R377, R392) -/

/-- What a read of a queue gives. -/
inductive QRead
  | wait
  | ok (bytes : List Byte) (s : State)
  | fault (cause : Nat) (p : Place) (s : State)

/-- A queue's next access waits for the acknowledgement of an acquire atomic of an earlier CSIG (R41, R387). -/
def State.queueAcquiring (s : State) (core q : Nat) : Bool :=
  let a := queueActor core q
  s.acquiring a (s.nextPos a) || !(s.queue core q).late.isEmpty

/-- A read of bytes of one line at its home. `own` says that the command itself has cleared the line. -/
def State.queueRead (s : State) (core q : Nat) (p : Place) (n : Nat) (own : Bool) (sc : Nat) : QRead :=
  let x := s.queue core q
  let a := queueActor core q
  if x.faulted p || s.restoring a p || (p.isGlob && s.drained?) || s.queueAcquiring core q then .wait
  else if own then
    match s.loc a .rd p with
    | .error c => .fault c p s
    | .ok loc =>
      if s.dramHeld loc then .wait
      else if s.damaged loc then .fault cMemError p s else .ok (s.locBytes loc n) s
  else
    let acc := s.newAcc a (s.nextPos a) 0 x.spc x.seq sc (sc != 0) false
    match s.loadHome ⟨acc, n, [], ⟨.main 0, .word⟩⟩ false p with
    | .wait => .wait
    | .value v _ s => .ok (leBytes n v) s
    | .fault c _ s => .fault c p s

/-- A span of bytes cut at lines: the place and the size of each part. `fuel` bounds the lines. -/
def cuts : Nat → Place → Nat → List (Place × Nat)
  | 0, _, _ => []
  | fuel + 1, p, n =>
    if n = 0 then []
    else
      let k := Nat.min n (128 - p.addr % 128)
      (p, k) :: cuts fuel (p.at_ k) (n - k)

/-- The bytes of a span, each part of it read as `f` does. -/
def queueBytes (f : State → Place → Nat → QRead) : List (Place × Nat) → State → QRead
  | [], s => .ok [] s
  | (p, k) :: l, s =>
    match f s p k with
    | .ok bs s =>
      match queueBytes f l s with
      | .ok cs s => .ok (bs ++ cs) s
      | r => r
    | r => r

/-- What the record in hand has already read at a place. -/
def Queue.readOf (x : Queue) (p : Place) (n : Nat) : Option (List Byte) :=
  (x.read.find? fun r => r.1 = p && r.2.length = n).map Prod.snd

/-- A read of the record in hand that is made once (R380, R384). -/
def State.onceRead (core q : Nat) (s : State) (p : Place) (n : Nat) : QRead :=
  match (s.queue core q).readOf p n with
  | some bs => .ok bs s
  | none =>
    match s.queueRead core q p n false 0 with
    | .ok bs s => .ok bs (s.onQueue core q fun x => { x with read := (p, bs) :: x.read })
    | r => r

/-- The 2048 decoded bytes of the compression block that holds a VA (R264, R386). -/
def State.blockRead (s : State) (core q : Nat) (p : Place) : QRead :=
  match queueBytes (fun s p n => s.queueRead core q p n false 0) (cuts 16 p 2048) s with
  | .ok bs s =>
    match s.loc (queueActor core q) .rd p with
    | .ok (.phys g) =>
      if !g.c then .ok bs s
      else if s.damage.contains (.block (g.phys / 2048)) || !descOk (s.desc g.phys) then .fault cMemError p s
      else
        let (s, d, pay) := s.rawFetch g
        if d % 32 = 16 then .ok pay s
        else match fbpDecode (2 ^ g.ew) pay with
          | some l => .ok l s
          | none => .fault cMemError p s
    | _ => .ok bs s
  | r => r

/-! ## Pieces (R381 to R386) -/

/-- Bytes of a converted element. -/
def convBytes (cv : Conv) : Nat := match cv with | .none => 4 | .bf16 | .f16 => 2 | .e4m3 => 1
/-- The format of a conversion. -/
def convFmt (cv : Conv) : Fmt := match cv with | .bf16 => Sys2Proof.Machine.bf16 | .f16 => fp16 | .e4m3 => Sys2Proof.Machine.e4m3 | .none => fp32

/-- A row cut at the lines of its destination. -/
def cutRow (dst : Place) (len : Nat) (src : Nat → CSrc) : List Piece :=
  let r := dst.addr % 128
  (List.range ((r + len + 127) / 128)).map fun i =>
    let lo := if i = 0 then 0 else 128 * i - r
    ⟨dst.at_ lo, Nat.min len (128 * (i + 1) - r) - lo, src lo⟩

/-- Elements of a command. -/
def Cmd.total (c : Cmd) : Nat := c.rows.length * c.perRow
/-- The place of an element. -/
def Cmd.elem (c : Cmd) (j : Nat) : Place := (c.rows.getD (j / c.perRow) (.scr 0 0)).at_ (4 * (j % c.perRow))

/-- The source lines that a piece needs. -/
def Cmd.sources (c : Cmd) (sr : Bool) (p : Piece) : List Place :=
  match p.src with
  | .copy src => (List.range ((src.addr % 128 + p.len + 127) / 128)).map fun i => (src.line.at_ (128 * i))
  | .fill _ _ => []
  | .conv e =>
    let n := p.len / convBytes c.conv
    let lo := if sr then e / 16 * 16 else e
    let hi := if sr then Nat.min c.total ((e + n + 15) / 16 * 16) else e + n
    ((List.range (hi - lo)).map fun i => (c.elem (lo + i)).line).eraseDups

/-- A byte of a source line that has been read. -/
def Cmd.byte (c : Cmd) (p : Place) : Byte :=
  match c.got.find? fun g => g.1 = p.line with
  | some g => g.2.getD (p.addr % 128) 0
  | none => 0

/-- The bytes of a piece from the lines that have been read, with the flags of its conversions (R63, R382, R385). -/
def Cmd.data (c : Cmd) (fp : DWord) (p : Piece) : List Byte × FFlags :=
  match p.src with
  | .copy src => ((List.range p.len).map fun i => c.byte (src.at_ i), 0)
  | .fill pat off => ((List.range p.len).map fun i => pat.extractLsb' (8 * ((off + i) % 4)) 8, 0)
  | .conv e =>
    let f := convFmt c.conv
    let val (j : Nat) : FV := FV.ofBits fp32 (fpDaz fp) (leNat ((List.range 4).map fun i => c.byte ((c.elem j).at_ i)))
    let disc (j : Nat) : Nat := if j < c.total then f.discard (val j) else 0
    let one (j : Nat) : Nat × FFlags :=
      let g := j / 16 * 16
      let t := if fpIsSr fp then srMix (disc (g + (j + 15) % 16)) (disc (g + (j + 1) % 16)) else 0
      f.round { mode := fpRm fp, ftz := fpFtz fp, sat := c.conv = .e4m3, t } (val j)
    let rs := (List.range (p.len / convBytes c.conv)).map fun i => one (e + i)
    (rs.flatMap fun r => leBytes (convBytes c.conv) r.1, rs.foldl (fun x r => x ||| r.2) 0)

/-- A source line read once for the command (R392). -/
def State.lineGet (s : State) (core q : Nat) (c : Cmd) (p : Place) : QRead × Cmd :=
  if c.got.any fun g => g.1 = p then (.ok [] s, c)
  else
    match c.op with
    | .cdec _ _ _ =>
      let b : Place := match p with | .glob a va => .glob a (va / 2048 * 2048) | .win a va => .win a (va / 2048 * 2048) | p => p
      match s.blockRead core q b with
      | .ok bs s => (.ok [] s, { c with got := ((List.range 16).map fun i => (b.at_ (128 * i), (bs.drop (128 * i)).take 128)) ++ c.got })
      | r => (r, c)
    | _ =>
      let own := match p with | .scr k off => c.cleared.contains (k, off / 128) | _ => false
      match s.queueRead core q p 128 own 0 with
      | .ok bs s => (.ok [] s, { c with got := (p, bs) :: c.got })
      | r => (r, c)

/-- The pieces of a command in a destination line. -/
def Cmd.at_ (c : Cmd) (ln : Place) : List Piece := c.pieces.filter fun p => p.dst.line = ln

/-- The source lines that a destination line needs and that have not been read (R392). -/
def Cmd.missing (c : Cmd) (sr : Bool) (ln : Place) : List Place :=
  ((c.at_ ln).flatMap (c.sources sr)).eraseDups.filter fun p => !c.got.any fun g => g.1 = p

/-- Bytes laid over a line's. -/
def overlay (line : List (Option Byte)) (off : Nat) (bs : List Byte) : List (Option Byte) :=
  (List.range 128).map fun i => if off ≤ i && i < off + bs.length then bs[i - off]? else line.getD i none

/-- The runs of bytes that a line holds, by offset. -/
def runsOf : Nat → List (Option Byte) → List (Nat × List Byte)
  | _, [] => []
  | i, none :: l => runsOf (i + 1) l
  | i, some b :: l =>
    match runsOf (i + 1) l with
    | (j, bs) :: r => if j = i + 1 then (i, b :: bs) :: r else (i, [b]) :: (j, bs) :: r
    | [] => [(i, [b])]

/-- One run written at its home in one Apply step (R39, R289, R307). -/
def State.writeRun (s : State) (acc : Acc) (p : Place) (bs : List Byte) : Except Nat State :=
  match s.loc acc.actor .wr p with
  | .error c => .error c
  | .ok loc =>
    let uid := s.nextUid
    let e : Entry := { uid, acc, place := p, lanes := 0, eff := .store bs, dest := none, page := none }
    let s := ({ s with nextUid := uid + 1 } : State).applyAt e loc
    let cause := match s.done.find? fun d => d.e.uid = uid with | some d => d.cause | none => 0
    if cause = 0 then .ok { s with done := s.done.filter fun d => d.e.uid != uid } else .error cause

/-- Runs written in turn. -/
def State.writeRuns (s : State) (acc : Acc) (line : Place) : List (Nat × List Byte) → Except Nat State
  | [] => .ok s
  | (o, bs) :: l =>
    match s.writeRun acc (line.at_ o) bs with
    | .ok s => s.writeRuns acc line l
    | .error c => .error c

/-- A scratch line landed by one clearer (R23, R393). -/
def State.landed (s : State) (a core line : Nat) : State :=
  { s with absent := s.absent.filter fun b => !(b.core = core && b.line = line && b.queue = a && !b.stranded) }

/-- The home of a destination line, whatever its page allows. -/
def State.lineHome (s : State) (a : Nat) (ln : Place) : Option Loc :=
  match s.loc a .wr ln, s.loc a .rd ln with
  | .ok l, _ | .error _, .ok l => some l
  | .error _, .error _ => none

/-- Ownership of a global line taken at its home, where the queue has none of it; the core's copy goes (R24, R39). -/
def State.own (s : State) (a : Nat) (ln : Place) : State :=
  match (s.lineHome a ln).bind Loc.line? with
  | none => s
  | some n =>
    if s.owners.contains ⟨n, a⟩ then s
    else
      let s : State := { s with owners := s.owners ++ [⟨n, a⟩] }
      match ln with
      | .glob asid va => s.onCore (coreOf a) fun c => c.dropCopy asid (va / 128)
      | _ => s

/-- The bytes of a destination line written at its home, which has then landed or been disowned; or what stops the write. -/
def State.lineWrite (s : State) (core q : Nat) (c : Cmd) (ln : Place) : QRead :=
  let x := s.queue core q
  let a := queueActor core q
  if s.restoring a ln || x.faulted ln || s.queueAcquiring core q || (ln.isGlob && s.drained?) then .wait
  else
    match s.loc a .wr ln with
    | .error cause => .fault cause ln s
    | .ok loc =>
      if s.ownedByOther a loc || s.dramHeld loc then .wait
      else
        let (line, fl) := (c.at_ ln).foldl (fun (r : List (Option Byte) × FFlags) p =>
          let (bs, f) := c.data x.fp p
          (overlay r.1 (p.dst.addr % 128) bs, r.2 ||| f)) (List.replicate 128 none, 0)
        let acc := s.newAcc a (s.nextPos a) 0 x.spc x.seq 0 false false
        match s.writeRuns acc ln (runsOf 0 line) with
        | .error cause => .fault cause ln s
        | .ok s =>
          let c := { c with pieces := c.pieces.filter fun p => p.dst.line != ln, lines := c.lines.erase ln }
          let s := s.onQueue core q fun x => { x with cmd := some c, flags := x.flags ||| fl }
          .ok [] (match ln, loc.line? with
            | .scr k off, _ => s.landed a k (off / 128)
            | _, some n => { s with owners := s.owners.erase ⟨n, a⟩ }
            | _, none => s)

/-- A step of a destination line of a command: one source line that it still needs is read, the one that the event's subject picks
among them or else the first; once all are read, the line is written (R381, R392). -/
def State.lineTry (s : State) (core q : Nat) (ln : Place) : QRead :=
  match (s.queue core q).cmd with
  | none => .wait
  | some c =>
    let s := s.own (queueActor core q) ln
    let miss := c.missing (fpIsSr (s.queue core q).fp) ln
    match miss[s.subj.1]? <|> miss.head? with
    | none => s.lineWrite core q c ln
    | some p =>
      match s.lineGet core q c p with
      | (.ok _ s, c) => .ok [] (s.onQueue core q fun x => { x with cmd := some c })
      | (r, _) => r

/-- The destination line that an event names. -/
def Queue.lineOf (x : Queue) (item : Nat) : Option Place :=
  match x.cmd with
  | some c => c.lines.find? fun p => p.item = item
  | none => none

/-- A destination line whose sources have all been read, and which is not refused: its data are in flight. -/
def Queue.inFlight (x : Queue) (ln : Place) : Bool :=
  match x.cmd with
  | some c => (c.missing (fpIsSr x.fp) ln).isEmpty && !x.faulted ln
  | none => false

/-- A program whose fault firmware has declined ends once no line is in flight (R395). -/
def State.queueDecline (s : State) (core q : Nat) : State :=
  let x := s.queue core q
  match x.declined, x.cmd with
  | some code, some c => if c.lines.any x.inFlight then s else s.queueEnd core q code
  | some code, none => s.queueEnd core q code
  | none, _ => s

/-- The destination line that an event names and that may go on: after a decline only one that is in flight (R395). -/
def Queue.openLine (x : Queue) (item : Nat) : Option Place :=
  (x.lineOf item).filter fun ln => x.declined.isNone || x.inFlight ln

/-- A line of a command finished, scratch or global as `glob` says. -/
def State.lineStep (s : State) (core q item : Nat) (glob : Bool) : State :=
  match (s.queue core q).openLine item with
  | none => s
  | some ln =>
    if ln.isGlob != glob then s
    else match s.lineTry core q ln with
      | .ok _ s => s.queueDecline core q
      | _ => s

/-- A fault of a line of a command. -/
def State.lineFault (s : State) (core q item : Nat) : State :=
  match (s.queue core q).openLine item with
  | none => s
  | some ln =>
    match s.lineTry core q ln with
    | .fault cause p s => (s.queueFault core q cause p).queueDecline core q
    | _ => s

/-! ## Issue (R380, R381) -/

/-- What a command would do, with its checks 3 to 6 (R380). -/
structure Plan where
  unit : Bool := false
  shape : Bool := false
  mis : Bool := false
  scr : Bool := false
  pieces : List Piece := []
  rows : List Place := []
  perRow : Nat := 1
  conv : Conv := .none

/-- A scratch line's presence bit cleared by a command (R393): a stranded line's clearers are counted afresh. -/
def State.clearBit (s : State) (a core line : Nat) : State :=
  let here (b : Absent) : Bool := b.core = core && b.line = line
  let l := if s.absent.any fun b => here b && b.stranded then s.absent.filter fun b => !here b else s.absent
  let mine : Absent := ⟨core, line, a, false⟩
  { s with absent := if l.contains mine then l else mine :: l }

/-- The claim of one destination line: the presence bit of a scratch line that its core serves, or ownership at the home
(R39, R292, R381). A line whose page is mapped later is claimed when it is issued again. -/
def State.claim (s : State) (a : Nat) (ln : Place) : State :=
  match s.loc a .wr ln with
  | .ok (.scr k off) => s.clearBit a k (off / 128)
  | _ => s.own a ln

/-- The command issues: its destination lines are claimed (R381). The clearing of a line on a core whose launch is being
restored waits as any access to it does (R245). -/
def State.queueIssue (s : State) (core q : Nat) (i : Instr) (p : Plan) : State :=
  let a := queueActor core q
  let lines := (p.pieces.map fun x => x.dst.line).eraseDups
  if lines.any (s.restoring a) then s
  else
  let s := lines.foldl (fun s ln => s.claim a ln) s
  let cleared := lines.filterMap fun ln => match ln with | .scr k off => some (k, off / 128) | _ => none
  (s.onQueue core q fun x =>
    { x with
      pend := none, read := []
      cmd := some { op := i, pieces := p.pieces, lines, cleared, rows := p.rows, perRow := p.perRow, conv := p.conv } }).bump a

/-- The end code of the first failing check of 3 to 6, 0 for none. -/
def Plan.code (p : Plan) : Nat :=
  if p.unit then qUnitAbsent else if p.shape then qBadShape else if p.mis then qMisaligned else if p.scr then qScratchRange
  else 0

/-- A command checked, and issued where it passes. -/
def State.queueCheck (s : State) (core q : Nat) (i : Instr) (p : Plan) : State :=
  if p.code = 0 then s.queueIssue core q i p else s.queueEnd core q p.code

/-- A queue's meaning; another agent has no such command. -/
def onQueue (s : State) (f : Nat → Nat → State) : Out :=
  match s.who with
  | .queue c q => .next (f c q)
  | _ => .next s

/-- The next record is the one after (R377). -/
def State.queueNext (s : State) (core q : Nat) : State :=
  s.onQueue core q fun x => { x with pend := none, read := [], cmd := none, met := false, recva := x.recva + 16 }

/-- COMMAND_COMPLETE (R381): every line is finished and no atomic is left in the store queue. -/
def State.commandDone (s : State) (core q : Nat) : State :=
  let x := s.queue core q
  let a := queueActor core q
  match x.cmd with
  | some c =>
    if c.lines.isEmpty && x.faults.isEmpty && x.declined.isNone && (s.actor a).storeQ.isEmpty then
      ({ s with owners := s.owners.filter fun o => o.actor != a } : State).queueNext core q
    else s
  | none => s

/-! ## Copies (R382, R383) -/

/-- A conversion under a sampled SR needs the stochastic-rounding unit (R380 check 3). -/
def State.convAbsent (s : State) (fp : DWord) (cv : Conv) : Bool := cv != .none && fpIsSr fp && !s.hasSrnd

/-- A row length that a conversion cannot take (R382). -/
def convShape (cv : Conv) (len : Nat) : Bool :=
  match cv with | .none => false | .bf16 | .f16 => len % 32 != 0 | .e4m3 => len % 64 != 0

/-- The bytes that a row writes. -/
def convLen (cv : Conv) (len : Nat) : Nat := len / 4 * convBytes cv

/-- The pieces of copied rows, source first. -/
def copyPieces (cv : Conv) (len : Nat) (rows : List (Place × Place)) : List Piece :=
  (rows.zip (List.range rows.length)).flatMap fun r =>
    cutRow r.1.2 (convLen cv len) fun o =>
      if cv = .none then .copy (r.1.1.at_ o) else .conv (r.2 * (len / 4) + o / convBytes cv)

/-- What checks 3, 4 and 6 find in the rows of one end, each a place or the end code of what is wrong with its address (R380). -/
def State.endPlan (s : State) (len : Nat) (rows : List (Except Nat Place)) (p : Plan) : Plan :=
  { p with
    unit := p.unit || rows.any fun r => match r with | .ok q => s.rowFar q (Nat.max 1 len) | .error _ => false
    shape := p.shape || rows.any fun r => match r with | .ok q => rowOver q len | .error c => c = qBadShape
    scr := p.scr || rows.any fun r => match r with | .ok _ => false | .error c => c = qScratchRange }

/-- The plan of some rows: each end is judged by itself. -/
def State.copyPlan (s : State) (fp : DWord) (cv : Conv) (len : Nat) (src dst : List (Except Nat Place)) (p : Plan) : Plan :=
  let p := s.endPlan len src (s.endPlan (convLen cv len) dst p)
  let rows := (src.zip dst).filterMap fun r => match r with | (.ok a, .ok b) => some (a, b) | _ => none
  { p with
    unit := p.unit || s.convAbsent fp cv, shape := p.shape || convShape cv len
    pieces := copyPieces cv len rows, rows := rows.map Prod.fst, perRow := Nat.max 1 (len / 4), conv := cv }

/-- The place of an address, if it names one. -/
def Addr.place? (x : Addr) : Option Place := match x.ans with | .ok p => some p | .bad _ => none

/-- A scratch word's address. -/
def wordAddr (core : Nat) (w : Word) : Addr := ⟨w.setWidth 64, decodeSa core w⟩

/-- A one-dimensional copy (R382): `out` writes the global end. -/
def State.flatPlan (s : State) (core : Nat) (fp : DWord) (cv : Conv) (carg : BitVec 16) (glob : DWord) (scr : Word)
    (out : Bool) : Plan :=
  let len := 16 * (carg.toNat + 1)
  let end_ (ok : Place → Bool) (x : Addr) : List (Except Nat Place) :=
    match x.place? with
    | some p => if ok p then [.ok p] else [.error qScratchRange]
    | none => [.error qScratchRange]
  let g := end_ Place.isGlob (s.eaOf core glob)
  let k := end_ (fun _ => true) (wordAddr core scr)
  let p : Plan := { mis := glob.toNat % 16 != 0 || scr.toNat % 16 != 0 }
  if out then s.copyPlan fp cv len k g p else s.copyPlan fp cv len g k p

/-- CCPY (R382). -/
def execCcpy (conv : Conv) (len : BitVec 16) (glob : DWord) (scr : Word) (s : State) : Out :=
  onQueue s fun c q => s.queueCheck c q (.ccpy conv len glob scr) (s.flatPlan c (s.queue c q).fp conv len glob scr false)
/-- CCPY `.g` (R382). -/
def execCcpyG (conv : Conv) (len : BitVec 16) (glob : DWord) (scr : Word) (s : State) : Out :=
  onQueue s fun c q => s.queueCheck c q (.ccpyG conv len glob scr) (s.flatPlan c (s.queue c q).fp conv len glob scr true)

/-- A descriptor command's checks 1 and 2: `body` runs with the descriptor's 64 bytes, read once at its home (R380). -/
def State.withDesc (s : State) (core q : Nat) (desc : DWord) (body : List Byte → State → State) : State :=
  let va := desc.toNat
  let asid := s.asidOf core
  if va ≥ 2 ^ 56 then s.queueEnd core q qScratchRange
  else if s.rowFar (vaPlace asid va) 1 then s.queueEnd core q qUnitAbsent
  else if va % 64 != 0 then s.queueEnd core q qMisaligned
  else
    match State.onceRead core q s (vaPlace asid va) 64 with
    | .wait => s
    | .fault cause p s => s.queueFault core q cause p
    | .ok bs s => body bs s

/-- A row of a strided span: its place, or the end code of what is wrong with it (R383). -/
def State.spanRow (s : State) (core : Nat) (base : DWord) (off : Int) : Except Nat Place :=
  match (s.eaOf core base).ans with
  | .bad _ => .error qScratchRange
  | .ok (.scr c o) => if (o : Int) + off < 0 then .error qBadShape else .ok (.scr c ((o : Int) + off).toNat)
  | .ok _ =>
    match (s.eaOf core (base + BitVec.ofInt 64 off)).ans with
    | .ok p => .ok p
    | .bad _ => .error qScratchRange

/-- A signed 32-bit field of some bytes. -/
def intAt (bs : List Byte) (off : Nat) : Int := (BitVec.ofNat 32 (fieldAt bs off 4)).toInt

/-- The plan of a copy descriptor (R383). -/
def State.descPlan (s : State) (core : Nat) (fp : DWord) (cv : Conv) (three : Bool) (bs : List Byte) : Plan :=
  let dst : DWord := BitVec.ofNat 64 (fieldAt bs 0 8)
  let src : DWord := BitVec.ofNat 64 (fieldAt bs 8 8)
  let len := fieldAt bs 16 4
  let ny := fieldAt bs 20 4
  let nz := fieldAt bs 24 4
  let sys := intAt bs 32
  let dys := intAt bs 36
  let szs := intAt bs 40
  let dzs := intAt bs 44
  let shape := fieldAt bs 28 4 != 0 || (bs.drop 48).any (· != 0) || ny = 0 || ny > 65536 || len < 16 || len > 1048576 ||
    (if three then nz = 0 || nz > 65536 else nz != 0 || szs != 0 || dzs != 0)
  let mis := dst.toNat % 16 != 0 || src.toNat % 16 != 0 || sys % 16 != 0 || dys % 16 != 0 || szs % 16 != 0 || dzs % 16 != 0
  let ns := (List.range (if three then Nat.min nz 65536 else 1)).flatMap fun z =>
    (List.range (Nat.min ny 65536)).map fun y => (y, z)
  let rows (base : DWord) (ys zs : Int) : List (Except Nat Place) :=
    (s.spanRow core base 0) :: ns.map fun n => s.spanRow core base (n.1 * ys + n.2 * zs)
  let src := rows src sys szs
  let dst := rows dst dys dzs
  let p := s.endPlan 1 (src.take 1) (s.endPlan 1 (dst.take 1) { shape, mis })
  s.copyPlan fp cv len (src.drop 1) (dst.drop 1) p

/-- CCPY `.d2` (R383). -/
def execCcpyD2 (conv : Conv) (desc : DWord) (s : State) : Out :=
  onQueue s fun c q => s.withDesc c q desc fun bs s =>
    s.queueCheck c q (.ccpyD2 conv desc) (s.descPlan c (s.queue c q).fp conv false bs)
/-- CCPY `.d3` (R383). -/
def execCcpyD3 (conv : Conv) (desc : DWord) (s : State) : Out :=
  onQueue s fun c q => s.withDesc c q desc fun bs s =>
    s.queueCheck c q (.ccpyD3 conv desc) (s.descPlan c (s.queue c q).fp conv true bs)

/-! ## Gather and scatter (R384) -/

/-- A row that an index selects: its place, or the end code of check 7. -/
def State.pickRow (s : State) (core : Nat) (base : DWord) (x tstr len : Nat) : Except Nat Place :=
  match (s.eaOf core (base + BitVec.ofNat 64 (x * tstr))).ans with
  | .bad _ => .error qBadShape
  | .ok p =>
    if s.rowFar p len then .error qUnitAbsent
    else if rowOver p len || (p.isGlob && p.addr + len > 2 ^ 56) then .error qBadShape
    else .ok p

/-- The first error of some rows. -/
def firstErr : List (Except Nat Place) → Option Nat
  | [] => none
  | .error c :: _ => some c
  | .ok _ :: l => firstErr l

/-- A gather or scatter whose descriptor has been read (R380 checks 3 to 7, R384). -/
def State.indexed (s : State) (core q : Nat) (i : Instr) (i16 scatter : Bool) (bs : List Byte) : State :=
  let dst : DWord := BitVec.ofNat 64 (fieldAt bs 0 8)
  let src : DWord := BitVec.ofNat 64 (fieldAt bs 8 8)
  let idx : DWord := BitVec.ofNat 64 (fieldAt bs 16 8)
  let len := fieldAt bs 28 4
  let n := fieldAt bs 32 4
  let tstr := fieldAt bs 36 4
  let w := if i16 then 2 else 4
  let pd := (s.eaOf core dst).place?
  let ps := (s.eaOf core src).place?
  let pi := (s.eaOf core idx).place?
  let far (p : Option Place) (k : Nat) : Bool := p.any fun p => s.rowFar p k
  let outside (p : Option Place) (k : Nat) : Bool := p.any fun p => rowOver p k
  let lin := if scatter then ps else pd
  let plan : Plan :=
    { unit := far pd 1 || far ps 1 || far pi (Nat.max 1 (n * w)) || far lin (n * len)
      shape := fieldAt bs 24 4 != 0 || (bs.drop 40).any (· != 0) || n = 0 || n > 65536 || len < 16 || len > 65536 ||
        outside pi (n * w) || outside lin (n * len)
      mis := len % 16 != 0 || tstr % 16 != 0 || idx.toNat % w != 0
      scr := pd.isNone || ps.isNone || pi.isNone }
  match plan.code, lin, pi with
  | 0, some lin, some pi =>
    match queueBytes (State.onceRead core q) (cuts (n * w / 128 + 2) pi (n * w)) s with
    | .wait => s
    | .fault cause p s => s.queueFault core q cause p
    | .ok is s =>
      let sel := (List.range n).map fun k => (k, fieldAt is (w * k) w)
      let hit := sel.filter fun x => x.2 != 2 ^ (8 * w) - 1
      let rows := hit.map fun x => s.pickRow core (if scatter then dst else src) x.2 tstr len
      match firstErr rows with
      | some code => s.queueEnd core q code
      | none =>
        let pieces := sel.flatMap fun x =>
          let here := lin.at_ (x.1 * len)
          if x.2 = 2 ^ (8 * w) - 1 then (if scatter then [] else cutRow here len fun o => .fill 0 o)
          else
            match s.pickRow core (if scatter then dst else src) x.2 tstr len with
            | .ok p => if scatter then cutRow p len fun o => .copy (here.at_ o) else cutRow here len fun o => .copy (p.at_ o)
            | .error _ => []
        s.queueIssue core q i { pieces }
  | code, _, _ => s.queueEnd core q code

/-- CGTH (R384). -/
def execCgth (i16 : Bool) (desc : DWord) (s : State) : Out :=
  onQueue s fun c q => s.withDesc c q desc fun bs s => s.indexed c q (.cgth i16 desc) i16 false bs
/-- CSCT (R384). -/
def execCsct (i16 : Bool) (desc : DWord) (s : State) : Out :=
  onQueue s fun c q => s.withDesc c q desc fun bs s => s.indexed c q (.csct i16 desc) i16 true bs

/-! ## Fills and blocks (R385, R386) -/

/-- The plan of a fill. -/
def State.fillPlan (s : State) (p : Option Place) (glob : Bool) (mis : Bool) (carg : BitVec 16) (pat : Word) : Plan :=
  let len := 16 * (carg.toNat + 1)
  match p with
  | some p => { unit := s.rowFar p len, shape := rowOver p len, mis, scr := p.isGlob != glob
                pieces := cutRow p len fun o => .fill pat o }
  | none => { mis, scr := true }

/-- CFIL (R385). -/
def execCfil (len : BitVec 16) (pat : Word) (scr : Word) (s : State) : Out :=
  onQueue s fun c q => s.queueCheck c q (.cfil len pat scr)
    (s.fillPlan (wordAddr c scr).place? false (scr.toNat % 16 != 0) len pat)
/-- CFIL `.g` (R385). -/
def execCfilG (len : BitVec 16) (glob : DWord) (pat : Word) (s : State) : Out :=
  onQueue s fun c q => s.queueCheck c q (.cfilG len glob pat)
    (s.fillPlan (s.eaOf c glob).place? true (glob.toNat % 16 != 0) len pat)

/-- CDEC (R386). -/
def execCdec (blocks : BitVec 16) (src : DWord) (scr : Word) (s : State) : Out :=
  onQueue s fun c q =>
    let len := 2048 * (blocks.toNat + 1)
    let g := (s.eaOf c src).place?
    let k := (wordAddr c scr).place?
    s.queueCheck c q (.cdec blocks src scr)
      { unit := !s.hasDecomp || (g.any fun g => s.rowFar g len)
        shape := k.any fun k => rowOver k len
        mis := src.toNat % 2048 != 0 || scr.toNat % 128 != 0
        scr := !(g.any Place.isGlob) || k.isNone
        pieces := match g, k with | some g, some k => cutRow k len fun o => .copy (g.at_ o) | _, _ => [] }

/-! ## Signals and waits (R387, R388) -/

/-- The checks of a counter: its place where they pass (R380). -/
def State.counterPlan (s : State) (core : Nat) (ctr : DWord) : Plan :=
  let p := (s.eaOf core ctr).place?
  { unit := p.any fun p => s.rowFar p 8, mis := ctr.toNat % 8 != 0, scr := p.isNone }

/-- CSIG (R387): a release at `.dev`, and an acquire–release add; it completes once the atomic has drained. -/
def execCsig (ctr : DWord) (val : Word) (s : State) : Out :=
  onQueue s fun c q =>
    let x := s.queue c q
    let a := queueActor c q
    let pos := s.nextPos a
    let plan := s.counterPlan c ctr
    match plan.code, (s.eaOf c ctr).place? with
    | 0, some p =>
      if !s.releaseReady a pos .dev || (p.isGlob && s.drained?) then s
      else
        let acc := s.newAcc a pos 0 x.spc x.seq 3 true true
        let s := s.issueEntry acc p 1 (.rmw (.int .add) 8 [⟨0, val.setWidth 64, 0⟩]) none none
        (s.publish a).queueIssue c q (.csig ctr val) {}
    | code, _ => s.queueEnd c q code

/-- CSIG `.arrive` (R184, R387). -/
def execCsigArrive (bar : BitVec 4) (cnt : BitVec 8) (s : State) : Out :=
  onQueue s fun c q =>
    let a := queueActor c q
    let b := bar.toNat
    if cnt.toNat > 127 then s.queueEnd c q qBadShape
    else if !s.releaseReady a (s.nextPos a) .dev then s
    else
      let setLag (n : Nat) (k : Core) : Core := k.setQueue q { k.queue q with lag := mset 0 (k.queue q).lag b n }
      match s.arrive c b (cnt.toNat + 1) (mget 0 (s.queue c q).lag b) a setLag with
      | .ok s => (s.queueNext c q).bump a
      | .error cause => s.queueEnd c q (if cause = cBadOperand then qBadOperand else qBarrierLap)

/-- CWAT (R388): the counter is read at its home, and the read that satisfies it acquires at `.dev`. -/
def execCwat (ctr : DWord) (target : Word) (s : State) : Out :=
  onQueue s fun c q =>
    match (s.counterPlan c ctr).code, (s.eaOf c ctr).place? with
    | 0, some p =>
      match s.queueRead c q p 8 false 3 with
      | .wait => s
      | .fault cause p s => s.queueFault c q cause p
      | .ok bs t =>
        if leNat bs ≥ target.toNat || (s.queue c q).met then ((t.acquire c .dev).queueNext c q).bump (queueActor c q) else s
    | code, _ => s.queueEnd c q code

/-- CWAT `.bar` (R388): once the queue's lag is 0 it acquires at `.dev`. -/
def execCwatBar (bar : BitVec 4) (s : State) : Out :=
  onQueue s fun c q =>
    if mget 0 (s.queue c q).lag bar.toNat = 0 then ((s.acquire c .dev).queueNext c q).bump (queueActor c q) else s

/-! ## Jumps and ends (R389) -/

/-- CJMP (R389). -/
def execCjmp (off : Word) (s : State) : Out :=
  onQueue s fun c q => s.onQueue c q fun x =>
    { x with pend := none, recva := x.recva + 16 + (off.signExtend 64 <<< 4) }

/-- CEND (R389). -/
def execCend (s : State) : Out := onQueue s fun c q => s.queueEnd c q 0

/-! ## Starting a program, and its next record (R92, R164, R302, R377) -/

/-- A queue started on a program (R60, R164, R302): `pub` is the Spur's entry that the instruction published. -/
def State.startQueue (s : State) (core q : Nat) (prog stva spc seq : DWord) (fset : Option Nat)
    (pub : ViewEnt × BitVec 18) : State :=
  let fp := (s.core core).spur.fpctl
  let s := s.onQueue core q fun x =>
    { run := true, prog, recva := prog, stva, spc, seq, fp, fset, lag := x.lag }
  s.startActor (queueActor core q) (spurActor core) pub

/-- What a queue's turn finds: nothing to do, a state in which its program has ended or faulted, or a command. -/
inductive QReady
  | no
  | stop (s : State)
  | go (i : Instr) (s : State)

/-- The record at a queue's next record VA read and decoded (R92, R93, R377). -/
def State.queueReady (s : State) (core q : Nat) : QReady :=
  let x := s.queue core q
  let c := s.core core
  let live := match c.launch with | some l => l.killed.isNone | none => false
  if !x.run || q > 3 || x.ending.isSome || x.cmd.isSome || !x.faults.isEmpty || !x.late.isEmpty || c.saving.isSome || !live then
    .no
  else
    match x.pend with
    | some i => .go i s
    | none =>
      let s := s.setQueue core q { x with ridx := (x.recva - x.prog).toNat / 16 % 2 ^ 32 }
      match (s.eaOf core x.recva).ans with
      | .bad _ => .stop (s.queueEnd core q qScratchRange)
      | .ok p =>
        if s.rowFar p 16 then .stop (s.queueEnd core q qUnitAbsent)
        else
          match s.queueRead core q p 16 false 0 with
          | .wait => .no
          | .fault cause p s => .stop (s.queueFault core q cause p)
          | .ok bs s =>
            let w (k : Nat) : Word := BitVec.ofNat 32 (fieldAt bs (4 * k) 4)
            match decodeRec ⟨w 0, w 1, w 2, w 3⟩ with
            | none => .stop (s.queueEnd core q qBadCommand)
            | some i => .go i (s.onQueue core q fun x => { x with pend := some i, met := false })

/-! ## Events -/

/-- LINE_LAND (R381). -/
def execLineLand (core queue item : Nat) (s : State) : Out := .next (s.lineStep core queue item false)
/-- DISOWN (R39, R292, R381): the queue has wholly written a line it owns. -/
def execDisown (core queue item : Nat) (s : State) : Out := .next (s.lineStep core queue item true)
/-- COPY_FAULT (R395). -/
def execCopyFault (core queue item : Nat) (s : State) : Out := .next (s.lineFault core queue item)
/-- COMMAND_COMPLETE (R381): the subject names the core and the queue. -/
def execCommandComplete (s : State) : Out := .next (s.commandDone s.subj.1 s.subj.2)

/-! ## Service (R395) -/

/-- Firmware serves or declines a fault of a queue that it was told of by a line. A declined one ends the program once the lines in
flight are done. -/
def State.queueServe (s : State) (core q item : Nat) (serve : Bool) : State :=
  let x := s.queue core q
  let a := queueActor core q
  let here (o : LateOp) : Bool := match o.op with | .entry e => e.place.isGlob && e.place.addr / 128 = item | .load _ => false
  if x.declined.isSome then s
  else match x.faults.find? fun f => f.2 / 128 = item, x.late.find? here with
  | some f, _ =>
    if serve then
      let s := s.setQueue core q { x with faults := x.faults.filter fun g => g.2 / 128 != item }
      match x.lineOf item with | some ln => s.own a ln | none => s
    else (s.setQueue core q { x with declined := some (faultCode f.1) }).queueDecline core q
  | none, some o =>
    if serve then
      let s := s.setQueue core q { x with late := x.late.erase o }
      match o.op with
      | .entry e => s.onActor a fun y =>
          { y with storeQ := y.storeQ ++ [{ e with acc := s.renew e.acc, page := none }], unacked := y.unacked + 1 }
      | .load _ => s
    else s.queueEnd core q (faultCode o.cause)
  | none, none => s

/-- A command in hand needs an access that the drain holds: a global line to be written, or one of its sources. -/
def Cmd.drainWaits (c : Cmd) (sr : Bool) : Bool := c.lines.any fun ln => ln.isGlob || (c.missing sr ln).any Place.isGlob

/-- A descriptor command that has not issued needs its descriptor, or lines of a global index list. -/
def State.descWaits (s : State) (core q : Nat) (desc : DWord) (i16 : Option Bool) : Bool :=
  let x := s.queue core q
  match x.readOf (vaPlace (s.asidOf core) desc.toNat) 64, i16 with
  | none, _ => true
  | some _, none => false
  | some bs, some i16 =>
    match (s.eaOf core (BitVec.ofNat 64 (fieldAt bs 16 8))).place? with
    | some p =>
      let n := fieldAt bs 32 4 * (if i16 then 2 else 4)
      p.isGlob && (cuts (n / 128 + 2) p n).any fun c => (x.readOf c.1 c.2).isNone
    | none => false

/-- A record or command of a queue waits for an access that the drain holds (R396). -/
def State.queueHeld (s : State) (core q : Nat) : Bool :=
  let x := s.queue core q
  s.drained? && match x.cmd, x.pend with
    | some c, _ => c.drainWaits (fpIsSr x.fp)
    | none, some (.csig a _) | none, some (.cwat a _) => a.toNat < 2 ^ 56
    | none, some (.ccpyD2 _ d) | none, some (.ccpyD3 _ d) => s.descWaits core q d none
    | none, some (.cgth i16 d) | none, some (.csct i16 d) => s.descWaits core q d (some i16)
    | none, some _ => false
    | none, none => x.ending.isNone && x.recva.toNat < 2 ^ 56

/-- STATE of sys.cqstat (R391). -/
def State.queueState (s : State) (core q : Nat) : Nat :=
  let x := s.queue core q
  let held := s.queueHeld core q
  if !x.run then 0
  else if x.declined.isNone && (!x.faults.isEmpty || !x.late.isEmpty) then 3
  else if held then 4
  else match x.pend with
    | some (.cwat _ _) | some (.cwatBar _) => 2
    | _ => 1

/-- sys.cqstat (R391). -/
def State.queueStat (s : State) (core q : Nat) : DWord :=
  let x := s.queue core q
  BitVec.ofNat 32 x.ridx ++ 0#11 ++ x.flags ++ BitVec.ofNat 8 (if x.run then 0 else x.code) ++ 0#5 ++
    BitVec.ofNat 3 (s.queueState core q)

end Sys2Proof.Machine
end

