-- ==== Sys2Proof/Machine/Digest.lean ====
section
/-! DEFINITION. SHA-256, which R110, R421 and R423 name without giving it. PRESUMED (log 60): FIPS 180-4. -/

namespace Sys2Proof.Machine

/-- The round constants. -/
def shaK : List Word :=
  [0x428A2F98, 0x71374491, 0xB5C0FBCF, 0xE9B5DBA5, 0x3956C25B, 0x59F111F1, 0x923F82A4, 0xAB1C5ED5,
   0xD807AA98, 0x12835B01, 0x243185BE, 0x550C7DC3, 0x72BE5D74, 0x80DEB1FE, 0x9BDC06A7, 0xC19BF174,
   0xE49B69C1, 0xEFBE4786, 0x0FC19DC6, 0x240CA1CC, 0x2DE92C6F, 0x4A7484AA, 0x5CB0A9DC, 0x76F988DA,
   0x983E5152, 0xA831C66D, 0xB00327C8, 0xBF597FC7, 0xC6E00BF3, 0xD5A79147, 0x06CA6351, 0x14292967,
   0x27B70A85, 0x2E1B2138, 0x4D2C6DFC, 0x53380D13, 0x650A7354, 0x766A0ABB, 0x81C2C92E, 0x92722C85,
   0xA2BFE8A1, 0xA81A664B, 0xC24B8B70, 0xC76C51A3, 0xD192E819, 0xD6990624, 0xF40E3585, 0x106AA070,
   0x19A4C116, 0x1E376C08, 0x2748774C, 0x34B0BCB5, 0x391C0CB3, 0x4ED8AA4A, 0x5B9CCA4F, 0x682E6FF3,
   0x748F82EE, 0x78A5636F, 0x84C87814, 0x8CC70208, 0x90BEFFFA, 0xA4506CEB, 0xBEF9A3F7, 0xC67178F2]

/-- The initial hash value. -/
def shaH : List Word :=
  [0x6A09E667, 0xBB67AE85, 0x3C6EF372, 0xA54FF53A, 0x510E527F, 0x9B05688C, 0x1F83D9AB, 0x5BE0CD19]

/-- The round sums and the schedule functions, by their rotations. -/
def shaSum (a b c : Nat) (x : Word) : Word := x.rotateRight a ^^^ x.rotateRight b ^^^ x.rotateRight c
/-- The schedule function. -/
def shaMix (a b c : Nat) (x : Word) : Word := x.rotateRight a ^^^ x.rotateRight b ^^^ x >>> c

/-- The schedule grown by `n` words; the list holds the newest word first. -/
def shaGrow : Nat → List Word → List Word
  | 0, w => w
  | n + 1, w =>
    shaGrow n ((shaMix 17 19 10 (w.getD 1 0) + w.getD 6 0 + shaMix 7 18 3 (w.getD 14 0) + w.getD 15 0) :: w)

/-- The eight working words after some rounds. -/
def shaRounds : List (Word × Word) → List Word → List Word
  | (k, w) :: l, [a, b, c, d, e, f, g, h] =>
    let t := h + shaSum 6 11 25 e + ((e &&& f) ^^^ (~~~e &&& g)) + k + w
    let u := shaSum 2 13 22 a + ((a &&& b) ^^^ (a &&& c) ^^^ (b &&& c))
    shaRounds l [t + u, a, b, c, d + t, e, f, g]
  | _, v => v

/-- A big-endian word of four bytes. -/
def beWord (l : List Byte) : Word := BitVec.ofNat 32 (leNat (l.take 4).reverse)

/-- The sixteen words of a block of 64 bytes, the newest first. -/
def shaWords (l : List Byte) : List Word := ((List.range 16).map fun i => beWord (l.drop (4 * i))).reverse

/-- The hash value after `n` blocks. -/
def shaBlocks : Nat → List Byte → List Word → List Word
  | 0, _, h => h
  | n + 1, l, h =>
    let v := shaRounds (shaK.zip (shaGrow 48 (shaWords l)).reverse) h
    shaBlocks n (l.drop 64) ((h.zip v).map fun p => p.1 + p.2)

/-- The digest of some bytes, its first byte first. -/
def sha256 (l : List Byte) : List Byte :=
  let n := l.length
  let pad := l ++ [0x80] ++ List.replicate ((119 - n % 64) % 64) 0 ++ (leBytes 8 (8 * n)).reverse
  (shaBlocks (pad.length / 64) pad shaH).flatMap fun w => (leBytes 4 w.toNat).reverse

/-! ## Signatures (R421). PRESUMED (log 88): RFC 8017 for the PKCS #1 v1.5 form -/

/-- A big-endian number. -/
def beNat (l : List Byte) : Nat := leNat l.reverse

/-- r^(2^k) × b^e mod n for an exponent e of k bits, the highest first. -/
def modPow (n b : Nat) : List Bool → Nat → Nat
  | [], r => r
  | x :: l, r => modPow n b l (let q := r * r % n; if x then q * b % n else q)

/-- The bits of an exponent, the highest first. -/
def expBits (e : Nat) : List Bool := ((List.range (e.log2 + 1)).map e.testBit).reverse

/-- The 384 bytes that a signature over a SHA-256 digest encodes. -/
def pkcs1 (digest : List Byte) : List Byte :=
  [0x00, 0x01] ++ List.replicate 330 0xFF ++
  [0x00, 0x30, 0x31, 0x30, 0x0D, 0x06, 0x09, 0x60, 0x86, 0x48, 0x01, 0x65, 0x03, 0x04, 0x02, 0x01, 0x05, 0x00, 0x04, 0x20] ++ digest

/-- An RSA-3072 key, modulus and exponent, has signed a digest. -/
def rsaSigned (digest sig : List Byte) (key : Nat × Nat) : Bool :=
  key.1.log2 = 3071 && sig.length = 384 && beNat sig < key.1 &&
  modPow key.1 (beNat sig) (expBits key.2) 1 = beNat (pkcs1 digest)

/-- The signature of a digest under a private key, modulus and exponent, as 384 big-endian bytes. -/
def rsaSign (digest : List Byte) (key : Nat × Nat) : List Byte :=
  (leBytes 384 (modPow key.1 (beNat (pkcs1 digest)) (expBits key.2) 1)).reverse

/-- The keys that FRS accepts: those certified under Tyber's root, and under the operator root in the fuses where Tyber's root
has certified it (R421). -/
def frsKeys : List (Nat × Nat) :=
  Config.keysUnder none ++
  match Config.operatorRoot with
  | some r => if Config.rootCertified r then Config.keysUnder (some r) else []
  | none => []

end Sys2Proof.Machine
end

