-- ==== Sys2Proof/Machine/RingLink.lean ====
section
/-! DEFINITION. Ring links: the registers of a side, matching and messages, and RRES, RPUB, RGET, RREL (R265, R266, R282 to
R286). -/

namespace Sys2Proof.Machine

/-! ## A side's registers (R265) -/

def Ring.en (r : Ring) : Bool := r.geom.getLsbD 63
/-- ROLE: true for a consumer. -/
def Ring.role (r : Ring) : Bool := r.geom.getLsbD 62
def Ring.peer (r : Ring) : Nat := (r.geom.extractLsb' 52 10).toNat
def Ring.pring (r : Ring) : Nat := (r.geom.extractLsb' 48 4).toNat
/-- The slot count, SLOTS plus 1. -/
def Ring.n (r : Ring) : Nat := (r.geom.extractLsb' 16 12).toNat + 1
/-- The slot size in bytes. -/
def Ring.size (r : Ring) : Nat := 128 * ((r.geom.extractLsb' 0 12).toNat + 1)
def Ring.cnt (r : Ring) : Nat := (r.pos.extractLsb' 32 13).toNat
def Ring.tail (r : Ring) : Nat := (r.pos.extractLsb' 16 12).toNat
def Ring.head (r : Ring) : Nat := (r.pos.extractLsb' 0 12).toNat

/-- The position word of three counts. -/
def posWord (cnt tail head : Nat) : DWord :=
  0#19 ++ BitVec.ofNat 13 cnt ++ 0#4 ++ BitVec.ofNat 12 tail ++ 0#4 ++ BitVec.ofNat 12 head

/-- A side with its counts replaced. -/
def Ring.setPos (r : Ring) (cnt tail head : Nat) : Ring := { r with pos := posWord cnt tail head }

/-- The address of a slot. -/
def Ring.slot (r : Ring) (i : Nat) : DWord := r.base + BitVec.ofNat 64 (r.size * i)

/-- The slot that an address names, if it names one exactly (R284). -/
def Ring.slotOf (r : Ring) (b : DWord) : Option Nat :=
  let x := (b - r.base).toNat
  if x % r.size = 0 && x / r.size < r.n then some (x / r.size) else none

/-- A ring set of a core. -/
def Core.ring (c : Core) (n : Nat) : Ring := mget {} c.rings n
/-- The core with a ring set replaced. -/
def Core.setRing (c : Core) (n : Nat) (r : Ring) : Core := { c with rings := mset {} c.rings n r }

/-! ## Matching and messages (R266) -/

/-- Two sides are matched: each names the other, and they fit. -/
def ringMatch (core n asid : Nat) (r : Ring) (core' n' asid' : Nat) (q : Ring) : Bool :=
  r.en && q.en && r.peer = core' && r.pring = n' && q.peer = core && q.pring = n && r.role != q.role && r.n = q.n &&
  asid = asid'

/-- A message delivered to the matched side: in the core of its resident launch, or in a saved image's register copy;
`none` is a refusal. -/
def State.ringSend (s : State) (core n : Nat) (f : Ring → Ring) : Option State :=
  let r := (s.core core).ring n
  let asid := s.asidOf core
  let far := s.core r.peer
  let fits (k : Core) : Bool :=
    match k.launch with
    | some l => ringMatch core n asid r r.peer r.pring l.asid (k.ring r.pring)
    | none => false
  let upd (k : Core) : Core := k.setRing r.pring (f (k.ring r.pring))
  if fits far then some (s.setCore r.peer (upd far))
  else
    let mine (i : Img) : Bool := i.saved.hcore = r.peer && fits i.saved.core
    if s.images.any mine then
      some { s with images := updFirst mine (fun i => { i with saved := { i.saved with core := upd i.saved.core } }) s.images }
    else none

/-! ## Queues of parked groups (R22, R283) -/

/-- The same waiter, whenever it has parked. -/
def Waiter.same (w x : Waiter) : Bool := w.ring = x.ring && w.slot = x.slot && w.arm = x.arm
/-- Whether a waiter is the next to be served. -/
def Core.nextWaiter (c : Core) (w : Waiter) : Bool :=
  match c.waiters.find? fun x => x.ring = w.ring with
  | some x => w.same x
  | none => true
/-- A waiter put after those of its queue that parked earlier, in one local cycle by ascending slot (R22). -/
def Waiter.before (w x : Waiter) : Bool :=
  w.ring != x.ring || decide (w.since < x.since) || (w.since = x.since && decide (w.slot < x.slot))
/-- A group joins the parked ones, once. -/
def Core.joinWaiters (c : Core) (w : Waiter) : Core :=
  if c.waiters.any w.same then c
  else { c with waiters := (c.waiters.filter fun x => x.before w || x.ring != w.ring) ++ w :: (c.waiters.filter fun x => !(x.before w || x.ring != w.ring)) }
/-- A group leaves them. -/
def Core.leaveWaiters (c : Core) (w : Waiter) : Core := { c with waiters := c.waiters.filter fun x => !w.same x }

/-- A group's arm parks in order. -/
def State.parkWaiter (s : State) (core slot : Nat) (arm : Bool) (ring : Option Nat) (p : Park) : State :=
  (s.onCore core fun c => c.joinWaiters ⟨ring, slot, arm, s.cyclesOf core⟩).onTg core slot fun t => t.setPark arm p

/-- The key of a queue's last take. -/
def Waiter.key (w : Waiter) : Nat := match w.ring with | none => 0 | some n => n + 1

/-- A group may take from a queue: it is the next to be served, and where it comes to the queue in this local cycle no group with
a higher number has taken in it (R22, R283, R285). -/
def State.mayTake (s : State) (core : Nat) (w : Waiter) : Bool :=
  let c := s.core core
  let now := s.cyclesOf core
  c.nextWaiter w &&
  (c.waiters.any (fun x => w.same x && decide (x.since < now)) || !tieLost now w.slot (mget (0, 0) c.takes w.key))

/-- A group that takes leaves the parked ones. -/
def Core.takeFrom (c : Core) (now : Nat) (w : Waiter) : Core :=
  { c.leaveWaiters w with takes := mset (0, 0) c.takes w.key (now + 1, w.slot) }

/-! ## The four instructions -/

/-- A ring instruction's operands and checks (R282): `body` runs with the ring number, its thread and its threads. -/
def ringInstr (h : Hd) (consumer : Bool) (a : Src) (body : State → Nat → Nat → Bool → Nat → Nat → Mask → State) (s : State) :
    Out :=
  onLane (hdLen h) s fun c k arm =>
    let t := s.tg c k
    let m := t.acting arm h
    match lowest m with
    | none => s.tgSkip c k arm (hdLen h)
    | some i =>
      let n := (t.src32 h.lit i a).toNat
      let r := (s.core c).ring n
      if n > 15 || !r.en || r.role != consumer || r.n = 1 then
        (s.onCore c fun x => x.leaveWaiters { ring := some n, slot := k, arm }).tgCause c k arm (hdLen h) cBadOperand
      else body s c k arm n i m

/-- A taken slot: served in order, or parked. -/
def State.ringTake (s : State) (h : Hd) (c k : Nat) (arm : Bool) (n : Nat) (m : Mask) (d : Dst) (ready : Bool)
    (f : State → State) (r : Ring) : State :=
  let w : Waiter := { ring := some n, slot := k, arm }
  if !ready || !s.mayTake c w then s.parkWaiter c k arm (some n) .ring
  else
    let s := f ((s.onCore c fun x => (x.takeFrom (s.cyclesOf c) w).setRing n r))
    s.tgDone c k arm (hdLen h) ((s.tg c k).putTg true (s.nextPos (tgActor c k)) m d (((s.core c).ring n).slot
      ((r.head + r.n - 1) % r.n)))

/-- RRES (R283). -/
def execRres (h : Hd) (d : Dst) (a : Src) (s : State) : Out :=
  ringInstr h false a (fun s c k arm n _ m =>
    let r := (s.core c).ring n
    s.ringTake h c k arm n m d (r.cnt > 1) id (r.setPos (r.cnt - 1) r.tail ((r.head + 1) % r.n))) s

/-- RGET (R285): an acquire at `.dev`, and it gains the entry that the publication carried (R303). -/
def execRget (h : Hd) (d : Dst) (a : Src) (s : State) : Out :=
  ringInstr h true a (fun s c k arm n _ m =>
    let r := (s.core c).ring n
    let got := match r.pubs.head? with
      | some p => fun (s : State) => s.gain (tgActor c k) p
      | none => id
    s.ringTake h c k arm n m d (r.tail != r.head) (fun s => (got s).acquire c .dev)
      { r.setPos (r.cnt + 1) r.tail ((r.head + 1) % r.n) with pubs := r.pubs.drop 1 }) s

/-- RPUB (R284). -/
def execRpub (h : Hd) (a b : Src) (s : State) : Out :=
  ringInstr h false a (fun s c k arm n i _ =>
    let r := (s.core c).ring n
    let ac := tgActor c k
    match r.slotOf ((s.tg c k).src64 h.lit i b) with
    | none => s.tgCause c k arm (hdLen h) cBadOperand
    | some j =>
      if (j + r.n - r.tail) % r.n ≥ (r.head + r.n - r.tail) % r.n then s.tgCause c k arm (hdLen h) cBadOperand
      else if j != r.tail || !s.releaseReady ac (s.nextPos ac) .dev then s.onTg c k fun t => t.setPark arm .ring
      else
        let pub := s.pubEntry ac
        match s.ringSend c n fun q => { q.setPos q.cnt ((q.tail + 1) % q.n) q.head with pubs := q.pubs ++ [pub] } with
        | none => s.tgCause c k arm (hdLen h) cBadOperand
        | some s =>
          let s := s.onCore c fun x => let q := x.ring n; x.setRing n (q.setPos q.cnt ((q.tail + 1) % q.n) q.head)
          (s.publish ac).tgSkip c k arm (hdLen h)) s

/-- RREL (R286). -/
def execRrel (h : Hd) (a b : Src) (s : State) : Out :=
  ringInstr h true a (fun s c k arm n i _ =>
    let r := (s.core c).ring n
    let ac := tgActor c k
    let first := (r.head + r.n - r.cnt % r.n) % r.n
    match r.slotOf ((s.tg c k).src64 h.lit i b) with
    | none => s.tgCause c k arm (hdLen h) cBadOperand
    | some j =>
      if (j + r.n - first) % r.n ≥ r.cnt then s.tgCause c k arm (hdLen h) cBadOperand
      else if j != first || !s.releaseReady ac (s.nextPos ac) .dev then s.onTg c k fun t => t.setPark arm .ring
      else
        match s.ringSend c n fun q => q.setPos (q.cnt + 1) q.tail q.head with
        | none => s.tgCause c k arm (hdLen h) cBadOperand
        | some s =>
          let s := s.onCore c fun x => let q := x.ring n; x.setRing n (q.setPos (q.cnt - 1) q.tail q.head)
          (s.publish ac).tgSkip c k arm (hdLen h)) s

end Sys2Proof.Machine
end

