-- ==== Sys2Proof/Machine/LaneControl.lean ====
section
/-! DEFINITION. Lane control flow and barriers (R22, R115, R169, R171, R179 to R187, R227 to R239). -/

namespace Sys2Proof.Machine

/-! ## Arms (R179, R180) -/

/-- An arm counts as waiting: it stands at its RECONV, or all its threads have exited. -/
def Tg.armDone (t : Tg) (a : Arm) : Bool := a.wait || a.mask &&& t.live = 0

/-- A busy entry becomes idle when both arms wait; the group goes on after the RECONV with the live threads of both
arms, which are all live threads but those of an arm that a DPUSH holds (R180, R181). -/
def Tg.settle (t : Tg) : Tg :=
  match t.div with
  | some d =>
    if t.armDone d.t && t.armDone d.f then
      { t with div := none, path := (d.t.mask ||| d.f.mask) &&& t.live, pc := d.rpc + 8, park := .ready }
    else t
  | none => t

/-- The arm's WAIT bit set. -/
def Tg.setWait (t : Tg) (arm : Bool) : Tg :=
  match t.div with
  | some d => { t with div := some (if arm then { d with t := { d.t with wait := true } } else { d with f := { d.f with wait := true } }) }
  | none => t

/-- The value of a reconvergence specifier (R228). -/
def recDist (h : Hd) : Src → DWord
  | .imm b => b.signExtend 64
  | .lit => (h.lit.getD 0).signExtend 64
  | _ => 0

/-- A branch of some threads to a target: MISALIGNED in those threads where the target is no global address (R228). -/
def State.tgJump (s : State) (c k : Nat) (arm : Bool) (units : Nat) (m : Mask) (target : DWord) : State :=
  if target.extractLsb' 56 8 != 0 then s.tgLanes c k arm units ((lanesOf m).map fun i => (i, cMisaligned)) fun _ => target
  else s.tgNext c k arm target

/-- BRA (R228). -/
def execBra (h : Hd) (rec_ : Option Src) (off : BitVec 20) (s : State) : Out :=
  onLane (hdLen h) s fun c k arm =>
    let t := s.tg c k
    let n := hdLen h
    let pc := t.armPc arm
    let target := offTarget pc n off
    let m := t.acting arm h
    let act := t.active arm
    if m = 0 then s.tgSkip c k arm n
    else if h.u || m = act then s.tgJump c k arm n m target
    else
      let next := pc + BitVec.ofNat 64 (4 * n)
      let rpc := match rec_ with | some x => next + (recDist h x <<< 2) | none => 0
      if rec_.isNone || rpc.extractLsb' 56 8 != 0 then s.tgCause c k arm n cBadOperand
      else if t.div.isSome then s.tgCause c k arm n cDivergenceDepth
      else if target.extractLsb' 56 8 != 0 then
        s.tgLanes c k arm n ((lanesOf m).map fun i => (i, cMisaligned)) fun _ => target
      else
        (s.setTg c k { t with div := some ⟨⟨m, target, false, .ready⟩, ⟨act &&& ~~~m, next, false, .ready⟩, rpc⟩
                              replaying := false }).bump (tgActor c k)

/-- RECONV (R230). With guards that differ it acts for the whole arm when any active thread's guard holds (DEDUCED, log 17). -/
def execReconv (h : Hd) (s : State) : Out :=
  onLane (hdLen h) s fun c k arm =>
    let t := s.tg c k
    match t.div with
    | none => s.tgSkip c k arm (hdLen h)
    | some d =>
      if t.armPc arm != d.rpc || t.acting arm h = 0 then s.tgSkip c k arm (hdLen h)
      else (s.setTg c k { (t.setWait arm).settle with replaying := false }).bump (tgActor c k)

/-- Groups at a FUSE go on together (R231). -/
def State.fuseGo (s : State) (c units : Nat) (l : List Nat) : State :=
  l.foldl (fun s k => (s.onTg c k fun t => { t with fuseAt := none }).tgSkip c k true units) s

/-- Members of a gang that stand at a FUSE at a PC. -/
def Core.atFuse (c : Core) (l : List Nat) (pc : DWord) : List Nat :=
  l.filter fun k => let t := c.tg k; t.fuseAt.isSome && t.div.isNone && t.pc = pc

/-- FUSE (R231): its window is 256 local cycles, which the FUSE_TIMEOUT step ends. With guards that differ it acts when any active
thread's guard holds (DEDUCED, log 17). -/
def execFuse (h : Hd) (s : State) : Out :=
  onLane (hdLen h) s fun c k arm =>
    let t := s.tg c k
    if t.width = 1 || t.div.isSome || t.acting arm h = 0 then s.tgSkip c k arm (hdLen h)
    else
      let s := if t.fuseAt.isSome then s else s.onTg c k fun t => { t with fuseAt := some (s.cyclesOf c) }
      let l := (s.core c).liveGang t
      if (s.core c).atFuse l t.pc = l then s.fuseGo c (hdLen h) l else s

/-- FUSE_TIMEOUT (R231): the window of a waiting group has ended, and the members at its FUSE go on. -/
def State.fuseTimeout (s : State) (c k : Nat) : State :=
  let t := s.tg c k
  match t.fuseAt with
  | some at_ =>
    if at_ + 256 ≤ s.cyclesOf c && t.div.isNone then s.fuseGo c 2 ((s.core c).atFuse ((s.core c).liveGang t) t.pc) else s
  | none => s

/-- DPUSH (R181, R182, R232): the other arm stands at an instruction boundary, is held, and re-tests its park later. -/
def execDpush (h : Hd) (g : BitVec 5) (s : State) : Out :=
  onLane (hdLen h) s fun c k arm =>
    let t := s.tg c k
    if !t.leadGuard arm h.pred h.pn then s.tgSkip c k arm (hdLen h)
    else
      let ws := spillDiv t.liveDiv arm
      let pc := t.armPc arm
      let u := ((t.setG g.toNat (ws.getD 0 0)).setG (g.toNat + 1) (ws.getD 1 0)).setG (g.toNat + 2) (ws.getD 2 0)
      let u := { u with div := none, path := if t.div.isSome then t.active arm else t.path, pc }
      let s := s.onCore c fun x => { x with waiters := x.waiters.filter fun w => w.slot != k }
      ((s.setTg c k u).freshTries (tgActor c k)).tgSkip c k arm (hdLen h)

/-- The checks of a spilled form on the words as read (R182 step 1). -/
def spillBad (w0 rpc bpc : DWord) : Bool :=
  let off (x : DWord) : Bool := x.extractLsb' 0 2 != 0 || x.extractLsb' 56 8 != 0
  w0.extractLsb' 0 2 > 1 || w0.extractLsb' 3 29 != 0 || (w0.extractLsb' 48 16 &&& w0.extractLsb' 32 16) != 0 || off rpc || off bpc

/-- A popped arm that firmware has resumed with `.skip` while it was pushed (R191, R241). -/
def Tg.skipOf (t : Tg) (m : Mask) (pc : DWord) : Option Skip := t.skips.find? fun x => x.mask &&& m != 0 && x.pc = pc

/-- DPOP (R181, R182, R232). -/
def execDpop (h : Hd) (g : BitVec 5) (s : State) : Out :=
  onLane (hdLen h) s fun c k arm =>
    let t := s.tg c k
    let n := hdLen h
    if !t.leadGuard arm h.pred h.pn then s.tgSkip c k arm n
    else
      let w0 := t.greg g.toNat
      let rpc := t.greg (g.toNat + 1)
      let bpc := t.greg (g.toNat + 2)
      let a : Mask := w0.extractLsb' 48 16 &&& t.live
      let b : Mask := w0.extractLsb' 32 16 &&& t.live
      let entry := w0.getLsbD 0
      if spillBad w0 rpc bpc || (entry && a != t.active arm) then s.tgCause c k arm n cBadOperand
      else if t.div.isSome then s.tgCause c k arm n cDivergenceDepth
      else if !entry then s.tgSkip c k arm n
      else
        let next := t.pc + BitVec.ofNat 64 (4 * n)
        let (at_, skips) := match t.skipOf b bpc with
          | some x => (x.next, t.skips.erase x)
          | none => (bpc, t.skips)
        let u := { t with div := some ⟨⟨a, next, false, .ready⟩, ⟨b, at_, w0.getLsbD 2, .ready⟩, rpc⟩, skips, replaying := false }
        (s.setTg c k u).bump (tgActor c k)

/-- DQPOP (R22, R115, R169, R233). -/
def execDqpop (h : Hd) (g : BitVec 5) (s : State) : Out :=
  onLane (hdLen h) s fun c k arm =>
    let t := s.tg c k
    let w : Waiter := { ring := none, slot := k, arm }
    if !t.leadGuard arm h.pred h.pn then s.tgSkip c k arm (hdLen h)
    else
      match (s.core c).dq with
      | [] =>
        if (s.core c).spur.run = .done then
          (s.onCore c fun x => x.leaveWaiters w).tgCause c k arm (hdLen h) cDqClosed
        else s.parkWaiter c k arm none .dq
      | x :: l =>
        if !s.mayTake c w then s.parkWaiter c k arm none .dq
        else
          let s := s.onCore c fun x => { x.takeFrom (s.cyclesOf c) w with dq := l }
          let s := (s.gain (tgActor c k) x.pub).acquire c .core
          s.tgDone c k arm (hdLen h) ((s.tg c k).setG g.toNat x.word)

/-! ## EXIT (R171, R180, R234, R361) -/

/-- Every member of a gang has ended: it leaves its fork set (R20). -/
def State.gangEnd (s : State) (c k : Nat) : State :=
  s.onSpur c fun p => p.memberDone (.tg k) 0 (s.pubEntry (tgActor c k))

/-- A group whose live mask has become zero ends; so does its handler instance with the last member. -/
def State.tgEnd (s : State) (c k : Nat) : State :=
  let s := (s.onTg c k fun t => { t with div := none, path := 0, park := .ready, replaying := false }).gangEnd c k
  match (s.tg c k).handler with
  | some id => (s.onCore c fun x => x.keepFlags id (fpFlags (x.tg k).fpctl)).instGone c id
  | none => s

/-- EXIT (R234). -/
def execExit (h : Hd) (s : State) : Out :=
  onLane (hdLen h) s fun c k arm =>
    let t := s.tg c k
    let m := t.acting arm h
    if m = 0 then s.tgSkip c k arm (hdLen h)
    else if t.frame.isSome then s.tgCause c k arm (hdLen h) cXretState
    else
      let s := s.tgSkip c k arm (hdLen h)
      let s := s.onTg c k fun t => ({ t with live := t.live &&& ~~~m }).settle
      if (s.tg c k).live = 0 then s.tgEnd c k else s

/-! ## Core barriers (R183 to R185, R236, R237) -/

/-- A core-barrier instruction's guard and checks: `body` runs with the barrier number and the count. -/
def barInstr (h : Hd) (a : Src) (b : Option Src) (body : State → Nat → Nat → Bool → Nat → Nat → State) (s : State) : Out :=
  onLane (hdLen h) s fun c k arm =>
    let t := s.tg c k
    let i := t.lead arm
    let n := (t.src32 h.lit i a).toNat
    let e := match b with | some x => (t.src32 h.lit i x).toNat | none => 1
    if !t.leadGuard arm h.pred h.pn then s.tgSkip c k arm (hdLen h)
    else if t.div.isSome || n > 15 || e = 0 || e > 128 then s.tgCause c k arm (hdLen h) cBadOperand
    else body s c k arm n e

/-- The group waits at a core barrier until its lag there is 0, then acquires at `.core` (R237). -/
def State.barWait (s : State) (units c k : Nat) (arm : Bool) (n : Nat) : State :=
  let t := s.tg c k
  if t.lagAt n != 0 then s.onTg c k fun t => { t.setPark arm .barrier with waitBar := some n }
  else ((s.barGain c k n).acquire c .core).tgSkip c k arm units

/-- An arrival of a group, or its trap; `wait` says whether the group waits on (R184, R237). -/
def State.barArrive (s : State) (units c k : Nat) (arm : Bool) (n e : Nat) (wait : Bool) (go : State → State) : State :=
  let a := tgActor c k
  if !s.releaseReady a (s.nextPos a) .core then s
  else
    let lag (v : Nat) (x : Core) : Core :=
      let t := x.tg k
      { x with tgs := mset {} x.tgs k { t with lag := mset 0 t.lag n v, arrived := wait, waitBar := if wait then some n else none } }
    match s.arrive c n e ((s.tg c k).lagAt n) a lag with
    | .error cause => s.tgCause c k arm units cause
    | .ok s => go s

/-- ARRIVE (R237). -/
def execArrive (h : Hd) (a b : Src) (s : State) : Out :=
  barInstr h a (some b) (fun s c k arm n e => s.barArrive (hdLen h) c k arm n e false fun s => s.tgSkip c k arm (hdLen h)) s

/-- AWAIT (R237). -/
def execAwait (h : Hd) (a : Src) (s : State) : Out :=
  barInstr h a none (fun s c k arm n _ => s.barWait (hdLen h) c k arm n) s

/-- BAR (R237): the arrival is made once, then the group waits. -/
def execBar (h : Hd) (a b : Src) (s : State) : Out :=
  barInstr h a (some b) (fun s c k arm n e =>
    if (s.tg c k).arrived then s.barWait (hdLen h) c k arm n
    else s.barArrive (hdLen h) c k arm n e true fun s =>
      if (s.tg c k).lagAt n != 0 then s.onTg c k fun t => t.setPark arm .barrier else s) s

/-! ## SBAR (R187, R239) -/

/-- SBAR: the arrival orders as `Fence.cum` at its scope; the release takes the round's index and acquires. -/
def execSbar (h : Hd) (sc : Sc) (a : Src) (s : State) : Out :=
  onLane (hdLen h) s fun c k arm =>
    let t := s.tg c k
    let ac := tgActor c k
    let e := (t.src32 h.lit (t.lead arm) a).toNat
    let inst := scInst sc c
    let asid := s.asidOf c
    if !t.leadGuard arm h.pred h.pn then s.tgSkip c k arm (hdLen h)
    else
      match t.sbWait with
      | some r =>
        if (s.sbar (scCode sc) inst asid).rounds = r then s
        else
          let s := s.onActor ac (setIndex (scCode sc) (roundIndex (r + 1)))
          ((s.onTg c k fun t => { t with sbWait := none }).acquire c (scScope sc)).tgSkip c k arm (hdLen h)
      | none =>
        if t.div.isSome || e = 0 || e > 131072 then s.tgCause c k arm (hdLen h) cBadOperand
        else if !s.fenceDone ac ⟨s.nextPos ac, .cum, scScope sc⟩ then s
        else
          let r := (s.sbar (scCode sc) inst asid).rounds
          match s.sbarArrive (scCode sc) inst asid e ac with
          | none => s.tgCause c k arm (hdLen h) cBadOperand
          | some s => s.onTg c k fun t => { t.setPark arm .barrier with sbWait := some r }

/-! ## BARM (R186, R238) -/

/-- The key under which a group keeps the entries of the other arrivers of the rendezvous at a PC: while it is open, and once it has
released the group (R303). -/
def barmKey (pc : DWord) (done : Bool) : Nat := 16 + 2 * pc.toNat + done.toNat

/-- The bits of a mask that name the threads of a member. -/
def memberBits (mask : DWord) (m : Nat) : Mask := mask.extractLsb' (16 * m) 16

/-- A mask is no legal operand for a member's threads (R238). -/
def Core.barmBad (c : Core) (t : Tg) (self : Nat) (m : Mask) (mask : DWord) : Bool :=
  (List.range 4).any (fun j =>
    memberBits mask j != 0 &&
      (j ≥ t.width || !t.mate (c.tg (t.base + j)) || memberBits mask j &&& ~~~(c.tg (t.base + j)).live != 0)) ||
  m &&& ~~~(memberBits mask self) != 0

/-- A group's part in an open rendezvous at a PC: its own, or that of the instruction which its trap handler interrupts. -/
def Tg.barmAt (t : Tg) (pc : DWord) : Option Barm :=
  (t.barm.toList ++ t.outer.barm.toList).find? fun b => b.pc = pc && !b.done && b.fail.isEmpty

/-- The members that have joined a rendezvous at a PC and are not yet released. -/
def Core.barmJoined (c : Core) (t : Tg) (pc : DWord) : List Nat :=
  t.gang.filter fun k => t.mate (c.tg k) && ((c.tg k).barmAt pc).isSome

/-- A group's part in the open rendezvous at a PC changed. -/
def Tg.onBarm (t : Tg) (pc : DWord) (f : Barm → Barm) : Tg :=
  let g (b : Barm) : Barm := if b.pc = pc && !b.done && b.fail.isEmpty then f b else b
  { t with barm := t.barm.map g, outer := { t.outer with barm := t.outer.barm.map g } }

/-- A group's rendezvous state replaced. -/
def State.setBarm (s : State) (c k : Nat) (b : Option Barm) : State := s.onTg c k fun t => { t with barm := b }

/-- The entries that a gang keeps for a rendezvous at a PC that is not open any more, or opens now, dropped. -/
def State.dropBarmGains (s : State) (c : Nat) (gang : List Nat) (pc : DWord) : State :=
  gang.foldl (fun s j => s.onTg c j fun t => { t with gains := t.gains.filter fun p => p.1 != barmKey pc false }) s

/-- A rendezvous at a PC releases a member: the entries that it gains are those of this rendezvous. -/
def Tg.barmRelease (t : Tg) (pc : DWord) : Tg :=
  { t.onBarm pc (fun b => { b with done := true }) with
    gains := t.gains.map fun p => if p.1 = barmKey pc false then (barmKey pc true, p.2) else p }

/-- A member goes on after its rendezvous: the other arrivers' entries are gained in arrival order, and the release acquires at
`.core` (R238, R303). -/
def State.barmResume (s : State) (c k : Nat) (b : Barm) : State :=
  let got := (s.tg c k).gains.filter fun p => p.1 = barmKey b.pc true
  let s := (got.foldl (fun s p => s.gainEntry (tgActor c k) p.2) s).acquire c .core
  s.onTg c k fun t => { t with barm := none, gains := t.gains.filter fun p => p.1 != barmKey b.pc true }

/-- The rendezvous is complete: every named thread has executed its BARM. -/
def Core.barmFull (c : Core) (t : Tg) (pc mask : DWord) : Bool :=
  (List.range t.width).all fun j =>
    memberBits mask j = 0 ||
    match (c.tg (t.base + j)).barmAt pc with
    | some b => t.mate (c.tg (t.base + j)) && memberBits mask j &&& ~~~b.threads = 0
    | none => false

/-- The trap of a member of a failed rendezvous (R186). It takes no more part in it once the trap has been taken; while an access
of its own is outstanding it tries again at its next turn. -/
def State.barmTrap (s : State) (c k : Nat) (arm : Bool) (units : Nat) (masks : List DWord) : State :=
  let u := (s.setBarm c k none).tgStop c k arm units cSyncMask 0 0 (masks.flatMap fun w => leBytes 8 w.toNat)
  if trapTaken (s.tg c k) (u.tg c k) then u else s

/-- A failed rendezvous (R186): the members that wait take their traps at their next turn, and this one takes its own. -/
def State.barmFail (s : State) (c k : Nat) (arm : Bool) (units : Nat) (pc : DWord) (m : Mask) (joined : List Nat)
    (rmask : DWord) (own : List DWord) : State :=
  let s := joined.foldl (fun s j => s.onTg c j fun t => t.onBarm pc fun b => { b with fail := [rmask] }) s
  let s := s.dropBarmGains c (s.tg c k).gang pc
  let area := (rmask :: (own.filter (· != rmask))).take 16
  (s.setBarm c k (some ⟨pc, rmask, m, false, area⟩)).barmTrap c k arm units area

/-- BARM (R186, R238). The mask that opens a rendezvous is that of the member's lowest contributing thread, where its threads
give several (DESIGN CHOICE, log 79). -/
def execBarm (h : Hd) (a : Src) (s : State) : Out :=
  onLane (hdLen h) s fun c k arm =>
    let t := s.tg c k
    let ac := tgActor c k
    let n := hdLen h
    let m := t.acting arm h
    match t.barm with
    | some b =>
      if !b.fail.isEmpty then s.barmTrap c k arm n b.fail
      else if b.done then (s.barmResume c k b).tgSkip c k arm n
      else s
    | none =>
      let own := ((lanesOf m).map fun i => t.src64 h.lit i a).eraseDups
      match own with
      | [] => s.tgSkip c k arm n
      | w :: _ =>
        let x := s.core c
        let pc := t.armPc arm
        let joined := x.barmJoined t pc
        let rmask := match joined.head? with
          | some j => (match (x.tg j).barmAt pc with | some b => b.mask | none => w)
          | none => w
        if t.div.isSome || own.any (x.barmBad t (k - t.base) m) then s.tgCause c k arm n cBadOperand
        else if own != [rmask] then s.barmFail c k arm n pc m joined rmask own
        else if !s.releaseReady ac (s.nextPos ac) .core then s
        else
          let pub := s.pubEntry ac
          let s := if joined.isEmpty then s.dropBarmGains c t.gang pc else s
          let s := (s.publish ac).setBarm c k (some ⟨pc, rmask, m, false, []⟩)
          let s := s.onTg c k fun t => t.setPark arm .barrier
          let others := t.gang.filter fun j => j != k && memberBits rmask (j - t.base) != 0
          let s := others.foldl (fun s j => s.onTg c j fun t => { t with gains := t.gains ++ [(barmKey pc false, pub)] }) s
          if (s.core c).barmFull t pc rmask then
            ((s.core c).barmJoined t pc).foldl (fun s j => s.onTg c j fun t => t.barmRelease pc) s
          else s

end Sys2Proof.Machine
end

