-- ==== Sys2Proof/Machine/SpurScalar.lean ====
section
/-! DEFINITION. The Spur's arithmetic, logic and control flow (R139, R140, R144 to R152). -/

namespace Sys2Proof.Machine

/-- The width of a W field (R140). -/
def swW (w : SW) : Nat := match w with | .s64 | .z64 => 64 | .s32 | .z32 => 32
/-- The signedness of a W field (R140). -/
def swSg (w : SW) : Bool := match w with | .s64 | .s32 => true | .z32 | .z64 => false
/-- `Ext` of a W field. -/
def swExt (w : SW) (r : Int) : DWord := extW (swW w) (swSg w) r
/-- `View` of a W field. -/
def swView (w : SW) (x : DWord) : Int := viewW (swW w) (swSg w) x

/-- A two-source member whose result comes from the sources' views (R145). -/
def spurArith (op : SW → Int → Int → Int) (h : Hd) (w : SW) (d : Dst) (a b : Src) (s : State) : Out :=
  spurCalc h d (fun p => swExt w (op w (swView w (p.src h.lit a)) (swView w (p.src h.lit b)))) s

/-- A two-source member whose result comes from the sources' bits (R145). -/
def spurBits (op : Nat → DWord → DWord → Int) (h : Hd) (w : SW) (d : Dst) (a b : Src) (s : State) : Out :=
  spurCalc h d (fun p => swExt w (op (swW w) (p.src h.lit a) (p.src h.lit b))) s

/-- A one-source member (R145). -/
def spurOne (op : SW → DWord → Int) (h : Hd) (w : SW) (d : Dst) (a : Src) (s : State) : Out :=
  spurCalc h d (fun p => swExt w (op w (p.src h.lit a))) s

/-- ADD (R145). -/
def execAdd (h : Hd) (w : SW) (d : Dst) (a b : Src) (s : State) : Out :=
  spurArith (fun _ x y => x + y) h w d a b s
/-- SUB (R145). -/
def execSub (h : Hd) (w : SW) (d : Dst) (a b : Src) (s : State) : Out :=
  spurArith (fun _ x y => x - y) h w d a b s
/-- MUL (R145). -/
def execMul (h : Hd) (w : SW) (d : Dst) (a b : Src) (s : State) : Out :=
  spurArith (fun _ x y => x * y) h w d a b s
/-- MULH (R145). -/
def execMulh (h : Hd) (w : SW) (d : Dst) (a b : Src) (s : State) : Out :=
  spurArith (fun w x y => aluMulh (swW w) x y) h w d a b s
/-- MIN (R145). -/
def execMin (h : Hd) (w : SW) (d : Dst) (a b : Src) (s : State) : Out :=
  spurArith (fun _ x y => if x < y then x else y) h w d a b s
/-- MAX (R145). -/
def execMax (h : Hd) (w : SW) (d : Dst) (a b : Src) (s : State) : Out :=
  spurArith (fun _ x y => if x < y then y else x) h w d a b s
/-- AND (R145). -/
def execSpurAnd (h : Hd) (w : SW) (d : Dst) (a b : Src) (s : State) : Out :=
  spurBits (fun w x y => (lowOfW w (x &&& y) : Nat)) h w d a b s
/-- OR (R145). -/
def execSpurOr (h : Hd) (w : SW) (d : Dst) (a b : Src) (s : State) : Out :=
  spurBits (fun w x y => (lowOfW w (x ||| y) : Nat)) h w d a b s
/-- XOR (R145). -/
def execSpurXor (h : Hd) (w : SW) (d : Dst) (a b : Src) (s : State) : Out :=
  spurBits (fun w x y => (lowOfW w (x ^^^ y) : Nat)) h w d a b s
/-- ANDN (R145). -/
def execSpurAndn (h : Hd) (w : SW) (d : Dst) (a b : Src) (s : State) : Out :=
  spurBits aluAndn h w d a b s
/-- SHL (R145). -/
def execSpurShl (h : Hd) (w : SW) (d : Dst) (a b : Src) (s : State) : Out :=
  spurBits aluShl h w d a b s
/-- SHR (R145). -/
def execSpurShr (h : Hd) (w : SW) (d : Dst) (a b : Src) (s : State) : Out :=
  spurBits aluShr h w d a b s
/-- SAR (R145). -/
def execSpurSar (h : Hd) (w : SW) (d : Dst) (a b : Src) (s : State) : Out :=
  spurBits aluSar h w d a b s
/-- ROT (R145). -/
def execRot (h : Hd) (w : SW) (d : Dst) (a b : Src) (s : State) : Out :=
  spurBits aluRot h w d a b s
/-- DIVS (R146): both sources signed, whatever W says. -/
def execDivs (h : Hd) (w : SW) (rem : Bool) (d : Dst) (a b : Src) (s : State) : Out :=
  spurBits (fun n x y => aluDiv n true rem x y) h w d a b s
/-- DIVZ (R146): both sources unsigned. -/
def execDivz (h : Hd) (w : SW) (rem : Bool) (d : Dst) (a b : Src) (s : State) : Out :=
  spurBits (fun n x y => aluDiv n false rem x y) h w d a b s
/-- CLZ (R145). -/
def execSpurClz (h : Hd) (w : SW) (d : Dst) (a : Src) (s : State) : Out := spurOne (fun w x => aluClz (swW w) x) h w d a s
/-- POPC (R145). -/
def execSpurPopc (h : Hd) (w : SW) (d : Dst) (a : Src) (s : State) : Out := spurOne (fun w x => aluPopc (swW w) x) h w d a s
/-- MOV (R145, R149). -/
def execSpurMov (h : Hd) (w : SW) (d : Dst) (a : Src) (s : State) : Out := spurOne swView h w d a s

/-- Position and length of a Spur field, the length cut at the width (R147). -/
def spurField (w : Nat) (b c : DWord) : Nat × Nat :=
  let pos := b.toNat % w
  (pos, Nat.min (c.toNat % 128) (w - pos))

/-- BFX (R147). -/
def execSpurBfx (h : Hd) (w : SW) (d : Dst) (a b c : Src) (s : State) : Out :=
  spurCalc h d (fun p =>
    let f := spurField (swW w) (p.src h.lit b) (p.src h.lit c)
    swExt w (aluBfx (swSg w) (p.src h.lit a) f.1 f.2)) s
/-- BFI (R147). -/
def execSpurBfi (h : Hd) (w : SW) (d : BitVec 8) (a b c : Src) (s : State) : Out :=
  spurCalc h (.main d) (fun p =>
    let f := spurField (swW w) (p.src h.lit b) (p.src h.lit c)
    swExt w (aluBfi (p.reg d.toNat) (p.src h.lit a) f.1 f.2)) s
/-- LEA (R148). -/
def execLea (h : Hd) (sh : BitVec 3) (d : Dst) (a b c : Src) (s : State) : Out :=
  spurCalc h d (fun p => p.src h.lit a + (p.src h.lit b <<< sh.toNat) + p.src h.lit c) s
/-- SEL (R148). -/
def execSpurSel (h : Hd) (d : Dst) (a b c : Src) (s : State) : Out :=
  spurCalc h d (fun p => if p.src h.lit c != 0 then p.src h.lit a else p.src h.lit b) s
/-- LI (R149). -/
def execSpurLi (h : Hd) (w : SW) (hi : Bool) (d : BitVec 8) (a : Src) (s : State) : Out :=
  spurCalc h (.main d) (fun p =>
    let x := p.src h.lit a
    if hi then x.extractLsb' 0 32 ++ (p.reg d.toNat).extractLsb' 0 32 else swExt w (swView w x)) s
/-- CMP (R150): the bit is written without Ext. -/
def execCmp (h : Hd) (w : SW) (cc : CC) (d : Dst) (a b : Src) (s : State) : Out :=
  spurCalc h d (fun p => if aluCmp (swW w) (swSg w) cc (p.src h.lit a) (p.src h.lit b) then 1 else 0) s

/-! ## Control flow (R151, R152) -/

/-- The Spur goes on at a target, with a register written; a target outside global addresses takes MISALIGNED. -/
def State.spurJump (s : State) (c : Nat) (target : DWord) (f : Spur → Spur) : State :=
  if target.extractLsb' 56 8 != 0 || target.extractLsb' 0 2 != 0 then s.spurTrap c cMisaligned target
  else (s.onSpur c f).spurNext c target

/-- A control transfer whose guard holds, else the next instruction. -/
def spurFlow (h : Hd) (f : Nat → Spur → State) (s : State) : Out :=
  onScalar (hdLen h) s fun c =>
    let p := (s.core c).spur
    if p.guard h then f c p else s.spurSkip c (hdLen h)

/-- The PC of the next instruction. -/
def Spur.nextPc (p : Spur) (h : Hd) : DWord := p.pc + BitVec.ofNat 64 (4 * hdLen h)

/-- BR (R151). -/
def execBr (h : Hd) (off : BitVec 20) (s : State) : Out :=
  spurFlow h (fun c p => s.spurJump c (offTarget p.pc (hdLen h) off) id) s
/-- CALL (R151). -/
def execCall (h : Hd) (d : BitVec 8) (off : BitVec 20) (s : State) : Out :=
  spurFlow h (fun c p => s.spurJump c (offTarget p.pc (hdLen h) off) fun q => q.setReg d.toNat (p.nextPc h)) s
/-- LOOPN (R151). Where the branch is not taken its target is not judged (DESIGN CHOICE, log 91). -/
def execLoopn (h : Hd) (d : BitVec 8) (off : BitVec 20) (s : State) : Out :=
  spurFlow h (fun c p =>
    let n := p.reg d.toNat
    if n = 0 then s.spurSkip c (hdLen h)
    else if n = 1 then s.spurDone c (hdLen h) fun q => q.setReg d.toNat 0
    else s.spurJump c (offTarget p.pc (hdLen h) off) fun q => q.setReg d.toNat (n - 1)) s
/-- JMP (R152). -/
def execJmp (h : Hd) (d : BitVec 8) (a : Src) (s : State) : Out :=
  spurFlow h (fun c p => s.spurJump c (p.src h.lit a) fun q => q.setReg d.toNat (p.nextPc h)) s
/-- RET (R152). -/
def execRet (h : Hd) (a : Src) (s : State) : Out := spurFlow h (fun c p => s.spurJump c (p.src h.lit a) id) s

end Sys2Proof.Machine
end

