-- ==== Sys2Proof/Machine/SpurMemory.lean ====
section
/-! DEFINITION. The Spur's loads, stores and atomics (R141 to R143, R153, R154). -/

namespace Sys2Proof.Machine

/-- Bytes of a Spur size (R153). -/
def sszBytes (sz : SSz) : Nat := match sz with | .b64 => 8 | .s8 | .z8 => 1 | .s16 | .z16 => 2 | .s32 | .z32 => 4

/-- A Spur memory instruction's address checks (R141); `body` runs with the actor, its number and the place. An access to a
scratch line whose presence bit is clear does not issue (R23). -/
def spurMem (h : Hd) (absent : State → Bool) (size : Nat) (addr : State → Nat → Spur → Addr)
    (body : State → Nat → Spur → Nat → Place → State) (s : State) : Out :=
  onScalar (hdLen h) s fun c =>
    let p := (s.core c).spur
    if !p.guard h then s.spurSkip c (hdLen h)
    else
      let x := addr s c p
      let cause := if absent s then cUnitAbsent else s.addrCause size x
      if cause != 0 then s.spurTrap c cause x.val
      else if s.bitWaits c x.place then s else body s c p (s.nextPos (spurActor c)) x.place

/-- The Spur holds back younger instructions until this access ends (R143). -/
def State.spurHold (s : State) (c : Nat) (pos : Nat) (next : DWord) : State :=
  (s.onSpur c fun p => { p with busy := some (pos, next) }).bump (spurActor c)

/-- A new access of the Spur, named by its own PC (R462). -/
def State.spurAcc (s : State) (c pos : Nat) (pc : DWord) (sc : Nat) (acq rel : Bool) : Acc :=
  s.newAcc (spurActor c) pos pc pc 0 sc acq rel

/-- SLD (R153). -/
def execSld (h : Hd) (sz : SSz) (ord : Ord) (d : Dst) (a b : Src) (s : State) : Out :=
  spurMem h (fun s => s.ordAbsent ord) (sszBytes sz) (fun s c p => s.eaOf c (p.src h.lit a + p.src h.lit b))
    (fun s c p pos pl =>
      (s.issueLoad { acc := s.spurAcc c pos p.pc (ordCode ord) (ordSync ord) false, bytes := sszBytes sz
                     lanes := [⟨0, pl⟩], dest := ⟨d, .spurLd sz⟩ }).spurHold c pos (p.nextPc h)) s

/-- The verdicts on a Spur store that are given before it leaves: its cause, 0 where it may go, whether later verdicts
hold the Spur, and the translation that it has passed (R143, R251, R289). A Cairn line is judged at its home, a race before damage
(R141). A line that an engine owns recalls first, and the
Spur stalls meanwhile (R170). -/
def State.storeCheck (s : State) (c : Nat) (pl : Place) : Nat × Bool × Option Page :=
  match pl with
  | .glob asid va =>
    if ((s.core c).copy asid (va / 128)).any (fun k => s.eligible pl && !k.pw) then (cPermission, false, none)
    else
      match s.locGlob .wr asid va with
      | .error cause => (cause, false, none)
      | .ok (.phys p) =>
        if p.k then (0, true, none)
        else if s.damaged (.phys p) then (cMemError, false, none)
        else if s.ownedByOther (spurActor c) (.phys p) then (0, true, none) else (0, false, some p)
      | .ok _ => (0, true, none)
  | .scr core off =>
    if core != c then (0, true, none)
    else if s.damaged (.scr core off) then (cMemError, false, none) else (0, false, none)
  | .win _ _ => (0, true, none)

/-- SST (R143, R153). -/
def execSst (h : Hd) (sz : SSz) (ord : Ord) (d : BitVec 8) (a b : Src) (s : State) : Out :=
  spurMem h (fun s => s.ordAbsent ord) (sszBytes sz) (fun s c p => s.eaOf c (p.src h.lit a + p.src h.lit b))
    (fun s c p pos pl =>
      if !s.ordReady (spurActor c) pos ord then s
      else
        let (cause, hold, ph) := s.storeCheck c pl
        if cause != 0 then s.spurTrap c cause (pl.ea c)
        else
          let acc := s.spurAcc c pos p.pc (ordCode ord) false (ordSync ord)
          let s := s.issueEntry acc pl 1 (.store (leBytes (sszBytes sz) (p.reg d.toNat).toNat)) (some ⟨.main d, .data⟩) ph
          let s := s.ordPublish (spurActor c) ord
          if hold then s.spurHold c pos (p.nextPc h) else s.spurSkip c (hdLen h)) s

/-- The operation of a SAMO (R154). -/
def saOp (op : SAop) (w : SW) : AtOp :=
  match op with
  | .add => .int .add
  | .min => .int (if swSg w then .smin else .zmin)
  | .max => .int (if swSg w then .smax else .zmax)
  | .and => .int .and
  | .or => .int .or
  | .xor => .int .xor
  | .xchg => .int .xchg
  | .cas => .cas

/-- SAMO (R154): always acquire and release at its scope. -/
def execSamo (h : Hd) (op : SAop) (w : SW) (sc : Scope) (d : Dst) (a b : Src) (c : Option Src) (s : State) : Out :=
  let n := swW w / 8
  spurMem h (fun s => s.noDom sc) n
    (fun s k p => if op = .cas then s.homeEa k (p.src h.lit a) else s.eaOf k (p.src h.lit a))
    (fun s k p pos pl =>
      if !s.releaseReady (spurActor k) pos sc then s
      else
        let acc := s.spurAcc k pos p.pc sc.code true true
        let cmp := match c with | some x => p.src h.lit x | none => 0
        let s := s.issueEntry acc pl 1 (.rmw (saOp op w) n [⟨0, p.src h.lit b, cmp⟩]) (some ⟨d, .spurAt w⟩) none
        (s.publish (spurActor k)).spurHold k pos (p.nextPc h)) s

end Sys2Proof.Machine
end

