-- ==== Sys2Proof/Machine/TravInstr.lean ====
section
/-! DEFINITION. The class 6 instructions (R349 to R361). -/

namespace Sys2Proof.Machine

/-! ## WALK (R354) -/

/-- The Spur's instruction done with a result. -/
def State.spurResult (s : State) (c : Nat) (h : Hd) (d : Dst) (x : DWord) : State :=
  s.spurDone c (hdLen h) fun p => p.put d x

/-- A Spur instruction whose guard holds. -/
def spurAct (h : Hd) (f : Nat → Spur → State) (s : State) : Out :=
  onScalar (hdLen h) s fun c =>
    let p := (s.core c).spur
    if p.guard h then f c p else s.spurSkip c (hdLen h)

/-- Every store and atomic of an actor has been acknowledged, and its loads have performed. -/
def State.allAcked (s : State) (a : Nat) : Bool := !s.busy a

/-- WALK (R354). A refused command still takes its number (R462). -/
def execWalk (h : Hd) (d : BitVec 8) (a : Src) (s : State) : Out :=
  spurAct h (fun c p =>
    let va := p.src h.lit a
    let cause := s.addrCause 256 (s.homeEa c va)
    if cause != 0 then s.spurTrap c cause va
    else
      match (s.core c).idleCtx with
      | none => (s.takeSeq c).1.spurResult c h (.main d) 0x01
      | some i =>
        if !s.allAcked (spurActor c) then s
        else
          match s.walkRead c i p.pc va.toNat with
          | .wait => s
          | .fault cause v s => s.spurTrap c cause (BitVec.ofNat 64 v)
          | .refused code s => ((s.takeSeq c).1.publish (spurActor c)).spurResult c h (.main d) (BitVec.ofNat 64 code)
          | .ok q offs s =>
            let pub := s.pubEntry (spurActor c)
            let (s, n) := s.takeSeq c
            let s := (s.publish (spurActor c)).spurResult c h (.main d) (BitVec.ofNat 64 (256 * i))
            s.walkStart c i q offs va p.pc n none pub) s

/-! ## WSTAT (R355) -/

/-- An instance of a context that awaits fault service (R355, R363). -/
def State.handlerFaulted (s : State) (c i : Nat) : Bool :=
  ((s.core c).running i).any fun n => ((s.core c).members n).any fun k => (s.tg c k).svc.isSome

/-- A fetch or mask read of a context that awaits fault service. -/
def Ctx.fetchFaulted (x : Ctx) : Bool :=
  x.maskFault.isSome || [false, true].any fun b => (List.range 4).any fun n => !(x.slot b n).faults.isEmpty

/-- The value of a WSTAT item. -/
def State.walkStat (s : State) (c i : Nat) (w : Wi) : DWord :=
  let x := s.ctx c i
  match w with
  | .state =>
    0#40 ++ BitVec.ofNat 8 (if x.state = xIdle then x.status else 0) ++ x.flags ++ BitVec.ofNat 2 ((s.core c).pout i) ++ 0#3 ++
    BitVec.ofBool x.fetchFaulted ++ BitVec.ofBool (s.handlerFaulted c i) ++ 0#1 ++ BitVec.ofNat 3 x.state
  | .steps => BitVec.ofNat 64 (Nat.min x.stepsDone (2 ^ 40 - 1))
  | .pstall => BitVec.ofNat 64 (Nat.min x.pstall (2 ^ 32 - 1))
  | .cstall => BitVec.ofNat 64 (Nat.min x.cstall (2 ^ 32 - 1))
  | .fstall => BitVec.ofNat 64 (Nat.min x.fstall (2 ^ 32 - 1))
  | .upcalls => BitVec.ofNat 64 (Nat.min x.upcalls (2 ^ 32 - 1))

/-- A whole-TG result under the guard of the lowest active thread, or its cause (R350). -/
def tgOnce (h : Hd) (d : Dst) (f : Nat → Nat → Tg → Nat → Except Nat DWord) (s : State) : Out :=
  onLane (hdLen h) s fun c k arm =>
    let t := s.tg c k
    if !t.leadGuard arm h.pred h.pn then s.tgSkip c k arm (hdLen h)
    else
      match f c k t (t.lead arm) with
      | .error cause => s.tgCause c k arm (hdLen h) cause
      | .ok v => s.tgDone c k arm (hdLen h) (t.putTg true (s.nextPos (tgActor c k)) (t.contrib arm h.pred h.pn) d v)

/-- WSTAT (R355). -/
def execWstat (h : Hd) (item : Wi) (d : Dst) (a : Src) (s : State) : Out :=
  match s.who with
  | .spur _ =>
    spurAct h (fun c p =>
      let i := (p.src h.lit a).toNat
      if i > 1 then s.spurTrap c cBadOperand 0 else s.spurResult c h d (s.walkStat c i item)) s
  | _ =>
    tgOnce h d (fun c _ t i =>
      let n := (t.src32 h.lit i a).toNat
      if n > 1 then .error cBadOperand else .ok (s.walkStat c n item)) s

/-! ## WPAUSE, WRESUME, WCANCEL (R356) -/

/-- A context command: it names context 0 or 1, and answers whether it changed the state. A command that `wait` holds is taken at a
later turn. -/
def ctxInstr (h : Hd) (d : Dst) (a : Src) (f : State → Nat → Nat → Option State) (wait : State → Nat → Nat → Bool)
    (s : State) : Out :=
  spurAct h (fun c p =>
    let i := (p.src h.lit a).toNat
    if i > 1 then s.spurTrap c cBadOperand 0
    else if wait s c i then s
    else
      match f s c i with
      | some s => s.spurResult c h d 1
      | none => s.spurResult c h d 0) s

/-- A pause (R356): producers raised, not dispatched and not needed by the running step are withdrawn. -/
def State.pauseWalk (s : State) (c i : Nat) : Option State :=
  let x := s.ctx c i
  if x.state != xWalking then none
  else
    let drop (u : Upcall) : Bool :=
      u.ctx = i && u.kind ≤ 1 && !(x.run && (x.slot (u.kind = 1) u.slot).step = x.runStep)
    let gone := (s.core c).upq.filter drop
    let x := gone.foldl (fun x u => x.setSlot (u.kind = 1) u.slot { x.slot (u.kind = 1) u.slot with st := 3 }) x
    let s := s.onCore c fun k =>
      { (k.setCtx i { x with state := xPausing }) with upq := k.upq.filter fun u => !drop u }
    some (s.walkGo c i)

/-- A resume (R356, R365). -/
def State.resumeWalk (s : State) (c i : Nat) : Option State :=
  let x := s.ctx c i
  if x.state = xPaused || x.state = xPausing then
    some ((s.setCtx c i { x with state := xWalking }).walkGo c i)
  else none

/-- A cancel (R356). -/
def State.stopWalk (s : State) (c i : Nat) : Option State :=
  let x := s.ctx c i
  if x.state = xPaused then some (s.walkEnd c i 0x11)
  else if x.state = xWalking || x.state = xPausing then some ((s.cancelWalk c i 0x11).walkGo c i)
  else none

/-- WPAUSE. -/
def execWpause (h : Hd) (d : Dst) (a : Src) (s : State) : Out := ctxInstr h d a State.pauseWalk (fun _ _ _ => false) s
/-- WRESUME. -/
def execWresume (h : Hd) (d : Dst) (a : Src) (s : State) : Out := ctxInstr h d a State.resumeWalk (fun _ _ _ => false) s
/-- WCANCEL: a paused walk is discarded at once, when the stores and atomics of its handlers have been acknowledged, before which no
walk finishes (R353, R356). -/
def execWcancel (h : Hd) (d : Dst) (a : Src) (s : State) : Out :=
  ctxInstr h d a State.stopWalk (fun s c i => (s.ctx c i).state = xPaused && s.handlerBusy c i) s

/-! ## Handlers (R351, R352) -/

/-- A walk that a context holds uses a handler ID. -/
def Ctx.uses (x : Ctx) (id : Nat) : Bool :=
  x.state != xIdle &&
  (x.prob.cons = id || (x.prob.akind = 2 && x.prob.proda = id) || (x.prob.bkind = 2 && x.prob.prodb = id))

/-- A handler ID that may not be rebound now. -/
def Core.handlerInUse (c : Core) (id : Nat) : Bool :=
  (c.ctx 0).uses id || (c.ctx 1).uses id || c.insts.any fun n => n.up.hid = id

/-- Whether a pool of some slots with some registers can hold a handler (R351, R352). -/
def poolHolds (slots hregs : Nat) (h : Handler) : Bool :=
  h.regs ≤ hregs && h.wid ≤ slots && (alignedIn ((List.range 16).filter fun k => k ≥ 16 - slots) 0 h.wid).isSome

/-- HREG (R352). -/
def execHreg (h : Hd) (wid : Wid) (a b c : Src) (s : State) : Out :=
  spurAct h (fun k p =>
    let id := (p.src h.lit a).toNat
    let pc := p.src h.lit b
    let cfg := p.src h.lit c
    let regs := (cfg.extractLsb' 0 9).toNat
    let maxi := (cfg.extractLsb' 16 5).toNat
    let e : Handler := ⟨pc, widN wid, (regs + 7) / 8 * 8, maxi⟩
    let core := s.core k
    let csr := core.csr
    if id > 15 || cfg &&& ~~~(0x1F01FF#64) != 0 || regs = 0 || regs > 256 || maxi = 0 || maxi > 16 ||
        !poolHolds csr.poolSlots csr.hregs e || core.handlerInUse id then s.spurTrap k cBadOperand 0
    else if pc.extractLsb' 0 2 != 0 || pc.extractLsb' 56 8 != 0 then s.spurTrap k cMisaligned pc
    else (s.onCore k fun x => { x with handlers := mset none x.handlers id (some e) }).spurSkip k (hdLen h)) s

/-- HUNREG (R352). -/
def execHunreg (h : Hd) (a : Src) (s : State) : Out :=
  spurAct h (fun k p =>
    let id := (p.src h.lit a).toNat
    if id > 15 || (s.core k).handlerInUse id then s.spurTrap k cBadOperand 0
    else (s.onCore k fun x => { x with handlers := mset none x.handlers id none }).spurSkip k (hdLen h)) s

/-! ## HDESC and ACLD (R359, R360) -/

/-- The running instance that a group belongs to. -/
def Core.instFor (c : Core) (t : Tg) : Option Inst := if t.alive then t.handler.bind c.instOf else none

/-- A descriptor item (R359). -/
def descItem (x : Ctx) (u : Upcall) (n : Nat) : DWord :=
  let p := x.prob
  let t := u.tile
  let cons := u.kind = 2
  let b := u.kind = 1
  BitVec.ofNat 64 <| match n with
  | 0 => if b then 0 else t.row0
  | 1 => if cons then p.tw * t.tj else if b then p.first true t else 0
  | 2 => (if cons then t.rows else p.storedMask b t) / 2 ^ 64
  | 3 => if cons then t.cols / 2 ^ 64 else 0
  | 4 => x.spc.toNat
  | 5 => x.cseq.toNat
  | 6 => x.recva.toNat
  | 7 => if cons then 0 else 32 * p.ksteps * u.kk
  | 8 => if p.grouped then x.offs.getD t.group 0 + 2 ^ 32 * x.offs.getD (t.group + 1) 0 else 0
  | _ => (fpClear x.fp).toNat

/-- HDESC (R359). -/
def execHdesc (h : Hd) (d : Dst) (a : Src) (s : State) : Out :=
  tgOnce h d (fun c _ t i =>
    let n := (t.src32 h.lit i a).toNat
    match (s.core c).instFor t with
    | some e => if n > 9 then .error cBadOperand else .ok (descItem (s.ctx c e.up.ctx) e.up n)
    | none => .error cBadOperand) s

/-- Words of an ACLD. -/
def nwCount (nw : Nw) : Nat := match nw with | .x1 => 1 | .x2 => 2 | .x4 => 4

/-- Consecutive main registers of a thread written, with `l0` the first word. -/
def Tg.putWords (t : Tg) (pos i : Nat) (d : Dst) (ws : List Word) : Tg :=
  match d with
  | .main n => ((ws.zip (List.range ws.length)).foldl (fun t w => t.setV (n.toNat + w.2) i w.1) t).setL0 pos i (ws.headD 0)
  | d => t.put32 pos i d (ws.headD 0)

/-- ACLD (R360). -/
def execAcld (h : Hd) (nw : Nw) (d : Dst) (a b : Src) (s : State) : Out :=
  onLane (hdLen h) s fun c k arm =>
    let t := s.tg c k
    let n := nwCount nw
    let len := hdLen h
    if !t.leadGuard arm h.pred h.pn then s.tgSkip c k arm len
    else
      match (s.core c).instFor t with
      | none => s.tgCause c k arm len cBadOperand
      | some e =>
        let u := e.up
        if u.kind != 2 then s.tgCause c k arm len cBadOperand
        else
          let x := s.ctx c u.ctx
          let p := x.prob
          let row (i : Nat) : Nat := (t.src32 h.lit i a).toNat
          let col (i : Nat) : Nat := (t.src32 h.lit i b).toNat
          let m := t.contrib arm h.pred h.pn
          let errs := (lanesOf m).filterMap fun i =>
            if col i % n != 0 then some (i, cMisaligned)
            else if row i ≥ p.th || col i + n > p.tw then some (i, cArith) else none
          if !errs.isEmpty then s.tgLanes c k arm len errs fun _ => 0
          else
            let pos := s.nextPos (tgActor c k)
            let ws := (x.bank u.slot).words
            s.tgDone c k arm len ((lanesOf m).foldl (fun t' i => t'.putWords pos i d
              ((List.range n).map fun j => mget 0 ws (p.bankWord u.sub (row i) (col i + j)))) t)

/-! ## HRET (R58, R361) -/

/-- The format words that a member's threads vote. -/
def Tg.votes (t : Tg) (h : Hd) (a : Src) : List (Nat × Word) :=
  (lanesOf (t.contrib true h.pred h.pn)).map fun i => (i, t.src32 h.lit i a)

/-- A thread's word needs an absent unit (R4). -/
def State.wordAbsent (s : State) (w : Word) : Bool :=
  let f := FmtWord.ofWord w
  (f.sparse && !s.hasSpgen) || (f.cplx && !s.hasCplx)

/-- The cause of a producer's vote, 0 for none: UNIT_ABSENT, then disagreement, then a malformed word (R58). -/
def State.voteCause (s : State) (ws : List Word) (isA cplx : Bool) : Nat :=
  let w := ws.headD 0
  if ws.any s.wordAbsent then cUnitAbsent
  else if ws.any (· != w) then cFormatDivergence
  else if fmtMalformed isA w || (FmtWord.ofWord w).cplx != cplx then cBadFormat else 0

/-- A trap of HRET in one member. -/
def State.hretTrap (s : State) (c : Nat) (h : Hd) (a : Src) (cause k : Nat) : State :=
  let t := s.tg c k
  let s := s.setTg c k { t with arrived := false }
  let bad := (t.votes h a).filterMap fun p => if s.wordAbsent p.2 then some (p.1, cUnitAbsent) else none
  if cause = cUnitAbsent then s.tgStop c k true (hdLen h) cause (laneVec bad) 0 []
  else s.tgCause c k true (hdLen h) cause

/-- The instance's end (R361): the flags of every member, those that ended by EXIT among them (R60), publications, its hold returned,
and its groups ended. -/
def State.hretDone (s : State) (c : Nat) (h : Hd) (n : Inst) (live : List Nat) (fmt : Word) : State :=
  let u := n.up
  let x := s.ctx c u.ctx
  let d := descriptor x u n.inst
  let fl := live.foldl (fun f k => f ||| fpFlags (s.tg c k).fpctl) (x.flags ||| n.flags)
  let s := live.foldl (fun s k => (s.publish (tgActor c k)).tgSkip c k true (hdLen h)) s
  let s := s.setCtx c u.ctx { x with flags := fl }
  let s := s.trace c 4 (tgActor c (n.slots.headD 0)) x.spc x.cseq (d.getD 0 0).toNat (d.getD 1 0).toNat
  let s := live.foldl (fun s k => s.onTg c k fun t => { t with live := 0, path := 0, arrived := false }) s
  ((s.instReturn c n fmt).instDrop c n.id).walkGo c u.ctx

/-- HRET (R361). -/
def execHret (h : Hd) (a : Src) (s : State) : Out :=
  onLane (hdLen h) s fun c k arm =>
    let t := s.tg c k
    if !t.leadGuard arm h.pred h.pn then s.tgSkip c k arm (hdLen h)
    else if t.frame.isSome then s.tgCause c k arm (hdLen h) cXretState
    else
      match (s.core c).instFor t with
      | none => s.tgCause c k arm (hdLen h) cBadOperand
      | some n =>
        if t.div.isSome then s.tgCause c k arm (hdLen h) cBadOperand
        else
          let s := s.setTg c k { t with arrived := true }
          let live := (s.core c).members n
          let here (j : Nat) : Bool := let u := s.tg c j; u.arrived && u.div.isNone && u.svc.isNone && u.late.isEmpty && u.pc = t.pc
          if !live.all here then s
          else
            let ws := live.flatMap fun j => ((s.tg c j).votes h a).map Prod.snd
            let cause := if n.up.kind = 2 then 0 else s.voteCause ws (n.up.kind = 0) (s.ctx c n.up.ctx).prob.cplx
            if cause != 0 then
              if live.any fun j => s.busy (tgActor c j) then s
              else live.foldl (fun s j => s.hretTrap c h a cause j) s
            else if !live.all fun j => s.releaseReady (tgActor c j) (s.nextPos (tgActor c j)) .core then s
            else s.hretDone c h n live (ws.headD 0)

end Sys2Proof.Machine
end

