-- ==== Sys2Proof/Machine/SpurEngine.lean ====
section
/-! DEFINITION. The class 1 instructions of the Spur: fork sets, gangs, decision words, job cards, copy programs and the
end of the Spur (R20, R22, R115 to R122, R155 to R164, R168). YIELD is with the saves. -/

namespace Sys2Proof.Machine

/-! ## Reads by an instruction (R119, R143, R157) -/

/-- A read of one line's bytes as an acquire load at `.core` that performs at once. A race traps as the load's would. -/
def State.spurRead (s : State) (core : Nat) (pc : DWord) (va n : Nat) : ReadAns :=
  let a := spurActor core
  let acc := s.newAcc a (s.nextPos a) pc pc 0 1 true false
  let t : LoadLane := ⟨0, vaPlace (s.asidOf core) va⟩
  let l : Load := { acc, bytes := n, lanes := [t], dest := ⟨.main 0, .word⟩ }
  if !s.mayPerform l l.lanes then .wait
  else
    match s.performLane l false t with
    | .wait => .wait
    | .value v _ s => .ok (leBytes n v) s
    | .fault c r s => .fault c va (if r.isEmpty then s else s.raceLog core r)

/-- A read that may cover several lines; `fuel` bounds the lines. -/
def State.spurBytes (s : State) (core : Nat) (pc : DWord) : Nat → Nat → Nat → ReadAns
  | 0, _, _ => .ok [] s
  | fuel + 1, va, n =>
    if n = 0 then .ok [] s
    else
      let k := Nat.min n (128 - va % 128)
      match s.spurRead core pc va k with
      | .ok bs s =>
        match s.spurBytes core pc fuel (va + k) (n - k) with
        | .ok cs s => .ok (bs ++ cs) s
        | r => r
      | r => r

/-- The Spur stalled in a run state, with its instruction to be tried again. -/
def State.spurPark (s : State) (core : Nat) (r : Run) : State := s.onSpur core fun p => { p with run := r }

/-! ## FORK (R156, R157) -/

/-- A gang entry of a fork descriptor. -/
structure GangEntry where
  part : Option Nat
  width : Nat
  pc : DWord
  arg : DWord
  deriving DecidableEq, Repr

/-- The fields of a fork descriptor (R156). -/
structure ForkDesc where
  trv : Bool
  qmask : Nat
  prec : DWord
  progs : List DWord
  gangs : List GangEntry
  deriving DecidableEq, Repr

/-- A 64-bit field of some bytes. -/
def quadAt (bs : List Byte) (off : Nat) : DWord := BitVec.ofNat 64 (fieldAt bs off 8)

/-- A gang entry's 16 bytes; `none` is BAD_RECORD. -/
def GangEntry.ofBytes (bs : List Byte) : Option GangEntry :=
  let hi := quadAt bs 8
  let part := (hi.extractLsb' 58 4).toNat
  let wid := (hi.extractLsb' 56 2).toNat
  let pc : DWord := (hi.extractLsb' 0 56).setWidth 64
  if hi.extractLsb' 62 2 != 0 || wid = 3 || (8 ≤ part && part ≤ 14) || pc.extractLsb' 0 2 != 0 then none
  else some ⟨if part = 15 then none else some part, 2 ^ wid, pc, quadAt bs 0⟩

/-- A descriptor's 320 bytes; `none` is BAD_RECORD. -/
def ForkDesc.ofBytes (core asid : Nat) (bs : List Byte) : Option ForkDesc :=
  let h := quadAt bs 0
  let qmask := (h.extractLsb' 1 4).toNat
  let n := (h.extractLsb' 5 5).toNat
  let prec := quadAt bs 8
  let progs := (List.range 4).map fun k => quadAt bs (16 + 8 * k)
  let badProg (k : Nat) : Bool :=
    let p := progs.getD k 0
    qmask.testBit k && (p.toNat % 16 != 0 || match decodeEa core asid p with | .ok _ => false | .bad _ => true)
  if h.extractLsb' 10 54 != 0 || (bs.drop 48).take 16 != List.replicate 16 0 || n > 16 ||
      (h.getLsbD 0 && (prec.toNat % 256 != 0 || prec.toNat ≥ 2 ^ 56)) || (List.range 4).any badProg then none
  else
    ((List.range n).mapM fun k => GangEntry.ofBytes ((bs.drop (64 + 16 * k)).take 16)).map fun gangs =>
      ⟨h.getLsbD 0, qmask, prec, progs, gangs⟩

/-- The lowest free fork set number. -/
def Spur.freeSet (p : Spur) : Option Nat := (List.range 8).find? fun k => !p.sets.any fun f => f.num = k

/-- A queue that runs or is held by an outstanding fork set. -/
def State.queueTaken (s : State) (core q : Nat) : Bool := (s.queue core q).run || (s.queue core q).fset.isSome

/-- Gangs placed one after another and started, with their slots; `none` where one cannot be placed (R158). -/
def State.placeGangs (s : State) (core : Nat) (spc seq : DWord) (pub : ViewEnt × BitVec 18) :
    List GangEntry → Option (State × List Member)
  | [] => some (s, [])
  | g :: l =>
    match s.findGang core g.width g.part with
    | none => none
    | some b =>
      let ms := (List.range g.width).map fun i => Member.tg (b + i)
      ((s.startGang core b g.width g.pc g.arg spc seq pub).placeGangs core spc seq pub l).map fun r => (r.1, ms ++ r.2)

/-- The queues of a fork set started. -/
def State.startQueues (s : State) (core : Nat) (d : ForkDesc) (k : Nat) (spc seq : DWord) (pub : ViewEnt × BitVec 18) : State :=
  (List.range 4).foldl (fun s n =>
    if d.qmask.testBit n then s.startQueue core n (d.progs.getD n 0) 0 spc seq (some k) pub else s) s

/-- What the Traverse member's record gives: its report bits with the walk to be started, or a reason to stop. -/
inductive ForkWalk
  | wait
  | fault (cause va : Nat) (s : State)
  | ok (rep : Nat) (walk : Option (Nat × Prob × List Nat)) (s : State)

/-- The Traverse member decided (R157). -/
def State.forkWalk (s : State) (core : Nat) (pc : DWord) (d : ForkDesc) : ForkWalk :=
  if !d.trv then .ok 0 none s
  else
    match (s.core core).idleCtx with
    | none => .ok 2 none s
    | some i =>
      if !s.hasPeer && inWindow d.prec.toNat then .fault cUnitAbsent d.prec.toNat s
      else
        match s.walkRead core i pc d.prec.toNat with
        | .wait => .wait
        | .fault c v s => .fault c v s
        | .refused code s => .ok (256 * code) none s
        | .ok p offs s => .ok 0 (some (i, p, offs)) s

/-- Every member of a fork set started, or the report of why none is (R157). -/
def State.forkStart (s : State) (core : Nat) (h : Hd) (dst : BitVec 8) (d : ForkDesc) (rep : Nat)
    (walk : Option (Nat × Prob × List Nat)) : State :=
  let p := (s.core core).spur
  let pub := s.pubEntry (spurActor core)
  let (t, seq) := s.takeSeq core
  let busy := (List.range 4).foldl (fun r n =>
    if d.qmask.testBit n && s.queueTaken core n then r + 2 ^ (2 + n) else r) 0
  let placed := (t.publish (spurActor core)).placeGangs core p.pc seq pub d.gangs
  let rep := rep + busy + (if p.freeSet.isNone then 1 else 0) + (if placed.isNone then 64 else 0)
  match rep, p.freeSet, placed with
  | 0, some k, some (u, tgs) =>
    let u := match walk with
      | some (i, q, offs) => u.walkStart core i q offs d.prec p.pc seq (some k) pub
      | none => u
    let u := u.startQueues core d k p.pc seq pub
    let ms := (match walk with | some w => [Member.walk w.1] | none => []) ++
      ((List.range 4).filter fun n => d.qmask.testBit n).map Member.queue ++ tgs
    (u.onSpur core fun p => { p with sets := p.sets ++ [⟨k, ms, ms, 0, []⟩] }).spurResult core h (.main dst)
      (BitVec.ofNat 64 k)
  | rep, _, _ => t.spurResult core h (.main dst) (BitVec.ofNat 64 (2 ^ 63 + rep))

/-- FORK (R157). -/
def execFork (h : Hd) (d : BitVec 8) (a : Src) (s : State) : Out :=
  spurAct h (fun c p =>
    let va := p.src h.lit a
    let ac := spurActor c
    let cause :=
      if s.rowFar (vaPlace (s.asidOf c) va.toNat) 320 then cUnitAbsent else s.addrCause 64 (s.homeEa c va)
    if cause != 0 then s.spurTrap c cause va
    else if !s.reached ac (s.nextPos ac) .core then s
    else
      match s.spurBytes c p.pc 4 va.toNat 320 with
      | .wait => s
      | .fault cause v s => s.spurTrap c cause (BitVec.ofNat 64 v)
      | .ok bs t =>
        match ForkDesc.ofBytes c (s.asidOf c) bs with
        | none => t.spurTrap c cBadRecord va
        | some f =>
          match t.forkWalk c p.pc f with
          | .wait => s
          | .fault cause v t => t.spurTrap c cause (BitVec.ofNat 64 v)
          | .ok rep walk t => t.forkStart c h d f rep walk) s

/-! ## RDZV (R20, R160) -/

/-- The actor of a member. -/
def Member.actor (core : Nat) : Member → Nat
  | .walk i => travActor core i
  | .queue q => queueActor core q
  | .tg k => tgActor core k

/-- A member's stores and atomics have been acknowledged and its ownership is gone. -/
def State.memberQuiet (s : State) (core : Nat) (m : Member) : Bool :=
  let a := m.actor core
  (match m with | .tg k => (s.tg core k).alive || !s.busy a | _ => !s.busy a) && !s.owners.any fun o => o.actor = a

/-- The order in which the members' entries are gained: the context, the queues, the groups (R303). -/
def gainKey (p : ViewEnt × BitVec 18) : Nat := if lowOf p.1.actor > 0x80 then lowOf p.1.actor else 256 + lowOf p.1.actor

/-- RDZV (R160): an acquire at `.core`. -/
def execRdzv (h : Hd) (d : Dst) (a : Src) (s : State) : Out :=
  spurAct h (fun c p =>
    let n := (p.src h.lit a).toNat
    match p.sets.find? fun f => f.num = n with
    | none => s.spurTrap c cBadOperand 0
    | some f =>
      if !f.running.isEmpty then s.spurPark c .parkRdzv
      else if !f.members.all (s.memberQuiet c) then s.spurPark c .run
      else
        let s := (sortBy (fun a b => gainKey a ≤ gainKey b) f.gains).foldl (fun s p => s.gainEntry (spurActor c) p) s
        let free (s : State) (m : Member) : State := match m with
          | .queue q => s.onQueue c q fun x => { x with fset := none }
          | _ => s
        let s := f.members.foldl free s
        ((s.onSpur c fun p => { p with sets := p.sets.filter fun g => g.num != n }).acquire c .core).spurResult c h d
          f.status) s

/-! ## WSPAWN (R159) -/

/-- WSPAWN. -/
def execWspawn (h : Hd) (wid : Wid) (d : Dst) (a b c : Src) (s : State) : Out :=
  spurAct h (fun k p =>
    let pc := p.src h.lit a
    let pl := (p.src h.lit c).toInt
    if pl ≥ 8 then s.spurTrap k cBadOperand 0
    else if pc.extractLsb' 0 2 != 0 || pc.extractLsb' 56 8 != 0 then s.spurTrap k cMisaligned pc
    else
      let pub := s.pubEntry (spurActor k)
      let (s, seq) := s.takeSeq k
      let s := s.publish (spurActor k)
      match s.findGang k (widN wid) (if pl < 0 then none else some pl.toNat) with
      | none => s.spurResult k h d 0
      | some base => (s.startGang k base (widN wid) pc (p.src h.lit b) p.pc seq pub).spurResult k h d 1) s

/-! ## DQPUT (R22, R115, R161) -/

/-- DQPUT: a release at `.core`. -/
def execDqput (h : Hd) (a : Src) (s : State) : Out :=
  spurAct h (fun c p =>
    let ac := spurActor c
    if !s.releaseReady ac (s.nextPos ac) .core then s.spurPark c .run
    else if (s.core c).dq.length ≥ 64 then s.spurPark c .parkDq
    else
      let w : DqWord := ⟨p.src h.lit a, s.pubEntry ac⟩
      ((s.onCore c fun k => { k with dq := k.dq ++ [w] }).publish ac).spurSkip c (hdLen h)) s

/-! ## LAUNCH (R117 to R119, R162) -/

/-- The card that a launch record's 64 bytes name; `none` is BAD_RECORD. -/
def State.cardOf (s : State) (core : Nat) (bs : List Byte) : Option Card :=
  match (s.core core).launch with
  | none => none
  | some l =>
    let image := quadAt bs 0
    let w := quadAt bs 8
    let prio := (w.extractLsb' 29 3).toNat
    let cc := (w.extractLsb' 0 29).toNat
    let arg (k : Nat) : DWord := quadAt bs (24 + 8 * k)
    if quadAt bs 56 != 0 || prio > l.prio || (cc != 0 && (arg 3).extractLsb' 0 3 != 0) || image.toNat % 64 != 0 ||
        image.toNat ≥ 2 ^ 56 || (quadAt bs 16).toNat % 8 != 0 then none
    else
      some { vif := l.vif, asid := l.asid, prio, image, args := (List.range 4).map arg, staddr := quadAt bs 16
             ccaddr := if cc = 0 then 0 else BitVec.ofNat 64 (cc * 2 ^ 28 + (arg 3).toNat % 2 ^ 28)
             ccinc := (w.extractLsb' 32 32).toNat, core := none, order := s.nextOrder, acct := { submit := s.refTime } }

/-- The next and the previous compute core of a cluster's ring (R118). -/
def ringNext (core : Nat) : Nat := core / 192 * 192 + (if core % 192 = 190 then 0 else core % 192 + 1)
def ringPrev (core : Nat) : Nat := core / 192 * 192 + (if core % 192 = 0 then 190 else core % 192 - 1)

/-- A card posted to a core's own queue, where it has room (R118). -/
def State.postTo (s : State) (core : Nat) (x : Card) : Option State :=
  if (s.core core).pend.length ≥ 4 then none
  else some { s.onCore core (fun c => { c with pend := c.pend ++ [x] }) with nextOrder := s.nextOrder + 1 }

/-- The queue that a target names: a core's own, or 1024 plus the number of a cluster (R118). -/
def postKey (core : Nat) : Tgt → Nat
  | .self => core
  | .next => ringNext core
  | .prev => ringPrev core
  | .cluster => 1024 + clusterOf core

/-- In this local cycle a Spur of a higher core number has posted to the queue (R119). -/
def State.postLate (s : State) (core : Nat) (tgt : Tgt) : Bool :=
  tieLost (s.cyclesOf core) core (mget (0, 0) s.posts (postKey core tgt))

/-- The post noted. -/
def State.notePost (s : State) (core : Nat) (tgt : Tgt) : State :=
  { s with posts := mset (0, 0) s.posts (postKey core tgt) (s.cyclesOf core + 1, core) }

/-- A card posted to a target (R118). -/
def State.postCard (s : State) (core : Nat) (tgt : Tgt) (x : Card) : Option State :=
  match tgt with
  | .self => s.postTo core x
  | .next => s.postTo (ringNext core) x
  | .prev => s.postTo (ringPrev core) x
  | .cluster =>
    let cl := clusterOf core
    if (s.clq.filter fun e => e.1 = cl).length ≥ 64 then none
    else some { s with clq := s.clq ++ [(cl, x)], nextOrder := s.nextOrder + 1 }

/-- LAUNCH (R119, R162): a release at `.clu`. A parked one keeps the record that it read. -/
def execLaunch (h : Hd) (tgt : Tgt) (try_ : Option Dst) (a : Src) (s : State) : Out :=
  spurAct h (fun c p =>
    let va := p.src h.lit a
    let ac := spurActor c
    let cause := s.addrCause 64 (s.homeEa c va)
    let go (bs : List Byte) (s : State) : State :=
      match s.cardOf c bs with
      | none => s.spurTrap c cBadRecord va
      | some x =>
        let out (s : State) (v : DWord) : State :=
          let s := ((s.takeSeq c).1.publish ac).onSpur c fun p => { p with record := [] }
          match try_ with | some d => s.spurResult c h d v | none => s.spurSkip c (hdLen h)
        if s.postLate c tgt then s.onSpur c fun p => { p with record := bs } else
        match s.postCard c tgt x with
        | some s => out (s.notePost c tgt) 1
        | none =>
          if try_.isSome then out s 0 else s.onSpur c fun p => { p with run := .parkLaunch, record := bs }
    if !p.record.isEmpty then go p.record s
    else if cause != 0 then s.spurTrap c cause va
    else if !s.releaseReady ac (s.nextPos ac) .clu then s
    else
      match s.spurRead c p.pc va.toNat 64 with
      | .wait => s
      | .fault cause v s => s.spurTrap c cause (BitVec.ofNat 64 v)
      | .ok bs s => go bs s) s

/-! ## LJOIN (R122, R163) -/

/-- LJOIN: the counter is read at its home, it gains no entry (R303), and the satisfied join acquires at `.dev`. The access
carries the release kind so that Cairn judges it as synchronising and no view changes. -/
def execLjoin (h : Hd) (a b : Src) (s : State) : Out :=
  spurAct h (fun c p =>
    let va := p.src h.lit a
    let target := p.src h.lit b
    let ac := spurActor c
    let cause := s.addrCause 8 (s.homeEa c va)
    if cause != 0 then s.spurTrap c cause va
    else
      let t : LoadLane := ⟨0, vaPlace (s.asidOf c) va.toNat⟩
      let l : Load := { acc := s.newAcc ac (s.nextPos ac) p.pc p.pc 0 3 false true, bytes := 8, lanes := [t]
                        dest := ⟨.main 0, .word⟩ }
      let park (s : State) : State := s.onSpur c fun p => { p with run := .parkLjoin, watch := some (va, target) }
      if !s.mayPerform l l.lanes then s
      else
        match s.loadHome l false t.place with
        | .wait => if p.run = .parkLjoin then park s else s
        | .fault cause r s => (if r.isEmpty then s else s.raceLog c r).spurTrap c cause va
        | .value v _ u =>
          if v < target.toNat && !p.met then park s
          else ((u.onSpur c fun p => { p with watch := none, met := false }).acquire c .dev).spurSkip c (hdLen h)) s

/-! ## CPROG (R164) -/

/-- The cause that CPROG's addresses and queue take, or 0. -/
def State.cprogCause (s : State) (core : Nat) (a b c : DWord) : Nat :=
  let ans (x : DWord) : Nat := match decodeEa core (s.asidOf core) x with | .ok _ => 0 | .bad k => k
  if !s.hasPeer && (inWindow a.toNat || inWindow c.toNat) then cUnitAbsent
  else if b.toNat > 3 then cBadOperand
  else if a.toNat % 16 != 0 || c.toNat % 8 != 0 then cMisaligned
  else if ans a = cScratchRange || ans c = cScratchRange then cScratchRange
  else if ans a != 0 then ans a else ans c

/-- CPROG: a program is started only once the Spur's older fences are complete, so that a `FENCE.rel.dev` puts the Spur's stores
at their homes before the program reads there (R377; log 68). -/
def execCprog (h : Hd) (d : Dst) (a b c : Src) (s : State) : Out :=
  spurAct h (fun k p =>
    let prog := p.src h.lit a
    let q := (p.src h.lit b).toNat
    let st := p.src h.lit c
    let cause := s.cprogCause k prog (p.src h.lit b) st
    let bad (x : DWord) (n : Nat) : Bool :=
      x.toNat % n != 0 || match decodeEa k (s.asidOf k) x with | .ok (.win _ _) => !s.hasPeer | .ok _ => false | .bad _ => true
    if cause != 0 then s.spurTrap k cause (if cause = cBadOperand then 0 else if bad prog 16 then prog else st)
    else if !(s.actor (spurActor k)).fences.isEmpty then s
    else
      let pub := s.pubEntry (spurActor k)
      let (s, seq) := s.takeSeq k
      if s.queueTaken k q then s.spurResult k h d 0
      else ((s.publish (spurActor k)).startQueue k q prog st p.pc seq none pub).spurResult k h d 1) s

/-! ## TRAP and SDONE (R168) -/

/-- TRAP. -/
def execTrap (h : Hd) (a : Src) (s : State) : Out :=
  spurAct h (fun c p => s.spurTrap c cTrap ((p.src h.lit a).extractLsb' 0 16 |>.setWidth 64)) s

/-- SDONE: the decision queue is closed from here (R169). -/
def execSdone (h : Hd) (s : State) : Out :=
  spurAct h (fun c p =>
    (s.onSpur c fun q => { q with run := .done, pc := p.nextPc h }).bump (spurActor c)) s

end Sys2Proof.Machine
end

