-- ==== Sys2Proof/Machine/Tables.lean ====
section
/-! DEFINITION. What FRS does to page tables: frames, table pages, mapping, the shootdown, protection, removal and moves
(R251 to R253, R255, R257, R261, R263, R289, R299, R417, R419). Which frame and which table page FRS takes is this model's
choice (log 61). -/

namespace Sys2Proof.Machine

/-! ## Frames and table pages -/

/-- 64 KiB frames of a channel below the reserved regions, and those in which a Cairn page may lie (R255, R299). -/
def chanFrames (k : Bool) : Nat := if k then 0x1000 else 0x1DFC

/-- A frame that holds neither a page nor a table. -/
def State.frameFree (s : State) (f : Nat) : Bool := !s.frames.contains f && s.tables.all fun t => t / 8 != f

/-- The lowest run of `n` free frames of a channel, at a multiple of `n`. -/
def State.freeRun (s : State) (ch n : Nat) (k : Bool) : Option Nat :=
  ((List.range (Nat.min (chanFrames k / n) (s.frames.length + s.tables.length + 1))).map fun i => ch * 8192 + n * i).find?
    fun f => (List.range n).all fun j => s.frameFree (f + j)

/-- A free 8 KiB table page: the highest of channel 0. -/
def State.freeTable (s : State) : Option Nat :=
  ((List.range (Nat.min 0xEFE0 (s.tables.length + 8 * s.frames.length + 1))).map fun i => 0xEFDF - i).find?
    fun t => !s.tables.contains t && !s.frames.contains (t / 8)

/-- Bytes of home memory made zero. -/
def State.zeroFill (s : State) (phys n : Nat) : State := { s with mem := s.mem.filter fun p => !(phys ≤ p.1 && p.1 < phys + n) }

/-- A table page taken, zero-filled: its physical address. -/
def State.newTable (s : State) : Option (State × Nat) :=
  s.freeTable.map fun t => ({ s with tables := t :: s.tables }.zeroFill (8192 * t) 8192, 8192 * t)

/-! ## Entries (R255, R417) -/

/-- An entry of levels 1 to 3 for a table. -/
def tableWord (phys : Nat) : DWord :=
  1#1 ++ 0#9 ++ BitVec.ofNat 10 (phys / 2 ^ 29) ++ 0#15 ++ BitVec.ofNat 16 (phys % 2 ^ 29 / 2 ^ 13) ++ 0#13

/-- A leaf entry: attributes SZ, PR, PW, PX, C, EW, K and AU from high to low, and the physical page. -/
def leafWord (attrs : BitVec 9) (phys : Nat) : DWord :=
  1#1 ++ attrs ++ BitVec.ofNat 10 (phys / 2 ^ 29) ++ 0#15 ++ BitVec.ofNat 13 (phys % 2 ^ 29 / 2 ^ 16) ++ 0#16

/-- SZ, PX, C, K and AU of attributes, and PW. -/
def attrSz (a : BitVec 9) : Bool := a.getLsbD 8
/-- PW. -/
def attrPw (a : BitVec 9) : Bool := a.getLsbD 6
/-- PX. -/
def attrPx (a : BitVec 9) : Bool := a.getLsbD 5
/-- C. -/
def attrC (a : BitVec 9) : Bool := a.getLsbD 4
/-- EW. -/
def attrEw (a : BitVec 9) : BitVec 2 := a.extractLsb' 2 2
/-- K. -/
def attrK (a : BitVec 9) : Bool := a.getLsbD 1
/-- AU. -/
def attrAu (a : BitVec 9) : Bool := a.getLsbD 0
/-- The bytes of a page with such attributes. -/
def attrSize (a : BitVec 9) : Nat := if attrSz a then 2 ^ 21 else 2 ^ 16

/-- A word of home memory written. -/
def State.quadWrite (s : State) (phys : Nat) (w : DWord) : State := s.physWrite phys (leBytes 8 w.toNat)

/-- The table that an entry names, made where there is none. -/
def State.tableAt (s : State) (entry : Nat) : Option (State × Nat) :=
  match nextTable (s.physQuad entry) with
  | some t => some (s, t)
  | none => s.newTable.map fun r => (r.1.quadWrite entry (tableWord r.2), r.2)

/-- The place of a VA's leaf entry, its tables made where there are none. -/
def State.leafMake (s : State) (asid va : Nat) : Option (State × Nat) := do
  let (s, t2) ← s.tableAt ((s.space asid).root + va / 2 ^ 46 % 1024 * 8)
  let (s, t3) ← s.tableAt (t2 + va / 2 ^ 36 % 1024 * 8)
  let (s, t4) ← s.tableAt (t3 + va / 2 ^ 26 % 1024 * 8)
  return (s, t4 + va / 2 ^ 16 % 1024 * 8)

/-- The leaf entry of a VA; zero where no table holds one. -/
def State.leafOf (s : State) (asid va : Nat) : DWord := match s.leafAddr asid va with | some a => s.physQuad a | none => 0

/-- A VA is mapped. -/
def State.isMapped (s : State) (asid va : Nat) : Bool := (s.leafOf asid va).getLsbD 63

/-- The attributes of a leaf entry. -/
def leafAttrs (w : DWord) : BitVec 9 := w.extractLsb' 54 9
/-- The first physical byte of the page of a leaf entry. -/
def leafPhys (w : DWord) : Nat := (w.extractLsb' 44 10).toNat * 2 ^ 29 + (w.extractLsb' 16 13).toNat * 2 ^ 16

/-- The 64 KiB steps of a range. -/
def pagesOf (va len : Nat) : List Nat := (List.range (len / 2 ^ 16)).map fun i => va + i * 2 ^ 16

/-- Leaf entries of a page written: one, or the 32 of a 2 MiB page. -/
def State.setLeaves (s : State) (asid va : Nat) (attrs : BitVec 9) (phys : Nat) : Option State :=
  (pagesOf va (attrSize attrs)).foldlM (fun s v => (s.leafMake asid v).map fun r => r.1.quadWrite r.2 (leafWord attrs phys)) s

/-! ## What a page needs before its mapping (R261, R289, R299) -/

/-- Damage that lies in a page. -/
def Damage.inPage (phys size : Nat) : Damage → Bool
  | .line n | .sidecar n => phys ≤ 128 * n && 128 * n < phys + size
  | .block n => phys ≤ 2048 * n && 2048 * n < phys + size
  | .scratch _ _ => false

/-- Raw descriptors for the blocks of a page. -/
def State.rawDescs (s : State) (phys size : Nat) : State := s.physWrite (descAddr phys) (List.replicate (size / 2048) 0x10)

/-- Empty sidecars for the lines of a page; no write of it is remembered. -/
def State.emptySidecars (s : State) (phys size : Nat) : State :=
  let w := leBytes 8 Stamp.empty.word.toNat
  { s.physWrite (sidecarAddr phys) ((List.replicate (size / 64) w).flatten) with
    writers := s.writers.filter fun w => !(phys ≤ 128 * w.line && 128 * w.line < phys + size) }

/-- A page's frame made ready for a new mapping: zero-filled, healed, with its descriptors and sidecars. -/
def State.freshPage (s : State) (phys : Nat) (attrs : BitVec 9) : State :=
  let n := attrSize attrs
  let s := s.zeroFill phys n
  let s := { s with damage := s.damage.filter fun d => !d.inPage phys n }
  let s := if attrC attrs then s.rawDescs phys n else s
  if attrK attrs then s.emptySidecars phys n else s

/-- Frames taken for a page in the home channel of its VA. -/
def State.takeFrames (s : State) (asid va : Nat) (attrs : BitVec 9) : Option (State × Nat) :=
  let n := attrSize attrs / 2 ^ 16
  (s.freeRun (s.home asid va) n (attrK attrs)).map fun f =>
    ({ s with frames := (List.range n).map (f + ·) ++ s.frames }, f * 2 ^ 16)

/-- One page mapped zero-filled; `none` when no frame or table page is left. -/
def State.mapPage (s : State) (asid va : Nat) (attrs : BitVec 9) : Option State := do
  let (s, phys) ← s.takeFrames asid va attrs
  (s.freshPage phys attrs).setLeaves asid va attrs phys

/-- The pages of a size in a range. -/
def stepsOf (size va len : Nat) : List Nat := (List.range (len / size)).map fun i => va + i * size

/-- A range mapped. -/
def State.mapRange (s : State) (asid va len : Nat) (attrs : BitVec 9) : Option State :=
  (stepsOf (attrSize attrs) va len).foldlM (fun s v => s.mapPage asid v attrs) s

/-- The pages of the trap ring that firmware's new base and size give, mapped in address space 0 where they are not (R412, R414;
log 85). -/
def State.mapRing (s : State) (base : DWord) : State :=
  let va := (base.extractLsb' 12 44).toNat * 4096
  let n := (base.extractLsb' 0 5).toNat
  let pages := if n = 0 then [] else (List.range ((va % 65536 + 64 * 2 ^ n + 65535) / 65536)).map fun i => (va / 65536 + i) * 65536
  pages.foldl (fun s v => if s.isMapped 0 v then s else (s.mapPage 0 v 0b011000000).getD s) s

/-- A 2 MiB page lies wholly in one HASH2M or PIN range, so that one home holds it (R253). -/
def bigFits (place : List PlaceEnt) (va : Nat) : Bool :=
  let pg := va / 2 ^ 16
  match place.find? fun e => e.start ≤ pg + 31 && pg ≤ e.limit with
  | some e => e.start ≤ pg && pg + 31 ≤ e.limit && e.mode != 0
  | none => false

/-! ## The shootdown (R251, R263) -/

/-- Copies of lines of a VA range dropped by every core that runs the address space. -/
def Core.dropRange (asid va size : Nat) (c : Core) : Core :=
  { c with copies := c.copies.filter fun k => !(k.asid = asid && va ≤ 128 * k.line && 128 * k.line < va + size) }

/-- The dirty blocks of a page merged; a damaged one keeps its lines (R289). -/
def State.mergePage (s : State) (phys size : Nat) : State :=
  let bs := ((s.dirty.filter fun l => phys ≤ 128 * l.1 && 128 * l.1 < phys + size).map fun l => l.1 / 16).eraseDups
  bs.foldl State.mergeBlock s

/-- A shootdown of a page. -/
def State.shootdown (s : State) (asid va phys size : Nat) : State :=
  let s := s.mergePage phys size
  { s with cores := s.cores.map fun p => (p.1, p.2.dropRange asid va size) }

/-- Stores that have passed their check under a page's mapping and have not been performed, those of saved images among them: a
change of the mapping takes effect after them (R251). -/
def State.inFlightAt (s : State) (phys size : Nat) : Bool :=
  let at_ (e : Entry) : Bool := e.page.any fun p => phys ≤ p.phys && p.phys < phys + size
  s.path.any at_ || (s.actors ++ s.images.flatMap fun i => i.saved.actors).any fun a => a.2.storeQ.any at_

/-- Damage of a block that stops being one: its lines stay damaged. -/
def Damage.asLines (phys size : Nat) (d : Damage) : List Damage :=
  match d with
  | .block n => if d.inPage phys size then (List.range 16).map fun i => .line (16 * n + i) else [d]
  | d => [d]

/-- The blocks of a page stored raw, but for damaged ones, which stay so until the page is unmapped (R261, R289). -/
def State.rawBlocks (s : State) (phys size : Nat) : State :=
  (List.range (size / 2048)).foldl (fun s i =>
    let p := phys + 2048 * i
    if s.damage.contains (.block (p / 2048)) || !descOk (s.desc p) then s else s.physWrite (descAddr p) [0x10]) s

/-- One mapped page rewritten with new attributes of its own size (R251). A mapping that sets C, or another element width,
starts from raw blocks (R261; log 83). -/
def State.protectPage (s : State) (asid va : Nat) (attrs : BitVec 9) : Option State :=
  let w := s.leafOf asid va
  let old := leafAttrs w
  let phys := leafPhys w
  let n := attrSize attrs
  let s := s.shootdown asid va phys n
  let s := if attrC attrs && !attrC old then s.rawDescs phys n else s
  let s := if attrC attrs && attrC old && attrEw attrs != attrEw old then s.rawBlocks phys n else s
  let s := if attrC attrs then s else { s with damage := s.damage.flatMap (Damage.asLines phys n)
                                               dirty := s.dirty.filter fun l => !(phys ≤ 128 * l.1 && 128 * l.1 < phys + n) }
  let s := if attrK attrs && !attrK (leafAttrs w) then s.emptySidecars phys n else s
  s.setLeaves asid va attrs phys

/-- The first frame of a page, as its leaf entry gives it. -/
def leafFrame (w : DWord) : Nat := leafPhys w / 2 ^ 16

/-- A mapped page is an alias (R257). -/
def State.isAlias (s : State) (asid va : Nat) : Bool := s.aliases.any fun a => a.asid = asid && a.page = va / 2 ^ 16

/-- One mapped page removed. Its filter entries go with the canonical mapping or with the last alias, and its frames are
freed with the last mapping (R257, R419; log 84). -/
def State.unmapPage (s : State) (asid va : Nat) : State :=
  let w := s.leafOf asid va
  let phys := leafPhys w
  let n := attrSize (leafAttrs w)
  let mine (f : Nat) : Bool := phys / 2 ^ 16 ≤ f && f < (phys + n) / 2 ^ 16
  let al := s.isAlias asid va
  let canon := !al || s.remaps.any fun r => mine r.frame
  let s := s.shootdown asid va phys n
  let s := (pagesOf va n).foldl (fun s v => match s.leafAddr asid v with | some a => s.quadWrite a 0 | none => s) s
  let s := { s with aliases := s.aliases.filter fun a => !(a.asid = asid && va / 2 ^ 16 ≤ a.page && a.page < (va + n) / 2 ^ 16) }
  let rest := s.aliases.any fun a => mine a.frame
  let s := if al && rest then s else { s with remaps := s.remaps.filter fun r => !mine r.frame }
  if rest || (al && canon) then s
  else
    { s with
      frames := s.frames.filter fun f => !mine f
      dirty := s.dirty.filter fun l => !(phys ≤ 128 * l.1 && 128 * l.1 < phys + n) }

/-! ## Aliases (R257) -/

/-- Filter entries of a channel. -/
def State.remapsOn (s : State) (ch : Nat) : Nat := (s.remaps.filter fun r => r.frame / 8192 = ch).length

/-- The filter entries of a canonical page. -/
def remapsOf (asid va frame n : Nat) : List Remap := (List.range n).map fun i => ⟨frame + i, asid, va / 2 ^ 16 + i⟩

/-- The attributes of an alias of a page that R257 allows: read-only or uncached in every mapping, and alike in all that the home
line depends on. R257 names PW and AU: that SZ, C, EW and K agree too, since one frame has one size, one set of descriptors and one
sidecar, is the model's (DESIGN CHOICE, log 104). -/
def aliasOk (canon attrs : BitVec 9) : Bool :=
  attrSz attrs = attrSz canon && attrC attrs = attrC canon && attrEw attrs = attrEw canon && attrK attrs = attrK canon &&
  attrAu attrs = attrAu canon && (attrAu attrs || (!attrPw attrs && !attrPw canon))

/-- A page mapped as an alias of a canonical page, with its filter entries; `none` where FRS refuses it (R257). -/
def State.mapAlias (s : State) (asid va : Nat) (attrs : BitVec 9) (cAsid cVa : Nat) : Option State :=
  let w := s.leafOf cAsid cVa
  let n := attrSize attrs / 2 ^ 16
  let f := leafFrame w
  let new := if s.remaps.any fun r => r.frame = f then [] else remapsOf cAsid cVa f n
  if !w.getLsbD 63 || va % attrSize attrs != 0 || cVa % attrSize attrs != 0 || !aliasOk (leafAttrs w) attrs ||
      attrPx attrs || s.isAlias cAsid cVa || s.home cAsid cVa != f / 8192 || (pagesOf va (attrSize attrs)).any (s.isMapped asid) ||
      s.remapsOn (f / 8192) + new.length > 4096 then none
  else
    let as := (List.range n).map fun i => ⟨asid, va / 2 ^ 16 + i, f + i⟩
    { s with remaps := new ++ s.remaps, aliases := as ++ s.aliases }.setLeaves asid va attrs (leafPhys w)

/-! ## Every mapped page of an address space -/

/-- The tables that a table's entries name, with their index. -/
def State.tableList (s : State) (t : Nat) : List (Nat × Nat) :=
  (List.range 1024).filterMap fun i => (nextTable (s.physQuad (t + 8 * i))).map fun u => (i, u)

/-- The level 4 tables of an address space with the VA they begin at, and all its table pages. -/
def State.tableTree (s : State) (asid : Nat) : List (Nat × Nat) × List Nat :=
  let r := (s.space asid).root
  if !(s.space asid).live then ([], [])
  else
    let l2 := s.tableList r
    let l3 := l2.flatMap fun x => (s.tableList x.2).map fun y => (x.1 * 1024 + y.1, y.2)
    let l4 := l3.flatMap fun x => (s.tableList x.2).map fun y => (x.1 * 1024 + y.1, y.2)
    (l4.map fun x => (x.1 * 2 ^ 26, x.2), r :: (l2 ++ l3 ++ l4).map Prod.snd)

/-- The first VA of every mapped page, with its leaf entry. -/
def State.mappedPages (s : State) (asid : Nat) : List (Nat × DWord) :=
  (s.tableTree asid).1.flatMap fun x => (List.range 1024).filterMap fun i =>
    let w := s.physQuad (x.2 + 8 * i)
    let va := x.1 + i * 2 ^ 16
    if w.getLsbD 63 && va % attrSize (leafAttrs w) = 0 then some (va, w) else none

/-- An address space emptied and freed: its Cairn pages scrubbed, its pages removed, its tables freed, its scope barriers gone
(R239, R411, R419). -/
def State.freeSpace (s : State) (asid : Nat) : State :=
  let ps := s.mappedPages asid
  let s := ps.foldl (fun s p =>
    if attrK (leafAttrs p.2) && !s.isAlias asid p.1 then s.emptySidecars (leafPhys p.2) (attrSize (leafAttrs p.2)) else s) s
  let ts := (s.tableTree asid).2.map (· / 8192)
  let s := ps.foldl (fun s p => s.unmapPage asid p.1) s
  { s with
    tables := s.tables.filter fun t => !ts.contains t
    spaces := mset {} s.spaces asid {}
    sbars := s.sbars.filter fun b => b.asid != asid
    grants := s.grants.filter fun g => g.asid != asid }

/-! ## Moves after a change of the placement table (R253) -/

/-- Damage of a moved page, at its new place. -/
def Damage.moved (phys dst : Nat) : Damage → Damage
  | .line n => .line (n - phys / 128 + dst / 128)
  | .sidecar n => .sidecar (n - phys / 128 + dst / 128)
  | .block n => .block (n - phys / 2048 + dst / 2048)
  | d => d

/-- The aliases of a moved page follow it, with its filter entries; `none` where its new channel's filter has no room (R257). -/
def State.moveAliases (s : State) (phys dst n : Nat) : Option State :=
  let f := phys / 2 ^ 16
  let g := dst / 2 ^ 16
  let mine (x : Nat) : Bool := f ≤ x && x < f + n / 2 ^ 16
  let rs := s.remaps.filter fun r => mine r.frame
  let as := s.aliases.filter fun a => mine a.frame
  if s.remapsOn (g / 8192) + rs.length > 4096 then none
  else
    let s := { s with
      remaps := s.remaps.map fun r => if mine r.frame then { r with frame := r.frame - f + g } else r
      aliases := s.aliases.map fun a => if mine a.frame then { a with frame := a.frame - f + g } else a }
    as.foldlM (fun s a =>
      let va := a.page * 2 ^ 16
      let s := s.shootdown a.asid va phys (2 ^ 16)
      (s.leafMake a.asid va).map fun r => r.1.quadWrite r.2 (leafWord (leafAttrs (s.leafOf a.asid va)) dst)) s

/-- One page's data moved to its home of now. An alias stays where its canonical page is. -/
def State.movePage (s : State) (asid : Nat) (old : Nat) (va : Nat) (w : DWord) : Option State :=
  let a := leafAttrs w
  let phys := leafPhys w
  let n := attrSize a
  if phys / 2 ^ 29 != old || s.home asid va = old || s.isAlias asid va then some s
  else do
    let s := s.shootdown asid va phys n
    let (s, dst) ← s.takeFrames asid va a
    let bs := s.physBytes phys n
    let sc := s.physBytes (sidecarAddr phys) (n / 8)
    let ds := s.physBytes (descAddr phys) (n / 2048)
    let s := (s.freshPage dst a).physWrite dst bs
    let s := if attrK a then s.physWrite (sidecarAddr dst) sc else s
    let s := if attrC a then s.physWrite (descAddr dst) ds else s
    let hurt := s.damage.filter fun d => d.inPage phys n
    let moved := (s.writers.filter fun w => phys ≤ 128 * w.line && 128 * w.line < phys + n).map fun w =>
      { w with line := w.line - phys / 128 + dst / 128 }
    let s := { s with writers := moved ++ s.writers }
    let s := { s with damage := (s.damage.filter fun d : Damage => !d.inPage phys n) ++ hurt.map (Damage.moved phys dst) }
    let s := { s with frames := s.frames.filter fun f => !(phys / 2 ^ 16 ≤ f && f < (phys + n) / 2 ^ 16) }
    let s ← s.setLeaves asid va a dst
    s.moveAliases phys dst n

/-- A placement table loaded: mapped pages that it re-homes are moved. -/
def State.loadPlace (s : State) (asid : Nat) (l : List PlaceEnt) : Option State :=
  let ps := (s.mappedPages asid).map fun p => (p, s.home asid p.1)
  let s := { s with spaces := mset {} s.spaces asid { s.space asid with place := l } }
  ps.foldlM (fun s p => s.movePage asid p.2 p.1.1 p.1.2) s

end Sys2Proof.Machine
end

