-- ==== Sys2Proof/Machine/System.lean ====
section
/-! DEFINITION. The class 7 instructions and the control registers
(R2, R29, R30, R59, R125, R128 to R132, R165 to R168, R192, R194, R265, R305, R312, R317, R351, R391, R404, R412, R414, R426,
R432, R433, R440, R441, R444, R450, R452, R454, R457, R463, R464, R466, R467). -/

namespace Sys2Proof.Machine

/-! ## Reading a control register (R165, R166) -/

/-- Who reads or writes a control register: the core, the actor, whether it is the Spur, and its own sys.fpctl. -/
structure CsrUser where
  core : Nat
  actor : Nat
  spur : Bool
  fpctl : DWord
  deriving DecidableEq, Repr

/-- The privileged mode of a firmware core (R412, R415). -/
def CsrUser.priv (u : CsrUser) : Bool := u.spur && u.core % 192 = 191

/-- A cluster's place in the cluster order (R457). -/
def State.thermRank (s : State) (c : Nat) : Nat :=
  ((List.range 4).filter fun d =>
    s.clusterPresent d && ((s.cluster d).head > (s.cluster c).head || ((s.cluster d).head = (s.cluster c).head && d < c))).length

/-- sys.vif (R404); zero on a core with no launch. -/
def State.vifWord (s : State) (core : Nat) : DWord :=
  match (s.core core).launch with
  | some l => 0#34 ++ BitVec.ofNat 6 l.vif ++ 0#2 ++ BitVec.ofNat 14 l.asid ++ 0#5 ++ BitVec.ofNat 3 l.prio
  | none => 0

/-- sys.cview (R305). -/
def Actor.viewWord (x : Actor) : DWord := 0#13 ++ x.bc ++ x.bl ++ x.bd ++ BitVec.ofBool x.lossy ++ x.clk

/-- A register of a ring-link set, by its place in the set. -/
def Ring.word (r : Ring) (k : Nat) : DWord := match k with | 0 => r.base | 1 => r.geom | _ => r.pos

/-- The value that a reader finds; `none` is `CSR_ACCESS`. -/
def State.csrRead (s : State) (u : CsrUser) (n : Nat) : Option DWord :=
  let k := s.core u.core
  let c := k.csr
  let cl := s.cluster (clusterOf u.core)
  let ifSpur (x : DWord) : Option DWord := if u.spur then some x else none
  let ifPriv (x : DWord) : Option DWord := if u.priv then some x else none
  match n with
  | 0x01 => some s.caps
  | 0x10 => some u.fpctl
  | 0x20 => ifSpur c.hshare
  | 0x21 => some c.preq
  | 0x22 => ifSpur c.pdeadline
  | 0x23 => ifSpur c.swapwait
  | 0x24 => ifSpur c.parkshare
  | 0x25 => some c.hpool
  | 0x28 => some (s.queueStat u.core 0)
  | 0x29 => some (s.queueStat u.core 1)
  | 0x2A => some (s.queueStat u.core 2)
  | 0x2B => some (s.queueStat u.core 3)
  | 0x30 => some c.tvec
  | 0x31 => some c.tdeleg
  | 0x32 => some c.tframe
  | 0x80 => some (BitVec.ofNat 64 (s.cairnMode u.core))
  | 0x81 => some c.racebase
  | 0x82 => some c.raceidx
  | 0x83 => some (s.actor u.actor).viewWord
  | 0x90 => ifPriv s.ring.base
  | 0x91 => ifPriv s.ring.ctl
  | 0x92 => ifPriv s.ring.rd
  | 0x93 => some (BitVec.ofNat 64 s.domid)
  | 0x94 => some (s.vifWord u.core)
  | 0x98 => some cl.margin
  | 0x99 => some cl.droop
  | 0x9A => some cl.mreqcap
  | 0x9B => some cl.didt
  | 0x9C => some (BitVec.ofNat 56 cl.rank ++ cl.head)
  | 0xA0 => some c.dbgctl
  | 0xA1 => some c.trcbase
  | 0xA2 => some c.trcidx
  | n => if 0x40 ≤ n && n < 0x80 && n % 4 != 3 then some ((k.ring ((n - 0x40) / 4)).word (n % 4)) else none

/-! ## Writing one (R166) -/

/-- The RW bits and the W1C bits of a register for a writer; `none` is `CSR_ACCESS`. -/
def csrFields (u : CsrUser) (n : Nat) : Option (DWord × DWord) :=
  let ifSpur (x : DWord × DWord) : Option (DWord × DWord) := if u.spur then some x else none
  let ifPriv (x : DWord × DWord) : Option (DWord × DWord) := if u.priv then some x else none
  let ringIdx : DWord × DWord := (0x3FFFE0000, 0x8000000000000000)
  let ringBase : DWord × DWord := (0x00FFFFFFFFFFF01F, 0)
  match n with
  | 0x10 => some (0x1F1F, 0)
  | 0x20 => ifSpur (0x7F, 0)
  | 0x22 => ifSpur (0xFFFFFFFF, 0)
  | 0x23 => ifSpur (0xFFFFFFFF, 0)
  | 0x25 => ifSpur (0xFF000F, 0)
  | 0x30 => ifSpur (0x00FFFFFFFFFFFFFD, 0)
  | 0x31 => ifSpur (0x1F03BFFFFE, 0)
  | 0x32 => ifSpur (0x00FFFFFFFFFE0000, 0)
  | 0x81 => ifSpur ringBase
  | 0x82 => ifSpur ringIdx
  | 0x90 => ifPriv ringBase
  | 0x91 => ifPriv (0, 0x8000000000000000)
  | 0x92 => ifPriv (0x1FFFF, 0)
  | 0x98 => ifPriv (0xFFFFFFFFFF, 0)
  | 0x99 => ifPriv (0xFFFFFF, 0)
  | 0x9A => ifPriv (0x3F, 0)
  | 0x9B => ifPriv (0xFFFFFFFFFFFF, 0)
  | 0xA0 => ifSpur (0x3FE0F00C006, 0)
  | 0xA1 => ifSpur ringBase
  | 0xA2 => ifSpur ringIdx
  | n =>
    if 0x40 ≤ n && n < 0x80 then
      match n % 4 with
      | 0 => ifSpur (0xFFFFFFFFFFFFFFFF, 0)
      | 1 => ifSpur (0xFFFF00000FFF0FFF, 0)
      | 2 => ifSpur (0x1FFF0FFF0FFF, 0)
      | _ => none
    else none

/-- A field of a value as a number. -/
def fieldNat (v : DWord) (lo n : Nat) : Nat := (v.extractLsb' lo n).toNat

/-- A ring size code that enables a ring (R317, R412). -/
def lognOk (v : DWord) : Bool := 6 ≤ fieldNat v 0 5 && fieldNat v 0 5 ≤ 16

/-- The counts of a ring-link set fit its slots and role (R265). -/
def posFits (geom pos : DWord) : Bool :=
  let slots := fieldNat geom 16 12
  fieldNat pos 0 12 ≤ slots && fieldNat pos 16 12 ≤ slots && fieldNat pos 32 13 ≤ (if geom.getLsbD 62 then slots else slots + 1)

/-- A pool that the core can change to now (R351). -/
def State.hpoolOk (s : State) (core : Nat) (v : DWord) : Bool :=
  let k := s.core core
  let slots := fieldNat v 0 4
  let hregs := fieldNat v 16 8
  slots ≤ 8 && hregs % 8 = 0 && 8 ≤ hregs && hregs ≤ 248 && (k.ctx 0).state = xIdle && (k.ctx 1).state = xIdle &&
  (List.range 128).all (fun j => j % 16 < 16 - slots || k.csr.isPool j || s.slotFree core j) &&
  (List.range 16).all fun id => match k.handlerAt id with | some h => poolHolds slots hregs h | none => true

/-- A value that the field map of a register allows (R166 check 2). -/
def State.csrLegal (s : State) (u : CsrUser) (n : Nat) (v : DWord) : Bool :=
  let k := s.core u.core
  let cl := s.cluster (clusterOf u.core)
  let m := cl.newMargin.getD cl.margin
  match n with
  | 0x10 => fpLegal v
  | 0x20 => fieldNat v 0 7 ≤ 64
  | 0x25 => s.hpoolOk u.core v
  | 0x81 => fieldNat v 0 5 = 0 || lognOk v
  | 0x90 => lognOk v
  | 0x98 => 1300 ≤ fieldNat v 20 12 && fieldNat v 20 12 ≤ fieldNat m 20 12 && fieldNat m 32 8 ≤ fieldNat v 32 8
  | 0x99 => 1 ≤ fieldNat v 8 4 && 8 ≤ fieldNat v 0 8
  | 0x9A => 1 ≤ fieldNat v 0 6 && fieldNat v 0 6 ≤ 48
  | 0x9B => 100 ≤ fieldNat v 32 16 && 10 ≤ fieldNat v 16 16 && 1 ≤ fieldNat v 8 8 && 1 ≤ fieldNat v 0 8 && fieldNat v 0 8 ≤ 128
  | 0xA0 => fieldNat v 14 2 != 3
  | 0xA1 => fieldNat v 0 5 = 0 || lognOk v
  | n =>
    if 0x40 ≤ n && n < 0x80 then
      let r := k.ring ((n - 0x40) / 4)
      match n % 4 with
      | 0 => fieldNat v 0 7 = 0
      | 1 => s.computeCore (fieldNat v 52 10) && posFits v r.pos
      | _ => posFits r.geom v
    else true

/-- A read index and its W1C bit written (R317): OVF written as 1 clears DROP too. -/
def idxWrite (old v : DWord) : DWord :=
  let r := old.extractLsb' 34 30 ++ v.extractLsb' 17 17 ++ old.extractLsb' 0 17
  if v.getLsbD 63 then r &&& 0x00000003FFFFFFFF else r

/-- The register written; the checks have passed. -/
def State.csrPut (s : State) (u : CsrUser) (n : Nat) (v : DWord) : State :=
  let c := u.core
  let cl := clusterOf c
  match n with
  | 0x10 => if u.spur then s.onSpur c fun p => { p with fpctl := v } else s.onTg c (lowOf u.actor) fun t => { t with fpctl := v, fpPos := s.nextPos u.actor }
  | 0x20 => s.onCsr c fun r => { r with hshare := v }
  | 0x22 => s.onCsr c fun r => { r with pdeadline := if v.toNat < 1024 then 1024 else v }
  | 0x23 => s.onCsr c fun r => { r with swapwait := v }
  | 0x25 => s.onCsr c fun r => { r with hpool := v }
  | 0x30 => s.onCsr c fun r => { r with tvec := v }
  | 0x31 => s.onCsr c fun r => { r with tdeleg := v }
  | 0x32 => s.onCsr c fun r => { r with tframe := v }
  | 0x81 => s.onCsr c fun r => { r with racebase := v }
  | 0x82 => s.onCsr c fun r => { r with raceidx := idxWrite r.raceidx v }
  | 0x90 => { s with ring := { s.ring with base := v } }.mapRing v
  | 0x91 => if v.getLsbD 63 then { s with ring := { s.ring with ctl := s.ring.ctl &&& 0x7FFFFFFFFFFFFFFF } } else s
  | 0x92 => { s with ring := { s.ring with rd := v } }
  | 0x98 => s.onCluster cl fun x => { x with newMargin := some v }
  | 0x99 => s.onCluster cl fun x => { x with droop := x.droop.extractLsb' 24 40 ++ v.extractLsb' 0 24 }
  | 0x9A => s.onCluster cl fun x => { x with mreqcap := v }
  | 0x9B => s.onCluster cl fun x => { x with didt := v }
  | 0xA0 => s.onCsr c fun r => { r with dbgctl := v }
  | 0xA1 => s.onCsr c fun r => { r with trcbase := v }
  | 0xA2 => s.onCsr c fun r => { r with trcidx := idxWrite r.trcidx v }
  | n =>
    let i := (n - 0x40) / 4
    s.onCore c fun k =>
      let r := k.ring i
      k.setRing i (match n % 4 with | 0 => { r with base := v } | 1 => { r with geom := v } | _ => { r with pos := v })

/-- A write, or the cause of its trap (R166). -/
def State.csrWrite (s : State) (u : CsrUser) (n : Nat) (v : DWord) : Except Nat State :=
  match csrFields u n with
  | none => .error cCsrAccess
  | some (rw, w1c) => if v &&& ~~~(rw ||| w1c) != 0 || !s.csrLegal u n v then .error cCsrValue else .ok (s.csrPut u n v)

/-! ## CSRR and CSRW as instructions -/

/-- The Spur as a user of control registers. -/
def State.spurUser (s : State) (c : Nat) : CsrUser := ⟨c, spurActor c, true, (s.core c).spur.fpctl⟩
/-- A group as one. -/
def State.tgUser (s : State) (c k : Nat) : CsrUser := ⟨c, tgActor c k, false, (s.tg c k).fpctl⟩

/-- Threads that take a whole-TG result: with U the lead guard decides, else each thread's own guard (R72, R166). -/
def Tg.takers (t : Tg) (arm : Bool) (h : Hd) : Mask := t.acting arm h

/-- A value read once into D by either engine (R166, R167), or the cause of the trap. -/
def readOnce (h : Hd) (d : Dst) (f : State → CsrUser → Except Nat DWord) (s : State) : Out :=
  match s.who with
  | .spur _ =>
    spurAct h (fun c _ =>
      match f s (s.spurUser c) with
      | .error cause => s.spurTrap c cause 0
      | .ok v => s.spurResult c h d v) s
  | _ =>
    onLane (hdLen h) s fun c k arm =>
      let t := s.tg c k
      let m := t.takers arm h
      if m = 0 then s.tgSkip c k arm (hdLen h)
      else
        match f s (s.tgUser c k) with
        | .error cause => s.tgCause c k arm (hdLen h) cause
        | .ok v => s.tgDone c k arm (hdLen h) (t.putTg true (s.nextPos (tgActor c k)) m d v)

/-- CSRR of a register (R166). -/
def csrReadInstr (h : Hd) (d : Dst) (n : Nat) (s : State) : Out :=
  readOnce h d (fun s u => match s.csrRead u n with | some v => .ok v | none => .error cCsrAccess) s

/-- CSRW of a register (R166): `after` is what the write does besides. -/
def csrWriteInstr (h : Hd) (n : Nat) (a : Src) (after : State → State) (s : State) : Out :=
  match s.who with
  | .spur _ =>
    spurAct h (fun c p =>
      match s.csrWrite (s.spurUser c) n (p.src h.lit a) with
      | .error cause => s.spurTrap c cause 0
      | .ok s => (after s).spurSkip c (hdLen h)) s
  | _ =>
    onLane (hdLen h) s fun c k arm =>
      let t := s.tg c k
      if t.takers arm h = 0 then s.tgSkip c k arm (hdLen h)
      else
        match s.csrWrite (s.tgUser c k) n (t.src64 h.lit (t.lead arm) a) with
        | .error cause => s.tgCause c k arm (hdLen h) cause
        | .ok s => (after s).tgSkip c k arm (hdLen h)

/-- CSRR (R166). -/
def execCsrr (h : Hd) (d : Dst) (csr : BitVec 8) (s : State) : Out := csrReadInstr h d csr.toNat s
/-- CSRW (R166). -/
def execCsrw (h : Hd) (csr : BitVec 8) (a : Src) (s : State) : Out := csrWriteInstr h csr.toNat a id s
/-- CSRW of sys.raceidx (R317). -/
def execCsrwRaceidx (h : Hd) (a : Src) (s : State) : Out := csrWriteInstr h 0x82 a id s
/-- CSRW of sys.hpool (R351). -/
def execCsrwHpool (h : Hd) (a : Src) (s : State) : Out := csrWriteInstr h 0x25 a id s
/-- CSRW of sys.rlgeom of a ring (R265). -/
def execCsrwRlgeom (h : Hd) (n : BitVec 4) (a : Src) (s : State) : Out := csrWriteInstr h (0x41 + 4 * n.toNat) a id s
/-- CSRW of sys.rlpos of a ring (R265). -/
def execCsrwRlpos (h : Hd) (n : BitVec 4) (a : Src) (s : State) : Out := csrWriteInstr h (0x42 + 4 * n.toNat) a id s
/-- CSRW of sys.hshare (R125, R166). -/
def execCsrwHshare (h : Hd) (a : Src) (s : State) : Out := csrWriteInstr h 0x20 a id s
/-- CSRW of sys.mreqcap (R454, R455). -/
def execCsrwMreqcap (h : Hd) (a : Src) (s : State) : Out := csrWriteInstr h 0x9A a id s
/-- CSRW of sys.dbgctl (R463). -/
def execCsrwDbgctl (h : Hd) (a : Src) (s : State) : Out := csrWriteInstr h 0xA0 a id s
/-- CSRW of sys.trctl (R412). -/
def execCsrwTrctl (h : Hd) (a : Src) (s : State) : Out := csrWriteInstr h 0x91 a id s

/-- CSRR of sys.trctl: an acquire at `.dev` (R412). -/
def execCsrrTrctl (h : Hd) (d : Dst) (s : State) : Out :=
  match s.who with
  | .spur c =>
    if (s.spurUser c).priv && (s.core c).spur.guard h then csrReadInstr h d 0x91 (s.acquire c .dev) else csrReadInstr h d 0x91 s
  | _ => csrReadInstr h d 0x91 s

/-! ## Posting again when room returns (R414 step 3) -/

/-- A context's line that awaits service, if any. -/
def Ctx.faultVa (x : Ctx) : Option Nat :=
  x.maskFault.orElse fun _ =>
    ([false, true].flatMap fun b => (List.range 4).flatMap fun n => (x.slot b n).faults.map (128 * ·)).head?

/-- The entry of an actor of a core that still waits on firmware, its fields recomputed. -/
def Core.repost (k : Core) (actor cause : Nat) : Option RingPost :=
  let ids := match k.launch with | some l => (l.vif, l.asid) | none => (0, 0)
  let low := lowOf actor
  let base : RingPost := { core := coreOf actor, actor, cause, flags := fService + 16, vif := ids.1, asid := ids.2 }
  if low < 0x80 then
    (k.tg low).svc.map fun f =>
      { base with cause := f.cause, flags := fService + 16 + f.flags.toNat % 8, seq := f.seq, spc := f.spc, pc := f.fpc
                  addr := f.addr, aux := f.lvec }
  else if low = 0x80 then
    if k.spur.run = .parkFault then
      k.spur.frame.map fun f => { base with cause := f.cause, pc := f.fpc, spc := f.fpc, addr := f.addr }
    else none
  else if low < 0x84 then
    let x := k.ctx (low - 0x81)
    x.faultVa.map fun va => { base with seq := x.cseq, spc := x.spc, addr := BitVec.ofNat 64 va }
  else
    let x := k.queue (low - 0x84)
    let va := (x.faults.map Prod.snd ++ x.late.filterMap fun o =>
      match o.op with | .entry e => some e.place.addr | .load _ => none).head?
    va.map fun va =>
      { base with seq := x.seq, spc := x.spc, addr := BitVec.ofNat 64 va, aux := BitVec.ofNat 64 x.ridx }

/-- The core that holds a marked actor: the resident one, or that of its saved image. -/
def State.markCore (s : State) (m : Mark) : Core :=
  if m.image = 0 then s.core (coreOf m.actor)
  else match s.images.find? fun i => i.order = m.image with | some i => i.saved.core | none => {}

/-- A marked actor posted again while there is room; an actor that waits no longer loses its mark. -/
def State.repostMarked (s : State) (m : Mark) : State :=
  let gone : State := { s with ring := { s.ring with marked := s.ring.marked.erase m } }
  match (s.markCore m).repost m.actor m.cause with
  | none => gone
  | some p => if s.ring.room then gone.post p else s

/-- A count of lost notices posted as a SUMMARY entry while there is room. -/
def State.repostLost (s : State) (l : Nat × Nat × Nat) : State :=
  if !s.ring.room then s
  else
    let ids := s.launchIds l.1
    ({ s with ring := { s.ring with lost := s.ring.lost.erase l } } : State).post
      { core := l.1, actor := spurActor l.1, cause := l.2.1, flags := 32, aux := BitVec.ofNat 64 (Nat.min l.2.2 (2 ^ 64 - 1))
        vif := ids.1, asid := ids.2 }

/-- What every core posts again, cores in ascending order: marked actors lowest first, then one entry per cause. -/
def State.repostAll (s : State) : State :=
  let ms := sortBy (fun a b => a.actor ≤ b.actor) s.ring.marked
  let ls := sortBy (fun a b => a.2.1 ≤ b.2.1) s.ring.lost
  let cores := sortBy (fun a b => a ≤ b) ((ms.map fun m => coreOf m.actor) ++ ls.map Prod.fst).eraseDups
  cores.foldl (fun s c =>
    let s := (ms.filter fun m => coreOf m.actor = c).foldl State.repostMarked s
    (ls.filter fun l => l.1 = c).foldl State.repostLost s) s

/-- CSRW of sys.trrd (R412, R414). -/
def execCsrwTrrd (h : Hd) (a : Src) (s : State) : Out := csrWriteInstr h 0x92 a State.repostAll s

/-! ## NOP, TIME, CYC (R167, R168) -/

/-- Nothing besides the PC's advance, in either engine. -/
def skipInstr (units : Nat) (s : State) : Out :=
  match s.who with
  | .spur c => .next (s.spurSkip c units)
  | _ => onLane units s fun c k arm => s.tgSkip c k arm units

/-- NOP (R168). -/
def execNop (h : Hd) (s : State) : Out := skipInstr (hdLen h) s
/-- NOP in its compact form (R80, R168), the one compact form that the Spur executes. -/
def execNopCompact (_pred : BitVec 3) (_pn : Bool) (s : State) : Out := skipInstr 1 s

/-- TIME (R29, R167). -/
def execTime (h : Hd) (d : Dst) (s : State) : Out := readOnce h d (fun s _ => .ok (BitVec.ofNat 64 s.refTime)) s
/-- CYC (R30, R167). -/
def execCyc (h : Hd) (d : Dst) (s : State) : Out := readOnce h d (fun s u => .ok (BitVec.ofNat 64 (s.cyclesOf u.core))) s

/-! ## XRET (R194, R195) -/

/-- XRET (R194): a return from handler mode; elsewhere and on the Spur it traps. -/
def execXret (h : Hd) (skip : Bool) (s : State) : Out :=
  match s.who with
  | .spur _ => spurAct h (fun c _ => s.spurTrap c cXretState 0) s
  | _ =>
    onLane (hdLen h) s fun c k arm =>
      let t := s.tg c k
      if !t.leadGuard arm h.pred h.pn then s.tgSkip c k arm (hdLen h)
      else if t.frame.isNone then s.tgCause c k arm (hdLen h) cXretState
      else (s.tgReturn c k skip State.writeHeld).bump (tgActor c k)

/-! ## An instruction that either engine executes once (R72) -/

/-- A 32-bit operand read once under the guard of the Spur or of the lowest active thread: `spur` and `tg` act on it. -/
def once32 (h : Hd) (a : Src) (spur : Nat → Nat → State) (tg : Nat → Nat → Bool → Nat → State) (s : State) : Out :=
  match s.who with
  | .spur _ => spurAct h (fun c p => spur c ((p.src h.lit a).toNat % 2 ^ 32)) s
  | _ =>
    onLane (hdLen h) s fun c k arm =>
      let t := s.tg c k
      if !t.leadGuard arm h.pred h.pn then s.tgSkip c k arm (hdLen h)
      else tg c k arm (t.src32 h.lit (t.lead arm) a).toNat

/-! ## The calendar (R429, R430, R432, R433) -/

/-- The types of a saddle (R430). -/
def saddleTypes (n : Nat) : BitVec 5 :=
  BitVec.ofBool (n % 65536 = 0) ++ BitVec.ofBool (n % 4096 = 0) ++ BitVec.ofBool (n % 256 = 0) ++ BitVec.ofBool (n % 16 = 0) ++
    1#1

/-- The published length of a saddle in ns (R430). -/
def saddleLen (n : Nat) : Nat :=
  96 + (if n % 16 = 0 then 32 else 0) + (if n % 256 = 0 then 544 else 0) + (if n % 4096 = 0 then 224 else 0) +
    (if n % 65536 = 0 then 1904 else 0)

/-- The start of a saddle (R429). -/
def Calendar.start (c : Calendar) (n : Nat) : Nat := 4096 * n + c.shift

/-- The info word of a saddle (R433). -/
def Calendar.info (c : Calendar) (n : Nat) : DWord :=
  c.gen ++ 0#16 ++ BitVec.ofNat 16 n ++ BitVec.ofNat 12 (saddleLen n) ++ 0#7 ++ saddleTypes n

/-- What SADL reads of an entry. -/
def Calendar.entry (c : Calendar) (info : Bool) (i : Nat) : DWord :=
  if info then c.info (c.next + i) else BitVec.ofNat 64 (c.start (c.next + i))

/-- SADL (R432, R433). -/
def execSadl (h : Hd) (info : Bool) (d : Dst) (a : Src) (s : State) : Out :=
  readOnce h d (fun s _ =>
    let i := match s.who with
      | .tg c k arm => ((s.tg c k).src32 h.lit ((s.tg c k).lead arm) a).toNat
      | .spur c => ((s.core c).spur.src h.lit a).toNat % 2 ^ 32
      | _ => 64
    if i > 63 then .error cBadOperand else .ok (s.calendar.entry info i)) s

/-! ## Clear windows (R440, R441) -/

/-- The earliest saddle that has not started at a time (R440, R447): one that an overrun holds back is such, whatever its published
start (R439). -/
def Calendar.after (c : Calendar) (t : Nat) : Nat := if c.phase = 2 || c.start c.next ≤ t then c.next + 1 else c.next

/-- The saddle of the window that SCLR opens, where it succeeds (R440). -/
def State.windowFor (s : State) (n : Nat) : Option Nat :=
  let sd := s.calendar.after s.refTime
  if n ≤ s.calendar.start sd - s.refTime then some sd else none

/-- SCLR (R440). -/
def execSclr (h : Hd) (d : Dst) (a : Src) (s : State) : Out :=
  once32 h a
    (fun c n =>
      if n = 0 || n > 4096 then s.spurTrap c cBadOperand 0
      else
        match s.windowFor n with
        | some w => (s.onSpur c fun p => { p with window := some w, crossed := false }).spurResult c h d 1
        | none => s.spurResult c h d 0)
    (fun c k arm n =>
      let t := s.tg c k
      let put (t : Tg) (x : DWord) : Tg :=
        if h.u then t.putUniform d x else t.putTg false (s.nextPos (tgActor c k)) (t.active arm) d x
      if n = 0 || n > 4096 then s.tgCause c k arm (hdLen h) cBadOperand
      else
        match s.windowFor n with
        | some w => s.tgDone c k arm (hdLen h) (put { t with window := some w, crossed := false } 1)
        | none => s.tgDone c k arm (hdLen h) (put t 0)) s

/-- SCLE (R441). -/
def execScle (h : Hd) (s : State) : Out :=
  match s.who with
  | .spur _ => spurAct h (fun c _ => s.spurDone c (hdLen h) fun p => { p with window := none, crossed := false }) s
  | _ =>
    onLane (hdLen h) s fun c k arm =>
      let t := s.tg c k
      if t.leadGuard arm h.pred h.pn then s.tgDone c k arm (hdLen h) { t with window := none, crossed := false }
      else s.tgSkip c k arm (hdLen h)

/-! ## BKPT, TRIGW, MARK (R466, R467) -/

/-- BKEN of a core (R463). -/
def Csrs.bken (c : Csrs) : Bool := c.dbgctl.getLsbD 1

/-- BKPT (R466). -/
def execBkpt (h : Hd) (a : Src) (s : State) : Out :=
  once32 h a
    (fun c code =>
      if !(s.core c).csr.bken then s.spurSkip c (hdLen h)
      else
        let s := s.spurTrap c cBreakpoint (BitVec.ofNat 64 (code % 65536))
        let next := (s.core c).spur.pc + BitVec.ofNat 64 (4 * hdLen h)
        let s := s.onSpur c fun p => { p with pc := next, frame := p.frame.map fun f => { f with pc := next } }
        s.driveSrc 1)
    (fun c k arm code =>
      let t := s.tg c k
      if !(s.core c).csr.bken then s.tgSkip c k arm (hdLen h)
      else
        let pc := t.armPc arm
        let next := pc + BitVec.ofNat 64 (4 * hdLen h)
        let u := s.tgTrap c k arm { cause := cBreakpoint, fpc := pc, pc := next, units := hdLen h
                                    addr := BitVec.ofNat 64 (code % 65536) }
        if trapTaken t (u.tg c k) then u.driveSrc 1 else s) s

/-- TRIGW's drive of a line with its record (R466, R467). -/
def State.trigger (s : State) (core actor : Nat) (spc seq : DWord) (line : Nat) (act : Act) : State :=
  let code := match act with | .pulse => 0 | .set => 1 | .clr => 2
  let s := s.trace core 8 actor spc seq line code
  if !s.lineOn line || !s.lineSrc line 0 then s
  else match act with | .clr => s.deassertLine line | _ => s.assertLine line

/-- TRIGW (R466). -/
def execTrigw (h : Hd) (act : Act) (a : Src) (s : State) : Out :=
  once32 h a
    (fun c n =>
      if n > 31 then s.spurTrap c cBadOperand 0
      else (s.trigger c (spurActor c) (s.core c).spur.pc 0 n act).spurSkip c (hdLen h))
    (fun c k arm n =>
      let t := s.tg c k
      if n > 31 then s.tgCause c k arm (hdLen h) cBadOperand
      else (s.trigger c (tgActor c k) t.spc t.seq n act).tgSkip c k arm (hdLen h)) s

/-- MARK (R464, R466). -/
def execMark (h : Hd) (a : Src) (s : State) : Out :=
  once32 h a
    (fun c v =>
      let pc := (s.core c).spur.pc
      (s.trace c 1 (spurActor c) pc 0 v pc.toNat).spurSkip c (hdLen h))
    (fun c k arm v =>
      let t := s.tg c k
      (s.trace c 1 (tgActor c k) t.spc t.seq v (t.armPc arm).toNat).tgSkip c k arm (hdLen h)) s

end Sys2Proof.Machine
end

