-- ==== Sys2Proof/Machine/Fetch.lean ====
section
/-! DEFINITION. Before an instruction's meaning: instruction fetch and decode, and whether an agent may issue
(R70, R80, R82, R91, R113, R176, R190, R194). -/

namespace Sys2Proof.Machine

/-! ## Turns -/

/-- The next turn. -/
def State.nextTurn (s : State) : Turn := s.agenda.headD (Config.freeTurn s.turns)

/-! ## Compact forms (R80) -/

/-- The full form that a compact instruction executes as, with MOD zero and B naming `l0` (R80); any other instruction
is itself. -/
def expand : Instr → Instr
  | .iaddCompact p n d a => .iadd (cHd p n) .s32 false (.main d) (.main a) .l0
  | .isubCompact p n d a => .isub (cHd p n) .s32 false (.main d) (.main a) .l0
  | .imulCompact p n d a => .imul (cHd p n) .s32 (.main d) (.main a) .l0
  | .iminCompact p n d a => .imin (cHd p n) .s32 (.main d) (.main a) .l0
  | .imaxCompact p n d a => .imax (cHd p n) .s32 (.main d) (.main a) .l0
  | .andCompact p n d a => .and (cHd p n) .s32 (.main d) (.main a) .l0
  | .orCompact p n d a => .or (cHd p n) .s32 (.main d) (.main a) .l0
  | .xorCompact p n d a => .xor (cHd p n) .s32 (.main d) (.main a) .l0
  | .andnCompact p n d a => .andn (cHd p n) .s32 (.main d) (.main a) .l0
  | .shlCompact p n d a => .shl (cHd p n) .s32 (.main d) (.main a) .l0
  | .shrCompact p n d a => .shr (cHd p n) .s32 (.main d) (.main a) .l0
  | .sarCompact p n d a => .sar (cHd p n) .s32 (.main d) (.main a) .l0
  | .movCompact p n d a => .mov (cHd p n) .s32 (.main d) (.main a)
  | .faddCompact p n d a => .fadd (cHd p n) .f32 (.main d) (.main a) .l0
  | .fsubCompact p n d a => .fsub (cHd p n) .f32 (.main d) (.main a) .l0
  | .fmulCompact p n d a => .fmul (cHd p n) .f32 (.main d) (.main a) .l0
  | .fminCompact p n d a => .fmin (cHd p n) .f32 (.main d) (.main a) .l0
  | .fmaxCompact p n d a => .fmax (cHd p n) .f32 (.main d) (.main a) .l0
  | .f2addCompact p n d a => .f2add (cHd p n) .f16x2 (.main d) (.main a) .l0
  | .f2mulCompact p n d a => .f2mul (cHd p n) .f16x2 (.main d) (.main a) .l0
  | .rcpCompact p n d a => .rcp (cHd p n) (.main d) (.main a)
  | .rsqCompact p n d a => .rsq (cHd p n) (.main d) (.main a)
  | .sqrtCompact p n d a => .sqrt (cHd p n) (.main d) (.main a)
  | .exp2Compact p n d a => .exp2 (cHd p n) (.main d) (.main a)
  | .log2Compact p n d a => .log2 (cHd p n) (.main d) (.main a)
  | .sinCompact p n d a => .sin (cHd p n) (.main d) (.main a)
  | .cosCompact p n d a => .cos (cHd p n) (.main d) (.main a)
  | .tanhCompact p n d a => .tanh (cHd p n) (.main d) (.main a)
  | .nopCompact p n => .nop (cHd p n)
  | i => i

/-! ## The scoreboard (R175, R176) -/

/-- A register of a group. -/
inductive RegKey
  | v (n : Nat)
  | o (n : Nat)
  | p (n : Nat)
  | g (n : Nat)
  | l0
  deriving DecidableEq, Repr

/-- Registers that a source reads. -/
def srcKeys (wide : Bool) : Src → List RegKey
  | .main n => if wide then [.v n.toNat, .v (n.toNat + 1)] else [.v n.toNat]
  | .opnd n => [.o n.toNat]
  | .l0 => [.l0]
  | .pred n => [.p n.val]
  | .grp n => [.g n.toNat]
  | _ => []

/-- Registers that a destination names, `n` of them for a main register. -/
def dstKeys (n : Nat) : Dst → List RegKey
  | .main r => (List.range n).map fun k => .v (r.toNat + k)
  | .opnd r => [.o r.toNat]
  | .pred r => [.p r.val]
  | .grp r => [.g r.toNat]

/-- Registers that an operand position reads or writes. -/
def slotKeys : Slot → List RegKey
  | .src k x => srcKeys (k = .w64) x
  | .dst k x => dstKeys (match k with | .quad => 4 | .w64 | .w64g | .w64s | .w64gs => 2 | _ => 1) x
  | .greg n _ => [.g n.toNat, .g (n.toNat + 1), .g (n.toNat + 2)]
  | _ => []

/-- Registers that an instruction reads or writes (R176). -/
def instrKeys (i : Instr) : List RegKey :=
  match (expand i).shape with
  | none => []
  | some s =>
    (if s.h.pred == 7 then [] else [.p s.h.pred.toNat]) ++ slotKeys s.d ++ slotKeys s.a ++ slotKeys s.b ++ slotKeys s.c

/-- Registers that a pending reply writes. -/
def destKeys (d : Dest) : List RegKey :=
  dstKeys (match d.k with | .ld .b64 | .pair => 2 | .ld .b128 => 4 | _ => 1) d.d

/-- A pending write: its instruction's number, the threads and the registers. -/
structure PendW where
  pos : Nat
  lanes : Mask
  keys : List RegKey
  deriving DecidableEq, Repr

/-- The pending write of an entry. -/
def Entry.pend (e : Entry) : Option PendW :=
  (e.dest.filter fun d => d.k != .data).map fun d => ⟨e.acc.pos, e.lanes, destKeys d⟩
/-- The pending write of a load. -/
def Load.pend (l : Load) : PendW := ⟨l.acc.pos, maskOf fun i => l.lanes.any fun t => t.lane = i, destKeys l.dest⟩

/-- All pending writes of a group's actor, those of operations held for their replay among them (R190). -/
def State.pending (s : State) (a : Nat) : List PendW :=
  let x := s.actor a
  x.loads.map Load.pend ++ (x.storeQ ++ s.drained a ++ (s.answered a).map Done.e).filterMap Entry.pend ++
  (s.heldOps a).filterMap fun o => match o.op with | .load l => some l.pend | .entry e => e.pend

/-- Whether an instruction waits on the scoreboard (R176). -/
def State.hazard (s : State) (a : Nat) (arm : Bool) (i : Instr) : Bool :=
  let t := s.tg (coreOf a) (lowOf a)
  let m := t.active arm
  let ks := instrKeys i
  (s.pending a).any fun w =>
    (w.keys.any fun k => ks.contains k && (match k with | .g _ => true | _ => w.lanes &&& m != 0)) ||
    (ks.contains .l0 && w.keys.any (fun k => match k with | .g _ => false | _ => true) &&
      (lanesOf (w.lanes &&& m)).any fun j => decide (mget 0 t.l0pos j ≤ w.pos))

/-- Instructions that count against a group's 16 outstanding memory instructions (R176). -/
def isMemory : Instr → Bool
  | .ld .. | .st .. | .lds .. | .sts .. | .atom .. | .atomf .. | .atoms .. | .cas .. => true
  | _ => false

/-! ## Fetch (R70) -/

/-- One unit of an instruction, or the cause of its fetch fault. -/
def State.fetchUnit (s : State) (asid : Nat) (va : Nat) : Except Nat Word :=
  match s.locGlob .ex asid va with
  | .error c => .error c
  | .ok loc => if s.damaged loc then .error cMemError else .ok (BitVec.ofNat 32 (leNat (s.locBytes loc 4)))

/-- What a fetch gives: the units, or the fault with the unit's address and the unit count where it is known. -/
inductive Fetched
  | ok (us : List Word)
  | fault (cause : Nat) (addr : Nat) (units : Nat)
  deriving DecidableEq, Repr

/-- The units after the first. -/
def State.fetchMore (s : State) (asid : Nat) (n : Nat) : Nat → Nat → List Word → Fetched
  | 0, _, us => .ok us
  | k + 1, va, us =>
    match s.fetchUnit asid va with
    | .ok u => s.fetchMore asid n k (va + 4) (us ++ [u])
    | .error c => .fault c va n

/-- The units of the instruction at a PC (R69, R70). -/
def State.fetch (s : State) (asid : Nat) (pc : DWord) : Fetched :=
  let va := pc.toNat
  match s.fetchUnit asid va with
  | .error c => .fault c va 1
  | .ok u =>
    match unitCount u with
    | none => .ok [u]
    | some n => s.fetchMore asid n (n - 1) (va + 4) [u]

/-- The cause code of a decode trap (R188). -/
def decCause : DecErr → Nat
  | .illegalLength => cIllegalLength
  | .illegalEncoding => cIllegalEncoding
  | .wrongEngine => cWrongEngine

/-! ## Fused groups (R94) -/

/-- The guards of two members agree, and neither is uniform. -/
def fuseGuards (h g : Hd) : Bool := h.pred = g.pred && h.pn = g.pn && !h.u && !g.u

/-- A source reads the result just written to a destination, by its name or through `l0`. -/
def fuseReads (d : Dst) (x : Src) : Bool :=
  match x, d with
  | .l0, _ => true
  | .main n, .main r => n = r
  | .opnd n, .opnd r => n = r
  | _, _ => false

/-- Two consecutive instructions of a fused group. -/
def fusesWith (i j : Instr) : Bool :=
  match expand i, expand j with
  | .fmul h _ d _ _, .fadd g _ _ a b => fuseGuards h g && (fuseReads d a || fuseReads d b)
  | .fadd h _ d _ _, .fmax g _ _ a b =>
    fuseGuards h g && ((fuseReads d a && b = .imm 0) || (fuseReads d b && a = .imm 0))
  | .cvt h _ _ _ _ d _, .fmul g _ _ a b => fuseGuards h g && (fuseReads d a || fuseReads d b)
  | .iadd h _ _ d _ _, .shl g _ _ a _ => fuseGuards h g && fuseReads d a
  | _, _ => false

/-- Instructions with which a fused group may begin. -/
def fuseHead (i : Instr) : Bool :=
  match expand i with
  | .fmul h .. | .fadd h .. | .cvt h .. | .iadd h .. => !h.u
  | _ => false

/-- Whether a third instruction joins: FMUL, FADD and FMAX are the only group of three. -/
def fuseThree (i : Instr) : Bool := match expand i with | .fmul .. => true | _ => false

/-- The instruction of a group's program at a PC, with its units. -/
def State.instrAt (s : State) (core slot : Nat) (pc : DWord) : Option (Instr × Nat) :=
  match s.fetch (s.asidOf core) pc with
  | .fault _ _ _ => none
  | .ok us => match decode ⟨.lane, (s.tg core slot).regs⟩ us with | .trap _ => none | .ok i _ => some (i, us.length)

/-- The members of the fused group that begins with an instruction of `n` units, or none. -/
def State.fusedFrom (s : State) (core slot : Nat) (pc : DWord) (i : Instr) (n : Nat) : List DWord :=
  if !fuseHead i then []
  else
    let p := pc + BitVec.ofNat 64 (4 * n)
    match s.instrAt core slot p with
    | none => []
    | some (j, m) =>
      if !fusesWith i j then []
      else
        let q := p + BitVec.ofNat 64 (4 * m)
        match s.instrAt core slot q with
        | some (k, _) => if fuseThree i && fusesWith j k then [pc, p, q] else [pc, p]
        | none => [pc, p]

/-- The group as its arm issues an instruction of `n` units: the instruction goes on in the fused group that it is the next member
of, or begins one; a stepped group forms none (R94, R469). -/
def State.joinFused (s : State) (core slot : Nat) (arm : Bool) (i : Instr) (n : Nat) : State :=
  let t := s.tg core slot
  let m := t.active arm
  let pc := t.armPc arm
  let rest := t.fused.filter fun g => g.mask &&& m = 0
  let new :=
    if t.stepReq then rest
    else match t.fused.find? fun g => g.mask = m && g.pcs[g.at_ + 1]? = some pc with
      | some g => { g with at_ := g.at_ + 1 } :: rest
      | none => match s.fusedFrom core slot pc i n with | [] => rest | ps => ⟨m, ps, 0⟩ :: rest
  if new = t.fused then s else s.onTg core slot fun t => { t with fused := new }

/-! ## Readiness -/

/-- What an agent's turn finds: it may not issue, it takes a trap or stops before anything issues, it issues an
instruction, or a saddle has come in its open window and the instruction issues only to a trap of a higher rank (R442). -/
inductive Ready
  | no
  | stop (s : State)
  | go (i : Instr) (s : State)
  | cross (i : Instr) (s : State)

/-- The arm stands where it can issue: live threads, not waiting at a RECONV (R171, R180). -/
def Tg.armRuns (t : Tg) (arm : Bool) : Bool :=
  t.active arm != 0 &&
  match t.div with
  | some d => !(if arm then d.t.wait else d.f.wait)
  | none => arm

/-- A launch is resident on a core and has not been ended (R138). -/
def State.launchRuns (s : State) (core : Nat) : Bool :=
  match (s.core core).launch with | some l => l.killed.isNone | none => false

/-- A save that is under way lets a group issue: only handler instances, until they stop too (R133). -/
def State.saveLets (s : State) (core : Nat) (t : Tg) : Bool :=
  match (s.core core).saving with | some v => !v.stop && t.handler.isSome | none => true

/-- The start of an open window's saddle has come and its SADDLE_START step has not (R442). While an earlier saddle overruns, the
next start is held back (R439). -/
def State.windowDue (s : State) (w : Option Nat) : Bool :=
  match w with | some n => n ≤ s.calendar.next && s.calendar.start n ≤ s.refTime | none => false

/-- An arm awaits fault service: the frame that firmware has been told of is of its threads (R191, R241). -/
def Tg.inService (t : Tg) (arm : Bool) : Bool := t.svc.any fun f => t.active arm &&& f.pmask != 0

/-- A group's arm has a turn, halted or not: it holds its slot, the arm is not parked on service, the group is not stopped by a
late fault, waiting for a wave, for its replays or for a CSCRUB of the other arm, and its launch runs and is not being saved. -/
def State.tgOpen (s : State) (core slot : Nat) (arm : Bool) : Bool :=
  let t := s.tg core slot
  t.used && !t.inService arm && t.late.isEmpty && t.wave.isNone && t.armRuns arm && decide (t.wakeAt ≤ s.cyclesOf core) &&
  !(t.replaying && s.busy (tgActor core slot)) && (t.scrub.all fun p => p.1 = arm) && s.launchRuns core && s.saveLets core t

/-- The Spur has a turn, halted or not: it runs or re-tests a park, no access of its own holds it (R113, R143), and its
launch runs and is not being saved. -/
def State.spurOpen (s : State) (core : Nat) : Bool :=
  let p := (s.core core).spur
  (match p.run with
    | .run | .parkDq | .parkRdzv | .parkLaunch | .parkLjoin => true
    | .parkFault | .yielded | .done => false) &&
  p.busy.isNone && s.launchRuns core && (s.core core).saving.isNone

/-- A group's `SADDLE_CROSS` (R442): its window is closed with the trap. -/
def State.tgCross (s : State) (core slot : Nat) (arm : Bool) : State :=
  let t := s.tg core slot
  let pc := t.armPc arm
  let u := s.tgTrap core slot arm { cause := cSaddleCross, fpc := pc, pc, units := 1 }
  if trapTaken t (u.tg core slot) then u.onTg core slot fun t => { t with window := none, crossed := false } else s

/-- The Spur's `SADDLE_CROSS` (R442). -/
def State.spurCross (s : State) (core : Nat) : State :=
  (s.spurTrap core cSaddleCross 0).onSpur core fun p => { p with window := none, crossed := false }

/-- The trap at a boundary where an open window has met its saddle: the instruction's own, as `u` has it, where that cause
ranks above `SADDLE_CROSS`, which then stays due (R189, R442). -/
def State.tgCrossOr (s : State) (core slot : Nat) (arm : Bool) (u : State) : State :=
  if (newCause (s.tg core slot) (u.tg core slot)).any fun c => causeRank c < causeRank cSaddleCross then u
  else s.tgCross core slot arm

/-- The same for the Spur, where `SADDLE_CROSS` ranks after every other cause (R442). -/
def State.spurCrossOr (s : State) (core : Nat) (u : State) : State :=
  if (s.core core).spur.run != .parkFault && (u.core core).spur.run = .parkFault then u else s.spurCross core

/-- The same for the agent of a turn. -/
def State.crossOr (s : State) (w : Who) (u : State) : State :=
  match w with
  | .tg c k arm => s.tgCrossOr c k arm u
  | .spur c => s.spurCrossOr c u
  | .queue _ _ | .none => u

/-- Fetch and decode for a group that has a turn. -/
def State.tgNow (s : State) (core slot : Nat) (arm : Bool) : Ready :=
  let t := s.tg core slot
  let pc := t.armPc arm
  match s.fetch (s.asidOf core) pc with
  | .fault c va n =>
    .stop (s.tgTrap core slot arm { cause := c, fpc := pc, pc, units := n, addr := BitVec.ofNat 64 va })
  | .ok us =>
    match decode ⟨.lane, t.regs⟩ us with
    | .trap e => .stop (s.tgTrap core slot arm { cause := decCause e, fpc := pc, pc, units := us.length })
    | .ok i _ =>
      let a := tgActor core slot
      if s.hazard a arm i || (isMemory i && 16 ≤ (s.outstanding a).length) then .no
      else .go i (s.joinFused core slot arm i us.length)

/-- An arm has a turn and is parked on nothing. -/
def State.tgAwake (s : State) (core slot : Nat) (arm : Bool) : Bool :=
  s.tgOpen core slot arm && decide ((s.tg core slot).armPark arm = .ready)

/-- A group is a ready candidate of its partition (R126). -/
def State.tgCandidate (s : State) (core slot : Nat) : Bool :=
  let t := s.tg core slot
  !t.halted && [true, false].any fun arm =>
    s.tgAwake core slot arm && match s.tgNow core slot arm with | .no => false | _ => true

/-- A group's place in its partition's issue order (R126): the step, and the age within it. -/
def State.issueRank (s : State) (core slot : Nat) : Nat × Nat :=
  let c := s.core core
  let t := c.tg slot
  let old := t.boosted || decide (t.readySince + 256 ≤ s.cyclesOf core)
  if t.handler.isSome then
    (if (mget {} c.epochs (slot / 16)).handlers < (mget {} c.epochs (slot / 16)).share then 1 else 3, t.order)
  else if old then (0, t.readySince) else (2, t.order)

/-- A ready candidate of the group's partition goes first in this issue slot (R126, R127); the members of a gang are one
candidate. -/
def State.outranked (s : State) (core slot : Nat) : Bool :=
  let t := s.tg core slot
  let r := s.issueRank core slot
  (List.range 16).any fun i =>
    let k := slot / 16 * 16 + i
    let u := s.tg core k
    let q := s.issueRank core k
    u.used && !t.mate u && (decide (q.1 < r.1) || (q.1 = r.1 && decide (q.2 < r.2))) && s.tgCandidate core k &&
    Config.pipeReady s.turns (tgActor core k)

/-- A STEP of an actor has waited for its issue as long as it may (R469). -/
def State.stepOver (s : State) (actor : Nat) : Bool :=
  s.stepJobs.any fun j => j.actor = actor && j.since + 4096 ≤ s.cyclesOf (coreOf actor)

/-- A halted actor that may not issue: it has no STEP, or one whose time is over (R468, R469). -/
def State.heldHalt (s : State) (halted step : Bool) (actor : Nat) : Bool := halted && (!step || s.stepOver actor)

/-- A group's turn. A halted one takes only the crossing of its window (R472). -/
def State.tgReady (s : State) (core slot : Nat) (arm : Bool) : Ready :=
  let t := s.tg core slot
  if !s.tgOpen core slot arm then .no
  else if t.crossed then
    if s.heldHalt t.halted t.stepReq (tgActor core slot) then .stop (s.tgCross core slot arm)
    else
      match s.tgNow core slot arm with
      | .no => .stop (s.tgCross core slot arm)
      | .stop u => .stop (s.tgCrossOr core slot arm u)
      | .go i u | .cross i u => .cross i u
  else if s.windowDue t.window || s.heldHalt t.halted t.stepReq (tgActor core slot) || s.outranked core slot then .no
  else s.tgNow core slot arm

/-- Fetch and decode for a Spur that has a turn. -/
def State.spurNow (s : State) (core : Nat) : Ready :=
  match s.fetch (s.asidOf core) (s.core core).spur.pc with
  | .fault c va _ => .stop (s.spurTrap core c (BitVec.ofNat 64 va))
  | .ok us =>
    match decode ⟨.spur, 0⟩ us with
    | .trap e => .stop (s.spurTrap core (decCause e) 0)
    | .ok i _ => .go i s

/-- A Spur's turn. -/
def State.spurReady (s : State) (core : Nat) : Ready :=
  let p := (s.core core).spur
  if !s.spurOpen core then .no
  else if p.crossed then
    if s.heldHalt p.halted p.stepReq (spurActor core) then .stop (s.spurCross core)
    else
      match s.spurNow core with
      | .no => .no
      | .stop u => .stop u
      | .go i u | .cross i u => .cross i u
  else if s.windowDue p.window || s.heldHalt p.halted p.stepReq (spurActor core) then .no
  else s.spurNow core

/-- A queue's turn. -/
def State.queueTurn (s : State) (core q : Nat) : Ready :=
  match s.queueReady core q with
  | .no => .no
  | .stop s => .stop s
  | .go i s => .go i s

/-- Whether the agent may issue, and what. -/
def State.ready (s : State) (w : Who) : Ready :=
  match w with
  | .tg c k arm => s.tgReady c k arm
  | .spur c => s.spurReady c
  | .queue c q => s.queueTurn c q
  | .none => .no

/-! ## The host's probe -/

/-- The engine that runs a placed instruction: a group, or a Spur where only the Spur decoder accepts the words. -/
def probeSpur (units : List Word) : Bool :=
  let us := units.take ((unitCount (units.headD 0)).getD 1)
  match decode ⟨.lane, 256⟩ us, decode ⟨.spur, 0⟩ us with
  | .trap _, .ok _ _ => true
  | _, _ => false

/-- A program word placed for the next step: address space 1 with a code page at VA 0 whose home is channel 0, a launch
on core 0, TG slot 0 with 256 registers and the Spur, both at PC 0, and the turn that issues the instruction. -/
def State.placeProgram (s : State) (nbits w : Nat) : State :=
  let v : Nat := 2 ^ 63
  let bytes := leBytes 12 (w % 2 ^ nbits)
  let units := (List.range 3).map fun k => BitVec.ofNat 32 (w % 2 ^ nbits / 2 ^ (32 * k))
  let sp : Space := { root := 0x10000, place := [⟨0, 2 ^ 40 - 1, 2, 0⟩], live := true }
  let s := { s with spaces := mset {} s.spaces 1 sp }
  let s := s.physWrite 0x10000 (leBytes 8 (v + 0x12000))
  let s := s.physWrite 0x12000 (leBytes 8 (v + 0x14000))
  let s := s.physWrite 0x14000 (leBytes 8 (v + 0x16000))
  let s := s.physWrite 0x16000 (leBytes 8 (v + 2 ^ 61 + 2 ^ 59 + 0x20000))
  let s := s.physWrite 0x20000 bytes
  let g : Tg := { used := true, live := 0xFFFF, path := 0xFFFF, regs := 256 }
  let s := s.onCore 0 fun c =>
    { c with launch := some { vif := 0, asid := 1 }, tgs := mset {} c.tgs 0 g, spur := { c.spur with pc := 0, run := .run } }
  { s with agenda := [⟨0, [], if probeSpur units then .spur 0 else .tg 0 0 true⟩] }

end Sys2Proof.Machine
end

