-- ==== Sys2Proof/Machine/Images.lean ====
section
/-! DEFINITION. The bytes of a saved image: its header, its blocks with the records that debug tools read, its digest, and its place
in firmware memory (R364, R397, R405, R406). -/

namespace Sys2Proof.Machine

/-- Fields laid out in a number, each by its lowest bit, its width and its value. -/
def packFields (l : List (Nat × Nat × Nat)) : Nat := l.foldl (fun n f => n + f.2.2 % 2 ^ f.2.1 * 2 ^ f.1) 0

/-! ## Position records (R364, R397) -/

/-- The oldest occupied slot of a ring: slots are taken in turn, so it is the first one that is not FREE from the next to be
taken on. -/
def Ctx.head (x : Ctx) (b : Bool) : Nat :=
  match (List.range 4).find? fun i => (x.slot b ((x.tail b + i) % 4)).st != 0 with
  | some i => (x.tail b + i) % 4
  | none => x.tail b

/-- The walk position record of a context (R364). -/
def Core.walkRecord (c : Core) (i : Nat) : List Byte :=
  let x := c.ctx i
  let slots (b : Bool) : Nat := packFields ((List.range 4).map fun n => (2 * n, 2, (x.slot b n).st))
  let left (n : Nat) : Nat := packFields ((x.bank n).mask.map fun q => (q, 1, 1))
  let pout := ((c.running i).filter fun n => n.up.kind ≤ 1).length
  leBytes 128 (packFields
    [(984, 40, Nat.min x.stepsDone (2 ^ 40 - 1)), (928, 32, Nat.min x.pstall (2 ^ 32 - 1)),
     (896, 32, Nat.min x.cstall (2 ^ 32 - 1)), (864, 32, Nat.min x.fstall (2 ^ 32 - 1)),
     (832, 32, Nat.min x.upcalls (2 ^ 32 - 1)), (768, 64, x.recva.toNat), (704, 64, x.cseq.toNat), (640, 64, x.spc.toNat),
     (600, 40, x.reqB.step), (580, 20, x.reqB.kk), (576, 4, x.reqB.item),
     (536, 40, x.reqA.step), (516, 20, x.reqA.kk), (512, 4, x.reqA.item),
     (472, 40, x.runStep), (452, 20, x.runKk), (448, 4, x.runKs),
     (368, 8, slots true), (360, 8, slots false), (358, 2, x.head true), (356, 2, x.head false),
     (352, 4, left 1), (348, 4, left 0), (346, 2, (x.bank 1).st), (344, 2, (x.bank 0).st), (342, 2, pout),
     (337, 5, x.flags.toNat), (332, 5, (fpClear x.fp).toNat), (331, 1, x.run.toNat),
     (330, 1, if x.state = xPausing || x.state = xCancelling then 1 else 0), (329, 1, i), (326, 3, x.state)])

/-- The contents of a bank, word by word (R331, R364). -/
def Bank.bytes (b : Bank) : List Byte := (List.range 4096).flatMap fun i => leBytes 4 (mget 0 b.words i).toNat

/-- The queue position record (R397). -/
def Queue.record (x : Queue) : List Byte :=
  let lag := packFields ((List.range 16).map fun b => (2 * b, 2, mget 0 x.lag b))
  leBytes 48 (packFields
    [(320, 64, x.spc.toNat), (256, 64, x.seq.toNat), (192, 64, x.prog.toNat), (128, 64, x.recva.toNat), (64, 64, x.stva.toNat),
     (32, 32, lag), (27, 5, x.flags.toNat), (22, 5, (fpClear x.fp).toNat), (19, 3, x.fset.getD 0), (18, 1, x.fset.isSome.toNat),
     (0, 3, x.imgState)])

/-! ## Blocks (R406) -/

/-- A block: its type, its index and what it holds. -/
structure Block where
  type : Nat
  index : Nat
  body : List Byte
  deriving DecidableEq, Repr

/-- A block with its header. -/
def Block.bytes (b : Block) : List Byte :=
  leBytes 2 b.type ++ leBytes 2 b.index ++ leBytes 4 (16 + b.body.length) ++ List.replicate 8 0 ++ b.body

/-- What block 6 holds, in the order in which R406 names it (DESIGN CHOICE, log 82): scratch contents, presence bits, barriers,
ring-link registers and the imaged control registers in the order of their numbers. -/
def Saved.scratchBody (v : Saved) : List Byte :=
  let c := v.core
  let r := c.csr
  mbytes 0 c.scratch 0 524288 ++
  bitsBytes ((List.range 4096).map fun ln => !v.absent.any fun a => a.core = v.hcore && a.line = ln) ++
  ((List.range 16).flatMap fun b => let x := mget {} c.bars b; leBytes 4 x.exp ++ leBytes 2 x.cur ++ leBytes 1 x.next ++ leBytes 1 x.phase.toNat) ++
  ((List.range 16).flatMap fun n => (List.range 3).flatMap fun k => leBytes 8 ((c.ring n).word k).toNat) ++
  [r.hshare, r.pdeadline, r.swapwait, r.hpool, r.tvec, r.tdeleg, r.tframe, r.racebase, r.raceidx, r.dbgctl, r.trcbase,
   r.trcidx].flatMap fun w => leBytes 8 w.toNat

/-- The blocks of an image. Types 1 and 2 are arranged as only the front end knows: their bodies are free. -/
def Saved.blocks (v : Saved) (order : Nat) : List Block :=
  let c := v.core
  let free (type index : Nat) : Block := ⟨type, index, (Config.stateBlock type index order).take 24576⟩
  let tgs := c.tgs.filter fun p => p.2.used
  let frame (t : Tg) : Option Frame := match t.svc with | some f => some f | none => t.frame
  free 1 0 :: (tgs.map fun p => free 2 p.1) ++
  (tgs.filterMap fun p => (frame p.2).map fun f => ⟨3, p.1, f.bytes⟩) ++
  ([0, 1].filter fun i => (c.ctx i).state != xIdle).map (fun i =>
    ⟨4, i, padTo 256 (c.ctx i).prob.raw ++ c.walkRecord i ++
      ([0, 1].filter fun n => ((c.ctx i).bank n).st != 0).flatMap fun n => ((c.ctx i).bank n).bytes⟩) ++
  ((c.queues.filter fun p => p.2.run).map fun p => ⟨5, p.1, p.2.record⟩) ++ [⟨6, 0, v.scratchBody⟩]

/-- The body of an image. -/
def Img.body (i : Img) : List Byte := (i.saved.blocks i.order).flatMap Block.bytes

/-! ## The header (R405) -/

/-- The header's fields other than BDIGEST, which is zero here. -/
def Img.fields (i : Img) : List Byte :=
  let v := i.saved
  let l := v.core.launch.getD {}
  let w0 := packFields [(0, 32, 0x31474D49), (32, 16, 1), (48, 8, v.kind), (56, 3, l.prio)]
  let w1 := packFields [(0, 14, l.asid), (16, 6, l.vif), (24, 10, v.hcore), (40, 8, l.regs / 8), (48, 5, l.caps)]
  [w0, w1, 0, 0, 0, i.body.length, l.nextSeq.toNat, l.scrubva.toNat, l.nscrub, l.trecva.toNat, 0, 0, 0, 0, 0, 0].flatMap
    (leBytes 8)

/-- The 128 bytes of the header. -/
def Img.header (i : Img) : List Byte := i.fields.take 80 ++ sha256 i.body ++ i.fields.drop 112

/-- The bytes of an image. -/
def Img.bytes (i : Img) : List Byte := i.header ++ i.body

/-! ## Firmware memory (R406; log 56) -/

/-- Frames that an image takes, and the bytes that they hold. -/
def imageFrames : Nat := 64
/-- The bytes kept for an image. -/
def imageSize : Nat := imageFrames * 65536

/-- The VA in address space 0 at which the image in some frames lies. -/
def imageVa (phys : Nat) : Nat := 2 ^ 48 + phys

/-- An image's bytes written where it lies. -/
def State.storeImage (s : State) (i : Img) : State := s.physWrite i.phys (i.bytes.take imageSize)

/-- The pages of an image: VA and physical address. -/
def imagePages (phys : Nat) : List (Nat × Nat) :=
  (List.range imageFrames).map fun k => (imageVa phys + 65536 * k, phys + 65536 * k)

/-- An image written at a run of free frames, which become pages of address space 0, readable and writable. -/
def State.putImage (s : State) (frame : Nat) (i : Img) : State :=
  let phys := frame * 65536
  let s := { s with frames := (List.range imageFrames).map (frame + ·) ++ s.frames }
  let m := (imagePages phys).foldl (fun s p => (s.setLeaves 0 p.1 0b011000000 p.2).getD s) s
  let i := { i with phys }
  ({ s with mem := m.mem, tables := m.tables, images := s.images ++ [i] } : State).storeImage i

/-- The frames of an image free again, and its pages gone. -/
def State.freeImage (s : State) (i : Img) : State :=
  let f := i.phys / 65536
  let m := (imagePages i.phys).foldl (fun s p => match s.leafAddr 0 p.1 with | some a => s.quadWrite a 0 | none => s) s
  { s with frames := s.frames.filter fun g => !(f ≤ g && g < f + imageFrames), mem := m.mem }

/-- Some images gone, with the marks of their actors. -/
def State.dropImages (s : State) (p : Img → Bool) : State :=
  let l := s.images.filter p
  let t := l.foldl State.freeImage s
  { t with
    images := t.images.filter fun i => !p i
    ring := { t.ring with marked := t.ring.marked.filter fun m => !l.any fun i => i.order = m.image } }

/-- The header of an image as it lies in firmware memory, and its fields other than BDIGEST. -/
def State.imageHeader (s : State) (i : Img) : List Byte := s.physBytes i.phys 128
/-- The fields of a header other than BDIGEST. -/
def headerFields (hb : List Byte) : List Byte := hb.take 80 ++ List.replicate 32 0 ++ hb.drop 112
/-- The body of an image as it lies in firmware memory, of the length that its header gives. -/
def State.imageBody (s : State) (i : Img) : List Byte :=
  s.physBytes (i.phys + 128) (Nat.min (fieldAt (s.imageHeader i) 40 8) (imageSize - 128))
/-- A line with bytes of an image from an offset on is damaged. -/
def State.imageDamaged (s : State) (i : Img) (off n : Nat) : Bool :=
  s.damage.any fun d => match d with | .line l => (i.phys + off) / 128 ≤ l && l < (i.phys + off + n + 127) / 128 | _ => false
/-- BDIGEST matches the body, whose lines can be read (R407 check 6). -/
def State.digestOk (s : State) (i : Img) : Bool :=
  !s.imageDamaged i 128 (s.imageBody i).length && ((s.imageHeader i).drop 80).take 32 = sha256 (s.imageBody i)

end Sys2Proof.Machine
end

