-- ==== Sys2Proof/Machine/Launches.lean ====
section
/-! DEFINITION. The end of launches: front-end writes, the retire scrub, the time record, kills, and where an Acknowledge
step goes (R121, R138, R297, R416, R425, R471). -/

namespace Sys2Proof.Machine

/-! ## Accesses of the command front end (R17, R121) -/

/-- Bytes cut at lines; `n` bounds the lines. -/
def lineParts : Nat → Nat → List Byte → List (Nat × List Byte)
  | 0, _, _ => []
  | n + 1, va, bs =>
    if bs.isEmpty then []
    else
      let k := 128 - va % 128
      (va, bs.take k) :: lineParts n (va + k) (bs.drop k)

/-- Stores of a device-level actor to consecutive bytes, with their uids: `sc` is the scope code, 0 for plain. -/
def State.devStore (s : State) (actor asid va : Nat) (bs : List Byte) (sc : Nat) (rel : Bool) : State × List Nat :=
  let acc := s.newAcc actor (s.nextPos actor) 0 0 0 sc false rel
  let (s, us) := (lineParts (bs.length / 128 + 2) va bs).foldl
    (fun (r : State × List Nat) p =>
      (r.1.issueEntry acc (vaPlace asid p.1) 0 (.store p.2) none none, r.2 ++ [r.1.nextUid])) (s, [])
  ((if rel then s.publish actor else s).bump actor, us)

/-- The front end's add to a completion counter (R121). -/
def State.frontAdd (s : State) (asid va v : Nat) : State × List Nat :=
  let acc := s.newAcc frontActor (s.nextPos frontActor) 0 0 0 3 false true
  let u := s.nextUid
  (((s.issueEntry acc (vaPlace asid va) 1 (.rmw (.int .add) 8 [⟨0, BitVec.ofNat 64 v, 0⟩]) none none).publish
    frontActor).bump frontActor, [u])

/-- A read of bytes of one line by the front end, at the home, which a saddle may hold (R434). -/
def State.frontLine (s : State) (asid va n : Nat) : ReadAns :=
  match s.loc frontActor .rd (vaPlace asid va) with
  | .error c => .fault c va s
  | .ok l =>
    if s.ownedByOther frontActor l || s.dramHeld l then .wait
    else if s.damaged l then .fault cMemError va s else .ok (s.locBytes l n) s

/-- A read that may cover several lines; `fuel` bounds the lines. -/
def State.frontBytes (s : State) (asid : Nat) : Nat → Nat → Nat → ReadAns
  | 0, _, _ => .ok [] s
  | fuel + 1, va, n =>
    if n = 0 then .ok [] s
    else
      let k := Nat.min n (128 - va % 128)
      match s.frontLine asid va k with
      | .ok bs s =>
        match s.frontBytes asid fuel (va + k) (n - k) with
        | .ok cs s => .ok (bs ++ cs) s
        | r => r
      | r => r

/-! ## The retire scrub and the time record (R416, R471) -/

/-- What the next line of a scrub list gives: the list line cannot be read yet, the fault that ends the scrub, the state with the
place where the scrub goes on, or its end. -/
inductive ScrubAns
  | wait
  | fault (cause va : Nat) (s : State)
  | more (s : State) (at_ : Nat × Nat)
  | done
  deriving DecidableEq, Repr

/-- The next line of a scrub list of some entries at a VA (R288, R416): `p` is the entry and the bytes of its range that are done. -/
def State.scrubNext (s : State) (asid count list : Nat) (p : Nat × Nat) : ScrubAns :=
  if count ≤ p.1 then .done
  else
    match s.frontLine asid (list + 16 * p.1) 16 with
    | .wait => .wait
    | .fault c v s => .fault c v s
    | .ok bs s =>
      let a := fieldAt bs 0 8
      let len := fieldAt bs 8 8
      if a % 128 != 0 || len % 128 != 0 then .fault cMisaligned a s
      else if len ≤ p.2 then .more (s.dropRange asid (a / 128) (len / 128)) (p.1 + 1, 0)
      else
        match s.scrubAt asid (a + p.2) with
        | .error c => .fault c (a + p.2) (s.dropRange asid (a / 128) (len / 128))
        | .ok s => .more s (p.1, p.2 + 128)

/-- A count that saturates at 32 bits. -/
def sat32 (n : Nat) : Nat := Nat.min n (2 ^ 32 - 1)

/-- The 64 bytes of a time record (R471). -/
def Accounts.record (a : Accounts) (now : Nat) : List Byte :=
  leBytes 8 a.submit ++ leBytes 8 now ++ leBytes 8 a.queue ++ leBytes 8 a.fault ++ leBytes 8 a.iowait ++ leBytes 8 a.exec ++
    leBytes 8 a.scrub ++ leBytes 4 (sat32 a.restores) ++ leBytes 4 (sat32 a.saves)

/-! ## What follows the end of a launch (R121) -/

/-- A notice of the front end about a launch's writes. -/
def State.endNotice (s : State) (e : Ending) (cause va : Nat) : State :=
  s.post { core := e.core, actor := frontActor, cause, addr := BitVec.ofNat 64 va, vif := e.launch.vif, asid := e.launch.asid }

/-- An ending moved on as far as it goes now: scrub, time record, status, counter, each write acknowledged before the next
(R121, R416, R471). The scrub clears a line a turn (stage 9), and the time between its turns is its own. -/
def State.endingRun : Nat → State → Ending → State × Option Ending
  | 0, s, e => (s, some e)
  | n + 1, s, e =>
    let l := e.launch
    if !e.uids.isEmpty || !e.waits.isEmpty then (s, some e)
    else
      match e.stage with
      | 0 =>
        if l.nscrub = 0 then State.endingRun n s { e with stage := 1 }
        else if s.drained? then (s, some e)
        else State.endingRun n s { e with stage := 9 }
      | 9 =>
        if s.drained? then (s, some e)
        else
          match s.scrubNext l.asid l.nscrub l.scrubva.toNat e.scrub with
          | .wait => (s, some e)
          | .fault c va s => (s.endNotice e c va, some { e with stage := 1 })
          | .more s p => (s, some { e with scrub := p })
          | .done => State.endingRun n s { e with stage := 1 }
      | 1 =>
        if l.trecva = 0 then State.endingRun n s { e with stage := 2 }
        else
          let (s, us) := s.devStore frontActor l.asid l.trecva.toNat (l.acct.record s.refTime) 0 false
          (s, some { e with stage := 2, uids := us })
      | 2 =>
        if l.staddr = 0 then State.endingRun n s { e with stage := 3 }
        else
          let (s, us) := s.devStore frontActor l.asid l.staddr.toNat (leBytes 8 e.status) 0 false
          (s, some { e with stage := 3, uids := us })
      | 3 =>
        if l.ccaddr = 0 then (s, none)
        else if !s.releaseReady frontActor (s.nextPos frontActor) .dev then (s, some e)
        else
          let (s, us) := s.frontAdd l.asid l.ccaddr.toNat l.ccinc
          (s, some { e with stage := 4, uids := us })
      | _ => (s, none)

/-- Every ending moved on. -/
def State.endingsGo (s : State) : State :=
  let r := s.endings.foldl (fun (r : State × List Ending) e =>
    match State.endingRun 5 r.1 e with
    | (s, some e) => (s, r.2 ++ [e])
    | (s, none) => (s, r.2)) ({ s with endings := [] }, [])
  { r.1 with endings := r.2 }

/-- A launch that has ended with a status; `waits` are atomics still to be acknowledged. -/
def State.addEnding (s : State) (l : Launch) (core status stage : Nat) (waits : List Nat) : State :=
  ({ s with endings := s.endings ++ [⟨l, core, status, stage, [], waits, (0, 0)⟩] } : State).endingsGo

/-! ## Kills (R138) -/

/-- The entries of a core's actors that have left it and are not acknowledged. -/
def State.coreEntries (s : State) (core : Nat) : List Nat :=
  let mine (e : Entry) : Bool := coreOf e.acc.actor = core && !e.isRecord
  ((s.path ++ s.links.map Prod.snd ++ s.done.map Done.e).filter mine).map Entry.uid

/-- The core of a core's actors emptied of what has not left it. -/
def Actor.dropAll (x : Actor) : Actor := { x with loads := [], storeQ := [], fences := [], observed := [], unacked := 0 }

/-- A core without its program: its own queue and its firmware setting stay (R118, R132). -/
def Core.vacant (c : Core) : Core := { pend := c.pend, csr := { parkshare := c.csr.parkshare } }

/-- The Couloir queues of a core stopped where they are. -/
def State.abandonAll (s : State) (core : Nat) : State :=
  (List.range 4).foldl (fun s q => s.abandon (queueActor core q)) s

/-- The status of a launch that firmware ends: the cause of the Spur's trap that it will not serve, else the cause that it names
(R138). -/
def Spur.killCause (p : Spur) (cause : Nat) : Nat :=
  match p.run, p.frame with
  | .parkFault, some f => f.cause
  | _, _ => cause

/-- A resident launch ended with a cause (R138): every engine stops, what has not left the core is discarded, and what has
left it awaits acknowledgement unobserved. What its groups have arrived at a scope barrier stays counted in the round (DESIGN CHOICE,
log 98). -/
def State.killLaunch (s : State) (core cause : Nat) : State :=
  match (s.core core).launch with
  | none => s
  | some l =>
    if l.killed.isSome then s
    else
      let out := s.coreEntries core
      let s := s.abandonAll core
      let s := s.onCore core fun c =>
        { c.vacant with launch := some { l with killed := some ((s.core core).spur.killCause cause) }, overlay := c.overlay, copies := c.copies }
      { s with
        actors := s.actors.map fun p => if coreOf p.1 = core then (p.1, p.2.dropAll) else p
        absent := s.absent.filter fun b => b.core != core
        orphans := s.orphans ++ out
        ring := { s.ring with marked := s.ring.marked.filter fun m => !(coreOf m.actor = core && m.image = 0) }
        retries := s.retries.filter fun p => coreOf (p.1 / 2) != core
        asked := mset 0 s.asked core 0 }

/-- A waiting saved image ended with a cause: its launch completes without being restored (R410). -/
def State.killImage (s : State) (order cause : Nat) : State :=
  match s.images.find? fun i => i.order = order with
  | none => s
  | some i =>
    let s := { s.dropImages (fun j => j.order = order) with orphans := s.orphans ++ i.saved.wait }
    match i.saved.core.launch with
    | none => s
    | some l => s.addEnding l i.saved.hcore (i.saved.core.spur.killCause cause) 0 i.saved.wait

/-- LAUNCH_KILL (R138): firmware ends the launch of a core, or of the saved image that the subject names by its order. -/
def execLaunchKill (core : Nat) (cause : BitVec 8) (s : State) : Out :=
  .next (if s.subj.1 = 0 then s.killLaunch core cause.toNat else s.killImage s.subj.1 cause.toNat)

/-! ## Completion (R121) -/

/-- A launch's conditions of R121 hold: the Spur is done, every set, gang, walk and program it started has ended, and
nothing is outstanding, race records that a saddle holds among it (R436, R447). A killed launch waits only for what had left the
core. -/
def State.launchDone (s : State) (core : Nat) : Bool :=
  let c := s.core core
  match c.launch with
  | none => false
  | some l =>
    (s.coreEntries core).isEmpty && !(s.heldRaces.any fun r => r.1 = core) &&
    (l.killed.isSome ||
      (c.spur.run = .done && c.spur.sets.all (·.running.isEmpty) && c.saving.isNone &&
        c.tgs.all (fun p => s.slotFree core p.1) && (c.ctx 0).state = xIdle && (c.ctx 1).state = xIdle &&
        c.queues.all (fun p => !p.2.run) &&
        s.actors.all fun p => coreOf p.1 != core || (p.2.loads.isEmpty && p.2.storeQ.isEmpty)))

/-- The core is vacated and the launch's end begins. -/
def State.finishLaunch (s : State) (core : Nat) : State :=
  match (s.core core).launch with
  | none => s
  | some l =>
    let s : State := { (s.onCore core Core.vacant) with asked := mset 0 s.asked core 0 }
    s.addEnding l core (l.killed.getD 0) 0 []

/-- LAUNCH_COMPLETE (R121): the subject names the core. -/
def execLaunchComplete (s : State) : Out :=
  .next (if s.launchDone s.subj.1 then s.finishLaunch s.subj.1 else s.endingsGo)

/-! ## Saved images as places where replies arrive (R297, R410) -/

/-- The state with a saved image's core, actors and absent lines in the place of its core's. -/
def State.swapIn (s : State) (v : Saved) : State :=
  { (s.setCore v.hcore v.core) with
    absent := v.absent ++ s.absent.filter fun b => b.core != v.hcore
    actors := (s.actors.filter fun p => coreOf p.1 < v.hcore) ++ v.actors ++ s.actors.filter fun p => v.hcore < coreOf p.1 }

/-- A saved image changed by what acts on its core and actors; the resident core is untouched, and the bytes in firmware memory
follow. -/
def State.onImage (s : State) (order : Nat) (f : State → State) : State :=
  match s.images.find? fun i => i.order = order with
  | none => s
  | some i =>
    let h := i.saved.hcore
    let t := f (s.swapIn i.saved)
    let v := { i.saved with core := t.core h, actors := t.actors.filter fun p => coreOf p.1 = h
                            absent := t.absent.filter fun b => b.core = h }
    let back : Saved := ⟨0, h, s.core h, s.actors.filter fun p => coreOf p.1 = h, s.absent.filter fun b => b.core = h, [], []⟩
    ({ (t.swapIn back) with
        images := updFirst (fun j => j.order = order) (fun j => { j with saved := v }) t.images } : State).storeImage { i with saved := v }

/-! ## Where an Acknowledge step goes -/

/-- An ending that no longer waits for an entry. -/
def Ending.unwait (uid : Nat) (e : Ending) : Ending := { e with waits := e.waits.erase uid }
/-- A saved image that no longer waits for an entry. -/
def Img.unwait (uid : Nat) (i : Img) : Img := { i with saved := { i.saved with wait := i.saved.wait.erase uid } }
/-- The cause of an atomic's fault recorded in the image (R297). -/
def Img.record (uid cause : Nat) (i : Img) : Img :=
  if cause = 0 then i else { i with saved := { i.saved with redo := (uid, cause) :: i.saved.redo.filter fun r => r.1 != uid } }

/-- APPLY of an entry, with the core and the actor of its saved image where that is where its actor now is (R39, R297). -/
def State.applyEntry (s : State) (uid : Nat) : State :=
  match s.images.find? fun i => i.saved.wait.contains uid with
  | some i => s.onImage i.order fun s => s.apply uid
  | none => s.apply uid

/-- The reply of an atomic of a saved image (R297): its value goes to the image, and a refused one waits in the image to be
performed again. -/
def State.imageReply (s : State) (d : Done) : State :=
  if d.cause = 0 then s.acknowledge d.e.uid
  else
    { s.onActor d.e.acc.actor (fun x => { x with storeQ := x.storeQ ++ [{ d.e with acc := s.renew d.e.acc }] }) with
      done := s.done.filter fun o => o.e.uid != d.e.uid }

/-- The acknowledgement of an entry that nobody awaits: only the view's overlay follows. -/
def State.ackOrphan (s : State) (d : Done) : State :=
  let uid := d.e.uid
  let s := { s with
    done := s.done.filter fun o => o.e.uid != uid
    orphans := s.orphans.erase uid
    endings := s.endings.map (Ending.unwait uid) }
  let s := s.onCore (coreOf d.e.acc.actor) fun c => c.ackView d
  (s.unobserve uid).endingsGo

/-- The acknowledgement of a core's access, with what it lets go on. -/
def State.ackAgent (s : State) (d : Done) : State :=
  let a := d.e.acc.actor
  let before := (s.queue (coreOf a) (lowOf a - 0x84)).late.length
  ((s.acknowledge d.e.uid).walksGo (coreOf a)).queueReply a before

/-- The acknowledgement of a front-end write: a refused one is reported (R121). -/
def State.ackFront (s : State) (d : Done) : State :=
  let uid := d.e.uid
  let s := s.acknowledge uid
  let s := match s.endings.find? fun e => e.uids.contains uid with
    | some e => if d.cause = 0 then s else s.endNotice e d.cause d.e.place.addr
    | none => s
  ({ s with endings := s.endings.map fun e => { e with uids := e.uids.erase uid } } : State).endingsGo

/-- A message leaves the device, or waits for the end of a LINK saddle (R437). -/
def State.send (s : State) (m : Sent) : State :=
  if s.linkDown then { s with unsent := s.unsent ++ [m] } else { s with outbox := s.outbox ++ [m] }

/-- The acknowledgement of a port's or the peer-link receiver's entry: the last one of a write sends its completion, and an atomic
its reply (R295, R425). -/
def State.ackPort (s : State) (d : Done) : State :=
  let uid := d.e.uid
  let s := s.acknowledge uid
  match s.remotes.find? fun r => r.uids.contains uid with
  | none => s
  | some r =>
    let others := s.remotes.filter (· != r)
    if d.cause != 0 then { s with remotes := others }.send (.fault r.via d.cause)
    else
      let r' := { r with uids := r.uids.erase uid }
      if r'.uids.isEmpty then
        let t : State := { s with remotes := others }
        match d.reply with
        | [] => t.send (.written r.via)
        | x :: _ => t.send (.data r.via (leBytes d.e.size x.2.toNat))
      else { s with remotes := others ++ [r'] }

/-- An Acknowledge step of an entry, wherever its reply goes (R39, R121, R138, R297, R425); a LINK saddle holds those of the
domain window (R437). -/
def State.ackEntry (s : State) (uid : Nat) : State :=
  match s.done.find? fun d => d.e.uid = uid with
  | none => s
  | some d =>
    let a := d.e.acc.actor
    if s.linkDown && (match d.e.place with | .win _ _ => true | _ => false) then s
    else if s.orphans.contains uid then s.ackOrphan d
    else
      match s.images.find? fun i => i.saved.wait.contains uid with
      | some i =>
        let t := s.onImage i.order fun s => s.imageReply d
        { t with images := updFirst (fun j => j.order = i.order) (fun j => (j.record uid d.cause).unwait uid) t.images }
      | none => if a = frontActor then s.ackFront d else if isDevActor a then s.ackPort d else s.ackAgent d

/-- ACKNOWLEDGE (R39). -/
def execAcknowledge (uid : Nat) (s : State) : Out := .next (s.ackEntry uid)

end Sys2Proof.Machine
end

