-- ==== Sys2Proof/Machine/Saves.lean ====
section
/-! DEFINITION. Pre-emption requests, YIELD, and how a launch is saved into an image
(R28, R44, R123, R128 to R136, R168, R297, R364, R397, R406, R409). -/

namespace Sys2Proof.Machine

/-! ## Requests (R128, R129, R135) -/

/-- REQ of sys.preq. -/
def Csrs.req (c : Csrs) : Bool := c.preq.getLsbD 0
/-- sys.preq with REQ and a WHY code. -/
def preqWord (why : Nat) : DWord := 0#56 ++ BitVec.ofNat 4 why ++ 1#4

/-- A save begins; unless its handler groups stop too, both walks are paused as WPAUSE does (R133). -/
def State.startSave (s : State) (core kind : Nat) (stop hard : Bool) : State :=
  let s := s.onCore core fun c =>
    { c with saving := some ⟨kind, stop, hard, s.cyclesOf core⟩, collected := false }
  if stop then s
  else [0, 1].foldl (fun s i => (s.pauseWalk core i).getD s) s

/-- REQ and WHY set together (R129), for the waiting image of an order, 0 for none: a parked Spur is saved at once, and one
that has ended is not saved (R135). -/
def State.raiseReq (s : State) (core why order : Nat) : State :=
  let c := s.core core
  match c.launch with
  | none => s
  | some l =>
    if l.killed.isSome || c.csr.req then s
    else
      let s := s.onCore core fun c =>
        { c with csr := { c.csr with preq := preqWord why }, preqAt := s.cyclesOf core, preqDone := c.spur.run = .done }
      let s : State := { s with asked := mset 0 s.asked core order }
      match c.spur.run with
      | .parkDq | .parkRdzv | .parkLaunch | .parkLjoin | .parkFault =>
        if c.saving.isSome then s else s.startSave core 1 false false
      | .run | .yielded | .done => s

/-- A request withdrawn that no save has answered (R129). -/
def State.dropReq (s : State) (core : Nat) : State :=
  let c := s.core core
  if !c.csr.req || c.saving.isSome then s
  else { s.onCore core (fun c => { c with csr := { c.csr with preq := 0 } }) with asked := mset 0 s.asked core 0 }

/-! ## YIELD (R133, R168) -/

/-- YIELD. -/
def execYield (h : Hd) (s : State) : Out :=
  spurAct h (fun c _ =>
    let t := s.spurSkip c (hdLen h)
    if !(s.core c).csr.req then t
    else (t.onSpur c fun p => { p with run := .yielded }).startSave c 1 false false) s

/-! ## Deadlines and the other saves (R123, R133, R134, R136) -/

/-- FORCED_SAVE (R133, R134): at the deadline, a forced save with its notice, or the stop of a cooperative one that has not
paused its walks. The subject names the core. That of a parked Spur, which has not executed YIELD, is stopped the same way and posts
no PREEMPT_FORCED: R133 gives YIELD as its reason and R134 the notice where a forced save is performed (DESIGN CHOICE, log 99). -/
def State.forceSave (s : State) (core : Nat) : State :=
  let c := s.core core
  if !s.launchRuns core || !c.csr.req || s.cyclesOf core < c.preqAt + c.csr.pdeadline.toNat || c.preqDone then s
  else
    match c.saving with
    | some v => if v.stop then s else s.onCore core fun c => { c with saving := some { v with stop := true } }
    | none =>
      let ids := s.launchIds core
      (s.startSave core 1 true true).post
        { core, actor := spurActor core, cause := cPreemptForced, pc := c.spur.pc, spc := c.spur.pc, vif := ids.1, asid := ids.2 }

/-- FORCED_SAVE. -/
def execForcedSave (s : State) : Out := .next (s.forceSave s.subj.1)

/-- Resident groups of a core, and those of them parked on fault service (R136). -/
def State.residents (s : State) (core : Nat) : List Nat := ((s.core core).tgs.map Prod.fst).filter fun k => !s.slotFree core k
/-- A place in a line of another core whose presence bit is clear. -/
def State.awayClear (s : State) (core : Nat) (p : Place) : Bool :=
  match p with | .scr k _ => k != core && s.bitWaits core p | _ => false
/-- An arm is parked because its load, which has not issued, meets such a line (R267). -/
def State.awayParked (s : State) (core slot : Nat) (arm : Bool) : Bool :=
  let t := s.tg core slot
  let at_ (h : Hd) (f : Nat → Addr) : Bool := (lanesOf (t.acting arm h)).any fun i => s.awayClear core (f i).place
  t.armPark arm = .presence &&
  match s.instrAt core slot (t.armPc arm) with
  | some (.ld h _ _ _ a b, _) => at_ h fun i => s.globAddr core h a b t i
  | some (.lds h _ _ _ a b, _) => at_ h fun i => scrAddr core h a b t i
  | _ => false
/-- The ones that count as parked: on fault service, or with a `.clu` load at a clear presence bit of another core (R267), issued or
still to issue. -/
def State.faulted (s : State) (core : Nat) : List Nat :=
  (s.residents core).filter fun k =>
    (s.tg core k).svc.isSome || s.awayParked core k true || s.awayParked core k false ||
      (s.actor (tgActor core k)).loads.any fun l => l.lanes.any fun t => s.awayClear core t.place

/-- PCT of sys.parkshare (R132). -/
def Csrs.pct (c : Csrs) : Nat := (c.parkshare.extractLsb' 0 7).toNat

/-- A save turned into a forced one where it stands, or begun as one. -/
def State.hardSave (s : State) (core kind : Nat) : State :=
  match (s.core core).saving with
  | some v => s.onCore core fun c => { c with saving := some { v with kind, stop := true, hard := true } }
  | none => s.startSave core kind true true

/-- PARKSHARE_SWITCH (R136): REQ with WHY 1, and a forced save at once, whatever request or cooperative save is under way
(R376). One whose Spur had ended when REQ became 1, or that is being swapped out, is saved no further (R135), and one that has executed
YIELD leaves no notice (R133; log 81). -/
def State.parkSwitch (s : State) (core : Nat) : State :=
  let c := s.core core
  if !s.launchRuns core || c.csr.preq = preqWord 1 || c.csr.pct ≥ 100 ||
      100 * (s.faulted core).length ≤ c.csr.pct * (s.residents core).length then s
  else
    let s := s.onCore core fun k =>
      { k with
        csr := { k.csr with preq := preqWord 1 }
        preqAt := if k.csr.req then k.preqAt else s.cyclesOf core
        preqDone := if k.csr.req then k.preqDone else k.spur.run = .done }
    if (s.core core).preqDone || c.saving.any fun v => v.kind = 2 || v.hard then s
    else
      let ids := s.launchIds core
      let s := s.hardSave core 3
      if c.spur.run = .yielded then s
      else s.post
        { core, actor := spurActor core, cause := cPreemptForced, pc := c.spur.pc, spc := c.spur.pc, vif := ids.1, asid := ids.2 }

/-- Firmware's setting of sys.parkshare (R132). -/
def State.setShare (s : State) (core pct : Nat) : State :=
  s.onCore core fun c => { c with csr := { c.csr with parkshare := BitVec.ofNat 64 (pct % 128) } }

/-- PARKSHARE_SWITCH: the subject names the core, and 0, or 1 more than the percentage that firmware sets just before (R132). -/
def execParkshareSwitch (s : State) : Out :=
  let t := if s.subj.2 = 0 then s else s.setShare s.subj.1 (s.subj.2 - 1)
  .next (t.parkSwitch s.subj.1)

/-- A group's arm that is parked on a condition which has not been met as far as its own state tells (R123). -/
def Core.parkedArm (c : Core) (t : Tg) (k : Park) : Bool :=
  match k with
  | .ready => false
  | .dq => c.dq.isEmpty && c.spur.run != .done
  | .barrier => t.waitBar.isSome || t.sbWait.isSome || (t.barm.any fun b => !b.done && b.fail.isEmpty)
  | _ => true

/-- Every arm of a group that could run is parked. -/
def Core.tgParked (c : Core) (t : Tg) : Bool :=
  match t.div with
  | some d => (d.t.wait || c.parkedArm t d.t.park) && (d.f.wait || c.parkedArm t d.f.park)
  | none => c.parkedArm t t.park

/-- A place that an access of the core waits at for a presence bit: such a wait is no outstanding request (R123). -/
def State.quietEntry (s : State) (e : Entry) : Bool := s.bitWaits (coreOf e.acc.actor) e.place

/-- An actor has no memory request outstanding but waits on presence bits. -/
def State.quietActor (s : State) (x : Actor) : Bool :=
  x.loads.all (fun l => l.lanes.all fun t => s.bitWaits (coreOf l.acc.actor) t.place) && x.storeQ.isEmpty

/-- An idle core (R123). -/
def State.idleCore (s : State) (core : Nat) : Bool :=
  let c := s.core core
  (match c.spur.run with | .parkLaunch | .parkLjoin | .parkRdzv => true | _ => false) &&
  s.launchRuns core && c.saving.isNone &&
  [0, 1].all (fun i => (c.ctx i).state = xIdle || (c.ctx i).state = xPaused) && c.queues.all (fun p => !p.2.run) &&
  (s.path ++ s.links.map Prod.snd ++ s.done.map Done.e).all (fun e =>
    coreOf e.acc.actor != core || e.isRecord || s.quietEntry e) &&
  s.actors.all (fun p => coreOf p.1 != core || s.quietActor p.2) &&
  c.tgs.all fun p => !p.2.alive || ((p.2.late.isEmpty || p.2.svc.isSome) && (c.tgParked p.2 || !s.tgCandidate core p.1))

/-- SWAP_OUT (R123, R131): the subject names the core. -/
def State.swapOut (s : State) (core : Nat) : State :=
  let c := s.core core
  let n := c.csr.swapwait.toNat
  if n != 0 && s.idleCore core && c.idleSince + n < s.cyclesOf core then s.startSave core 2 false false else s

/-- SWAP_OUT. -/
def execSwapOut (s : State) : Out := .next (s.swapOut s.subj.1)

/-- SAVE_OUTSTANDING_TIMEOUT (R133 step 4): 4096 local cycles after the groups stopped. The subject names the core. -/
def State.collect (s : State) (core : Nat) : State :=
  match (s.core core).saving with
  | some v => if v.since + 4096 ≤ s.cyclesOf core then s.onCore core fun c => { c with collected := true } else s
  | none => s

/-- SAVE_OUTSTANDING_TIMEOUT. -/
def execSaveOutstandingTimeout (s : State) : Out := .next (s.collect s.subj.1)

/-! ## Writing the image (R28, R44, R133, R134, R297, R364, R397) -/

/-- An entry that waits on a presence bit that the save leaves clear, since a forced save abandons the core's command that cleared it
or the line is stranded (R393, R397): it cannot be acknowledged before the image is written, and is kept with its actor (log 56). A
line that a command will still land is waited for. -/
def State.heldBack (s : State) (e : Entry) : Bool :=
  let core := coreOf e.acc.actor
  let hard := match (s.core core).saving with | some v => v.hard | none => false
  !e.isRecord && s.bitWaits core e.place &&
  match e.place with
  | .scr k off => s.absent.any fun b => b.core = k && b.line = off / 128 && (b.stranded || (hard && coreOf b.queue = core))
  | _ => false

/-- A core's entries that have left it; `records` for its read records. -/
def State.leftCore (s : State) (core : Nat) : List Entry :=
  (s.path ++ s.links.map Prod.snd ++ s.done.map Done.e).filter fun e => coreOf e.acc.actor = core

/-- The stores of a core's actors that wait for a replay, by uid (R190, R194). -/
def State.heldUids (s : State) (core : Nat) : List Nat :=
  let c := s.core core
  (c.tgs.flatMap fun p =>
    (heldEntries (p.2.late ++ (p.2.svc.map Frame.heldOps).getD [] ++ (p.2.frame.map Frame.heldOps).getD [])).map Entry.uid) ++ c.spur.owed

/-- A fence `.cum` that waits for the replay of a store of another actor (R40, R43): it completes only after a resume. -/
def State.fenceStuck (s : State) (core : Nat) (x : Actor) (f : Fence) : Bool :=
  f.kind = .cum && !(f.sc = .tg || f.sc = .core) && x.observed.any (s.heldUids core).contains

/-- The entries of a store queue that cannot drain before a resume, oldest first, once the actor's loads and atomics are collected:
what stands behind a collected acquire, behind an operation held for its replay, behind such a fence, or behind another such entry
of its line or bank (R39, R41, R43, R44; log 56). -/
def State.stuckOf (s : State) (a : Nat) (x : Actor) : List Entry :=
  let ops := s.svcOps a
  let out := (s.drained a).filter fun o => o.isRmw && o.acc.acq
  x.storeQ.foldl (fun l e =>
    let older (o : Acc) : Bool := o.acq && decide (o.pos < e.acc.pos)
    if x.loads.any (fun o => older o.acc) || out.any (fun o => older o.acc) || l.any (fun o => older o.acc) ||
        ops.any (fun o => !o.done && older o.op.acc) ||
        (heldEntries ops).any (fun o => o.acc.pos < e.acc.pos && o.place.line = e.place.line) ||
        x.fences.any (fun f => f.pos < e.acc.pos && s.fenceStuck (coreOf a) x f) ||
        l.any (fun o => (o.place.line = e.place.line && !e.sibling o) || e.sameBank o) then l ++ [e] else l) []

/-- An actor's state may be written: its store queue has drained as far as it can, and its loads have performed or are collected
(R44). -/
def State.mayWrite (s : State) (a : Nat) (x : Actor) (loose : Bool) : Bool :=
  (x.loads.isEmpty || loose) && (x.storeQ.isEmpty || (loose && x.storeQ.all (s.stuckOf a x).contains))

/-- The image may be written now. -/
def State.imageReady (s : State) (core : Nat) : Bool :=
  let c := s.core core
  match c.saving with
  | none => false
  | some v =>
    let loose := v.hard || c.collected
    s.launchRuns core &&
    (s.leftCore core).all (fun e => s.heldBack e || (e.isRmw && loose)) &&
    s.actors.all (fun p => coreOf p.1 != core || s.mayWrite p.1 p.2 loose) && (c.spur.busy.isNone || loose) &&
    (v.stop || [0, 1].all fun i => ((c.ctx i).state = xIdle || (c.ctx i).state = xPaused) && s.walkQuiet core i) &&
    (v.hard || c.queues.all fun p => p.2.cmd.isNone && p.2.ending.isNone)

/-- A context as its position record holds it (R364): what has not landed or been dispatched is QUEUED. -/
def Ctx.forImage (c : Core) (i : Nat) (x : Ctx) : Ctx :=
  let raised (b : Bool) (n : Nat) : Bool :=
    c.upq.any fun u => u.ctx = i && u.slot = n && u.kind = (if b then 1 else 0)
  let one (x : Ctx) (b : Bool) (n : Nat) : Ctx :=
    let t := x.slot b n
    if t.st = 1 && (x.kind b != 2 || raised b n) then
      x.setSlot b n { t with st := 3, lines := [], faults := [], got := [], group := none } else x
  let x := [false, true].foldl (fun x b => (List.range 4).foldl (fun x n => one x b n) x) x
  { x with maskFault := none, units := [], readyAt := none }

/-- A queue that waits in CWAT (R391). -/
def Queue.waiting (x : Queue) : Bool := match x.pend with | some (.cwat _ _) | some (.cwatBar _) => true | _ => false

/-- A queue as its position record holds it (R397): the record in hand is issued again, but for a CSIG whose atomic has drained,
`sent`, which has completed (R387); a queue in CWAT stays WAITING, and one in FAULT or HELD goes on as RUNNING: what awaited service is
issued again. A program whose fault firmware has declined is ending (R395). `state` is STATE at the save. -/
def Queue.forImage (x : Queue) (sent : Bool) (state : Nat) : Queue :=
  let done := match x.cmd with | some c => (match c.op with | .csig _ _ => sent && x.late.isEmpty | _ => false) | none => false
  { x with
    cmd := none, read := [], faults := [], late := [], met := false, pend := if x.waiting then x.pend else none
    recva := if done then x.recva + 16 else x.recva
    ending := x.ending <|> x.declined, declined := none, imgState := state }

/-- A core as the image holds it; `sent` tells which queues have an empty store queue, `st` each one's STATE. -/
def Core.forImage (c : Core) (sent : Nat → Bool) (st : Nat → Nat) : Core :=
  let x0 := (c.ctx 0).forImage c 0
  let x1 := (c.ctx 1).forImage c 1
  let c := (c.setCtx 0 x0).setCtx 1 x1
  { c with
    launch := c.launch.map fun l => { l with acct := { l.acct with saves := l.acct.saves + 1 } }
    csr := { c.csr with preq := 0 }
    queues := c.queues.map fun p => (p.1, p.2.forImage (sent p.1) (st p.1))
    upq := c.upq.filter fun u => u.kind = 2
    copies := [], overlay := [], pend := [], saving := none, collected := false, preqDone := false }

/-- Entries put back before an actor's store queue. -/
def Actor.takeBack (x : Actor) (l : List Entry) : Actor := { x with storeQ := sortBy (fun a b => a.uid ≤ b.uid) (l ++ x.storeQ) }

/-- The commands in hand of a core's queues abandoned (R393, R397). -/
def State.abandonCmds (s : State) (core : Nat) : State :=
  (List.range 4).foldl (fun s q => if (s.queue core q).cmd.isSome then s.abandon (queueActor core q) else s) s

/-- The atomic of a CSIG that has not drained: its record is issued again, so it is not kept (R397). -/
def State.dropCsig (s : State) (core q : Nat) : State :=
  match (s.queue core q).cmd with
  | some c => if c.lines.isEmpty then s.onActor (queueActor core q) fun x => { x with storeQ := [] } else s
  | none => s

/-- The mark of a resident actor of a core goes with its image (R414). -/
def Mark.toImage (core order : Nat) (m : Mark) : Mark :=
  if coreOf m.actor = core && m.image = 0 then { m with image := order } else m

/-- The image and the state without its launch: the core is vacant and its owned lines are disowned. -/
def State.takeImage (s : State) (core : Nat) (v : Save) : State × Img :=
  let sent (q : Nat) : Bool := (s.actor (queueActor core q)).storeQ.isEmpty
  let st (q : Nat) : Nat := s.queueState core q
  let s := (s.abandonCmds core : State)
  let s := (List.range 4).foldl (fun s q => s.dropCsig core q) s
  let c := s.core core
  let back := s.path.filter fun e => coreOf e.acc.actor = core && s.heldBack e
  let wait := ((s.leftCore core).filter fun e => e.isRmw && !s.heldBack e).map Entry.uid
  let mine := (s.actors.filter fun p => coreOf p.1 = core).map fun p =>
    (p.1, p.2.takeBack (back.filter fun e => e.acc.actor = p.1))
  let img : Img :=
    { order := s.nextOrder
      saved := { kind := v.kind, hcore := core, core := c.forImage sent st, actors := mine
                 absent := s.absent.filter fun b => b.core = core, wait, redo := [] } }
  let s := s.setCore core c.vacant
  ({ s with
      nextOrder := s.nextOrder + 1
      path := s.path.filter fun e => !back.contains e
      actors := s.actors.filter fun p => coreOf p.1 != core
      absent := s.absent.filter fun b => b.core != core
      owners := s.owners.filter fun o => coreOf o.actor != core
      retries := s.retries.filter fun p => coreOf (p.1 / 2) != core
      ring := { s.ring with marked := s.ring.marked.map (Mark.toImage core img.order) }
      asked := mset 0 s.asked core 0 }, img)

end Sys2Proof.Machine
end

