-- ==== Sys2Proof/Machine/Placement.lean ====
section
/-! DEFINITION. Image headers, the choice of a core for a waiting image, pre-emption requests for waiting images, and the
restore (R26, R27, R117, R118, R120, R123, R129, R302, R365, R405, R407 to R410, R443, R457). -/

namespace Sys2Proof.Machine

/-! ## Image headers (R405, R407) -/

/-- The fields of a fresh image's header. -/
structure Header where
  vif : Nat
  asid : Nat
  prio : Nat
  caps : Nat
  regs : Nat
  entry : DWord
  scrimg : Nat
  scrbase : Nat
  scrsize : Nat
  nextSeq : DWord
  scrubva : DWord
  nscrub : Nat
  trecva : DWord
  deriving DecidableEq, Repr

/-- MAGIC, VERSION, a KIND, the reserved fields and the fields' own limits (R405, R407 check 2). -/
def headerForm (kind : Nat) (bs : List Byte) : Bool :=
  let w (k : Nat) : DWord := quadAt bs (8 * k)
  fieldNat (w 0) 0 32 = 0x31474D49 && fieldNat (w 0) 32 16 = 1 && fieldNat (w 0) 48 8 = kind && fieldNat (w 0) 59 5 = 0 &&
  fieldNat (w 1) 14 2 = 0 && fieldNat (w 1) 22 2 = 0 && fieldNat (w 1) 34 6 = 0 && fieldNat (w 1) 53 11 = 0 &&
  fieldNat (w 8) 32 32 = 0 && w 14 = 0 && w 15 = 0 &&
  fieldNat (w 4) 0 32 % 128 = 0 && fieldNat (w 4) 32 32 % 128 = 0 && (w 7).toNat % 16 = 0 && fieldNat (w 8) 0 32 ≤ 4096 &&
  fieldNat (w 2) 0 2 = 0

/-- The fields of 128 header bytes. -/
def Header.ofBytes (bs : List Byte) : Header :=
  let w (k : Nat) : DWord := quadAt bs (8 * k)
  { vif := fieldNat (w 1) 16 6, asid := fieldNat (w 1) 0 14, prio := fieldNat (w 0) 56 3, caps := fieldNat (w 1) 48 5
    regs := 8 * fieldNat (w 1) 40 8, entry := w 2, scrimg := (w 3).toNat, scrbase := fieldNat (w 4) 0 32
    scrsize := fieldNat (w 4) 32 32, nextSeq := w 6, scrubva := w 7, nscrub := fieldNat (w 8) 0 32, trecva := w 9 }

/-- The checks 2 to 5 of R407 for a fresh image of an interface and address space. -/
def State.headerOk (s : State) (vif asid : Nat) (bs : List Byte) : Bool :=
  let h := Header.ofBytes bs
  headerForm 0 bs && h.vif = vif && h.asid = asid && BitVec.ofNat 5 h.caps &&& ~~~(s.caps.extractLsb' 0 5) == 0 &&
  8 ≤ h.regs && h.regs ≤ 256 && h.scrbase + h.scrsize ≤ 524288 &&
  (match s.locGlob .ex asid h.entry.toNat with | .ok _ => true | .error _ => false)

/-- The checks 2 to 4 of R407 for a saved image, on its header as it lies in firmware memory: its KIND, its launch's interface and
address space, the units it needs and its register count. -/
def State.savedHeaderOk (s : State) (i : Img) (l : Launch) : Bool :=
  let bs := headerFields (s.imageHeader i)
  let h := Header.ofBytes bs
  1 ≤ i.saved.kind && i.saved.kind ≤ 3 && headerForm i.saved.kind bs && h.vif = l.vif && h.asid = l.asid &&
  BitVec.ofNat 5 h.caps &&& ~~~(s.caps.extractLsb' 0 5) == 0 && 8 ≤ h.regs && h.regs ≤ 256

/-- The checks of R407 for a saved image: they read the bytes in firmware memory, and BDIGEST is held against the body there. -/
def State.imageOk (s : State) (i : Img) : Bool :=
  match i.saved.core.launch with
  | none => false
  | some l => !s.imageDamaged i 0 128 && s.savedHeaderOk i l && s.digestOk i

/-- The status of a saved image that fails: that of a fault met while reading the header, else BAD_IMAGE (R407). -/
def State.imageFault (s : State) (i : Img) : Nat := if s.imageDamaged i 0 128 then cMemError else cBadImage

/-- What reading and checking an image gives: its header with the initial segment's bytes, or a status code, with the header where
it has passed check 2, so that it names the launch's scrub list and time record. -/
inductive ImageAns
  | wait
  | bad (code : Nat) (h : Option Header)
  | ok (h : Header) (seg : List Byte)

/-- A fresh image read from its address space and checked (R407). -/
def State.readImage (s : State) (vif asid va : Nat) : ImageAns :=
  match s.frontBytes asid 2 va 128 with
  | .wait => .wait
  | .fault c _ _ => .bad c none
  | .ok bs _ =>
    let h := Header.ofBytes bs
    if !s.headerOk vif asid bs then .bad cBadImage (if headerForm 0 bs then some h else none)
    else
      match s.frontBytes asid (h.scrsize / 128 + 2) h.scrimg h.scrsize with
      | .wait => .wait
      | .fault c _ _ => .bad c (some h)
      | .ok seg _ => .ok h seg

/-! ## Free cores and the thermal order (R118, R408, R457) -/

/-- An image has been chosen for a core and not restored. -/
def State.hasIncoming (s : State) (core : Nat) : Bool := s.incoming.any fun x => x.1 = core

/-- No launch is resident on a compute core, and none is being restored there. -/
def State.vacantCore (s : State) (core : Nat) : Bool :=
  s.computeCore core && (s.core core).launch.isNone && !s.hasIncoming core

/-- A free core (R118): vacant with an empty queue of its own. -/
def State.freeCore (s : State) (core : Nat) : Bool := s.vacantCore core && (s.core core).pend.isEmpty

/-- A core that counts as busy for its neighbours (R457): a launch is resident, or it is the firmware core. -/
def State.busyCore (s : State) (core : Nat) : Bool := core % 192 = 191 || (s.core core).launch.isSome

/-- The distance of two numbers. -/
def gapOf (a b : Nat) : Nat := (a - b) + (b - a)

/-- Busy neighbours of a core (R457). -/
def State.busyAround (s : State) (core : Nat) : Nat :=
  let n := core % 192
  ((List.range 192).filter fun m =>
    m != n && gapOf (m / 16) (n / 16) + gapOf (m % 16) (n % 16) ≤ 4 && s.busyCore (core / 192 * 192 + m)).length

/-- A core's place in the thermal order: smaller is earlier. -/
def State.thermKey (s : State) (core : Nat) : Nat :=
  let n := core % 192
  let cl := clusterOf core
  ((((s.cluster cl).rank * 4 + cl) * 192 + s.busyAround core) * 2 + (n / 16 + n % 16) % 2) * 192 + n

/-- The first free core of some in the thermal order. -/
def State.firstFree (s : State) (p : Nat → Bool) : Option Nat :=
  (List.range 768).foldl (fun b c =>
    if p c && s.freeCore c then
      match b with
      | none => some c
      | some d => if s.thermKey c < s.thermKey d then some c else b
    else b) none

/-! ## Waiting images (R123, R408, R410) -/

/-- The place of a wait condition that a swapped Spur tests: the counter of LJOIN has reached its target (R122, R123). -/
def State.watchMet (s : State) (v : Saved) : Bool :=
  v.core.spur.met ||
  match v.core.spur.watch, v.core.launch with
  | some (va, target), some l =>
    (match s.loc frontActor .rd (vaPlace l.asid va.toNat) with
      | .ok loc => !s.dramHeld loc && leNat (s.locBytes loc 8) ≥ target.toNat
      | .error _ => true)
  | _, _ => true

/-- The queue that a parked LAUNCH of a swapped Spur names has room again (R113, R123). -/
def State.launchMet (s : State) (v : Saved) : Bool :=
  let room (c : Nat) : Bool := (s.core c).pend.length < 4
  match v.core.launch with
  | none => true
  | some l =>
    match s.fetch l.asid v.core.spur.pc with
    | .fault _ _ _ => true
    | .ok us =>
      match decode ⟨.spur, 0⟩ us with
      | .ok (.launch _ tgt _ _) _ =>
        (match tgt with
          | .self => room v.hcore
          | .next => room (ringNext v.hcore)
          | .prev => room (ringPrev v.hcore)
          | .cluster => (s.clq.filter fun e => e.1 = clusterOf v.hcore).length < 64)
      | _ => true

/-- The fork set that a parked RDZV of a swapped Spur names has finished (R160). -/
def State.setMet (s : State) (v : Saved) : Bool :=
  match v.core.launch with
  | none => true
  | some l =>
    match s.fetch l.asid v.core.spur.pc with
    | .fault _ _ _ => true
    | .ok us =>
      match decode ⟨.spur, 0⟩ us with
      | .ok (.rdzv h _ a) _ =>
        (match v.core.spur.sets.find? fun f => f.num = (v.core.spur.src h.lit a).toNat with
          | some f => f.running.isEmpty
          | none => true)
      | _ => true

/-- A group of an image that would go on: it has accesses that wait for no presence bit, a late fault to take, or an arm that is
ready to issue. -/
def State.wouldRun (s : State) (core k : Nat) : Bool :=
  let t := s.tg core k
  t.alive && t.svc.isNone && !t.halted &&
    (!t.late.isEmpty || !s.quietActor (s.actor (tgActor core k)) || (!(s.core core).tgParked t && s.tgCandidate core k))

/-- A swapped image with its Spur in PARK_RDZV returns when the set has finished or a group would be ready (R123). -/
def State.rdzvMet (s : State) (v : Saved) : Bool :=
  s.setMet v || v.core.tgs.any fun p => (s.swapIn v).wouldRun v.hcore p.1

/-- A saved image that may be placed (R123, R297, R408, R410). -/
def State.eligibleImg (s : State) (i : Img) : Bool :=
  let v := i.saved
  v.wait.isEmpty && !(s.incoming.any fun x => x.2 = .saved i.order) &&
  match v.kind with
  | 2 =>
    (match v.core.spur.run with
      | .parkLjoin => s.watchMet v
      | .parkLaunch => s.launchMet v
      | .parkRdzv => s.rdzvMet v
      | _ => true)
  | 3 => v.core.tgs.all fun p => p.2.svc.isNone
  | _ => true

/-- A waiting image of the front end: a saved one or a START request. -/
inductive Waiting
  | saved (i : Img)
  | fresh (c : Card)
  deriving DecidableEq, Repr

/-- Its priority, whether it is saved, its interface and its order of arrival. -/
def Waiting.key : Waiting → Nat × Bool × Nat × Nat
  | .saved i => (match i.saved.core.launch with | some l => (l.prio, true, l.vif, i.order) | none => (0, true, 0, i.order))
  | .fresh c => (c.prio, false, c.vif, c.order)

/-- The eligible waiting images. -/
def State.waiting (s : State) : List Waiting :=
  (s.images.filter s.eligibleImg).map .saved ++ s.starts.map .fresh

/-- The interface last served in a class. -/
def State.lastOf (s : State) (prio : Nat) (saved : Bool) : Nat :=
  match s.lastServed.find? fun x => x.1 = (prio, saved) with | some x => x.2 | none => 63

/-- The order of R408 as a number: priority, saved ahead of fresh, round robin of interfaces, arrival within one. -/
def State.waitKey (s : State) (l : List Waiting) (x : Waiting) : Nat :=
  let (p, sv, v, o) := x.key
  let turn := (l.filter fun y => let (q, tv, w, r) := y.key; q = p && tv = sv && w = v && r < o).length
  let rr := (v + 63 - s.lastOf p sv) % 64
  (((7 - p) * 2 + (if sv then 0 else 1)) * 2 ^ 32 + turn) * 64 + rr

/-- The waiting images in the order of R408. -/
def State.queueOrder (s : State) : List Waiting :=
  let l := s.waiting
  ((sortBy (fun a b => a.1 ≤ b.1) (l.map fun x => (s.waitKey l x, x)))).map Prod.snd

/-- A core whose queues are empty, so that the front end may place on it (R408 step 3). -/
def State.frontFree (s : State) (core : Nat) : Bool :=
  s.freeCore core && !s.clq.any fun e => e.1 = clusterOf core

/-- The core that a waiting image can be placed on now. -/
def State.targetOf (s : State) (x : Waiting) : Option Nat :=
  match x with
  | .saved i => if s.frontFree i.saved.hcore then some i.saved.hcore else none
  | .fresh c =>
    match c.core with
    | some k => if s.frontFree k then some k else none
    | none => s.firstFree s.frontFree

/-! ## Placement (R118, R408) -/

/-- The card of highest priority, the oldest among equals. -/
def bestCard (l : List Card) : Option Card :=
  l.foldl (fun b c => match b with | none => some c | some d => if c.prio > d.prio then some c else b) none

/-- An image chosen for a core. -/
def State.choose (s : State) (core : Nat) (x : Incoming) : State := { s with incoming := s.incoming ++ [(core, x)] }

/-- A waiting image chosen for its core: it leaves its queue, and its interface has been served. -/
def State.takeWaiting (s : State) (core : Nat) (x : Waiting) : State :=
  let (p, sv, v, _) := x.key
  let s := { s with lastServed := ((p, sv), v) :: s.lastServed.filter fun y => y.1 != (p, sv) }
  match x with
  | .saved i => s.choose core (.saved i.order)
  | .fresh c => ({ s with starts := s.starts.filter fun d => d.order != c.order } : State).choose core (.fresh c)

/-- PLACEMENT (R118, R408): a vacant core takes from its own queue, then from its cluster's where it is the first free core,
then the first image that can be placed now, where that goes to this core. -/
def State.placeOn (s : State) (core : Nat) : State :=
  if !s.vacantCore core then s
  else
    match bestCard (s.core core).pend with
    | some c => (s.onCore core fun k => { k with pend := k.pend.filter fun d => d.order != c.order }).choose core (.fresh c)
    | none =>
      match bestCard ((s.clq.filter fun e => e.1 = clusterOf core).map Prod.snd) with
      | some c =>
        if s.firstFree (fun k => clusterOf k = clusterOf core) = some core then
          ({ s with clq := s.clq.filter fun e => e.2.order != c.order } : State).choose core (.fresh c)
        else s
      | none =>
        match s.queueOrder.find? fun x => (s.targetOf x).isSome with
        | some x => if s.targetOf x = some core then s.takeWaiting core x else s
        | none => s

/-- PLACEMENT: the subject names the core. -/
def execPlacement (s : State) : Out := .next (s.placeOn s.subj.1)

/-! ## Pre-emption for a waiting image (R409) -/

/-- The launches that a waiting image may ask to be saved, by core: a saved image only the one on its core, an image that
names a core only the one there. -/
def State.askable (s : State) (x : Waiting) : List Nat :=
  let p := x.key.1
  let on (c : Nat) : Bool :=
    match x with
    | .saved i => c = i.saved.hcore
    | .fresh d => match d.core with | some k => c = k | none => true
  (s.cores.map Prod.fst).filter fun c =>
    on c && s.computeCore c && !(s.core c).csr.req &&
    match (s.core c).launch with | some l => l.killed.isNone && l.prio < p | none => false

/-- The lowest priority first, then the most recently restored. -/
def State.victim (s : State) (x : Waiting) : Option Nat :=
  (s.askable x).foldl (fun b c =>
    match b, (s.core c).launch with
    | none, _ => some c
    | some d, some l =>
      (match (s.core d).launch with
        | some m => if l.prio < m.prio || (l.prio = m.prio && l.restored > m.restored) then some c else b
        | none => b)
    | b, none => b) none

/-- A waiting image by its order. -/
def State.waitingOf (s : State) (order : Nat) : Option Waiting := s.waiting.find? fun x => x.key.2.2.2 = order

/-- PREEMPT_REQUEST (R129, R409): for the waiting image that the subject names by its order, on the launch that R409 chooses;
or, with order 0, firmware's own request. -/
def State.preempt (s : State) (core : Nat) (withdraw : Bool) (order : Nat) : State :=
  if withdraw then s.dropReq core
  else if order = 0 then s.raiseReq core 3 0
  else
    match s.waitingOf order with
    | none => s
    | some x =>
      if (s.targetOf x).isSome || s.asked.any (fun p => p.2 = order) || s.victim x != some core then s
      else s.raiseReq core 0 order

/-- PREEMPT_REQUEST. -/
def execPreemptRequest (core : Nat) (withdraw : Bool) (s : State) : Out := .next (s.preempt core withdraw s.subj.1)

/-! ## Restore (R26, R27, R120, R302, R365, R407, R443) -/

/-- A launch that a fresh image starts. -/
def freshLaunch (c : Card) (h : Header) (cairn order : Nat) : Launch :=
  { vif := c.vif, asid := c.asid, prio := c.prio, regs := h.regs, staddr := c.staddr, ccaddr := c.ccaddr, ccinc := c.ccinc
    trecva := h.trecva, scrubva := h.scrubva, nscrub := h.nscrub, nextSeq := h.nextSeq, caps := h.caps, cairn, restored := order
    acct := { c.acct with restores := c.acct.restores + 1 } }

/-- The launch of an image that has failed its checks (R407): it ends as R138 gives, with the scrub list and the time record that a
header of good form names (R416, R471). -/
def failedLaunch (c : Card) (h : Option Header) : Launch :=
  let l : Launch :=
    { vif := c.vif, asid := c.asid, prio := c.prio, staddr := c.staddr, ccaddr := c.ccaddr, ccinc := c.ccinc, acct := c.acct }
  match h with
  | some h => { l with trecva := h.trecva, scrubva := h.scrubva, nscrub := h.nscrub }
  | none => l

/-- The Spur of a fresh image, with the ARG values of its card (R117). -/
def freshSpur (c : Card) (h : Header) : Spur :=
  { pc := h.entry, run := .run
    s := (c.args.zip (List.range c.args.length)).foldl (fun m p => mset 0 m (p.2 + 1) p.1) [] }

/-- A fresh kernel restored on a core: everything but the Spur entry and the initial segment is in its reset state. -/
def State.restoreFresh (s : State) (core : Nat) (c : Card) (h : Header) (seg : List Byte) : State :=
  let l := freshLaunch c h (s.space c.asid).cairn s.nextOrder
  let k := s.core core
  let k : Core := { k.vacant with
    launch := some l, spur := freshSpur c h, scratch := mwrite 0 [] h.scrbase seg
    idleSince := s.cyclesOf core, lastSample := s.cyclesOf core }
  { s.setCore core k with
    nextOrder := s.nextOrder + 1
    actors := s.actors.filter fun p => coreOf p.1 != core
    absent := s.absent.filter fun b => b.core != core }

/-- A group at the resume instant, at a local cycle: its replays finish first, the window of a FUSE starts again (R241), its readiness
is counted anew (R126), and a clear window whose saddle has started is crossed (R443). -/
def Tg.restore (g : Calendar) (now : Nat) (t : Tg) : Tg :=
  { t with replaying := true, readySince := now, boosted := false, fuseAt := none, outer := { t.outer with fuseAt := none }
           crossed := t.crossed || (match t.window with | some n => n < g.next || (n = g.next && g.phase ≥ 2) | none => false) }
/-- The Spur at the resume instant: YIELDED goes on at its next PC (R133), and a parked LJOIN reads its counter again (R122). -/
def Spur.restore (g : Calendar) (p : Spur) : Spur :=
  { p with
    run := if p.run = .yielded then .run else p.run
    met := false
    crossed := p.crossed || (match p.window with | some n => n < g.next || (n = g.next && g.phase ≥ 2) | none => false) }

/-- An actor at the resume instant: its waiting accesses start anew, as the limit of R427 counts them. -/
def Actor.restart (x : Actor) (now : Nat) : Actor :=
  { x with
    loads := x.loads.map fun l => { l with acc := { l.acc with time := now } }
    storeQ := x.storeQ.map fun e => { e with acc := { e.acc with time := now } } }

/-- A context at the resume instant: the status of an idle one tells of walks since then (R355). -/
def Ctx.restore (x : Ctx) : Ctx := if x.state = xIdle then { x with status := 0 } else x

/-- The mark of an actor of an image that is restored (R414). -/
def Mark.ofImage (order : Nat) (m : Mark) : Mark := if m.image = order then { m with image := 0 } else m

/-- A saved image restored on its core; its contexts and its copy programs go on (R365, R397). -/
def State.restoreSaved (s : State) (i : Img) : State :=
  let v := i.saved
  let core := v.hcore
  let pend := (s.core core).pend
  let share := (s.core core).csr.parkshare
  let k : Core := { v.core with
    pend, csr := { v.core.csr with parkshare := share }
    launch := v.core.launch.map fun l =>
      { l with restored := s.nextOrder, cairn := (s.space l.asid).cairn, acct := { l.acct with restores := l.acct.restores + 1 } }
    spur := v.core.spur.restore s.calendar
    tgs := v.core.tgs.map fun p => (p.1, p.2.restore s.calendar (s.cyclesOf core))
    ctxs := v.core.ctxs.map fun p => (p.1, p.2.restore)
    queues := v.core.queues.map fun p => (p.1, { p.2 with imgState := 0 })
    idleSince := s.cyclesOf core, lastSample := s.cyclesOf core }
  let t := s.swapIn { v with core := k, actors := v.actors.map fun p => (p.1, p.2.restart s.refTime) }
  let t := ({ t with
      nextOrder := s.nextOrder + 1
      ring := { t.ring with marked := t.ring.marked.map (Mark.ofImage i.order) } } : State)
  let t := (t.dropImages fun j => j.order = i.order).walksGo core
  (List.range 4).foldl (fun t q => t.queueSettle core q) t

/-- A saved image that fails its checks: its launch ends with a status (R407), once its atomics have been acknowledged (R297). -/
def State.badImage (s : State) (i : Img) (code : Nat) : State :=
  let s : State := { s.dropImages (fun j => j.order = i.order) with orphans := s.orphans ++ i.saved.wait }
  match i.saved.core.launch with
  | some l => s.addEnding l i.saved.hcore code 0 i.saved.wait
  | none => s

/-- IMAGE_RESTORE (R27, R407): the image chosen for a core is checked and restored, or its launch ends with the status of
the first failure. -/
def State.restoreImage (s : State) (core : Nat) : State :=
  match s.incoming.find? fun x => x.1 = core with
  | none => s
  | some x =>
    let gone : State := { s with incoming := s.incoming.filter fun y => y.1 != core }
    match x.2 with
    | .saved order =>
      (match gone.images.find? fun i => i.order = order with
        | some i => if gone.imageOk i then gone.restoreSaved i else gone.badImage i (s.imageFault i)
        | none => gone)
    | .fresh c =>
      match s.readImage c.vif c.asid c.image.toNat with
      | .wait => s
      | .bad code h => gone.addEnding (failedLaunch c h) core code 0 []
      | .ok h seg => gone.restoreFresh core c h seg

/-- IMAGE_RESTORE: the subject names the core. -/
def execImageRestore (s : State) : Out := .next (s.restoreImage s.subj.1)

end Sys2Proof.Machine
end

