-- ==== Sys2Proof/Machine/Events.lean ====
section
/-! DEFINITION. The steps of the ordering machine as meanings, late faults, services by firmware, and the events of the
lane engine and the Traverse (R39, R40, R43, R126, R137, R185, R190, R191, R194, R231, R263, R308, R342 to R344, R357, R363,
R395, R410, R453, R459). -/

namespace Sys2Proof.Machine

/-! ## The ordering machine (R39, R40, R43, R308) -/

/-- PERFORM (R40). -/
def execPerform (actor pos : Nat) (lanes : Mask) (s : State) : Out := .next (s.perform actor pos lanes)
/-- DRAIN. -/
def execDrain (actor uid : Nat) (s : State) : Out := .next (s.drain actor uid)
/-- FORWARD. -/
def execForward (dest : Nat) (s : State) : Out := .next (s.forward dest)
/-- APPLY. -/
def execApply (uid : Nat) (s : State) : Out := .next (s.applyEntry uid)
/-- FENCE_COMPLETE (R43). -/
def execFenceComplete (actor pos : Nat) (s : State) : Out := .next (s.fenceComplete actor pos)
/-- FILL. -/
def execFill (core asid line : Nat) (s : State) : Out := .next (s.fill core asid line)
/-- EVICT. -/
def execEvict (core asid line : Nat) (s : State) : Out := .next (s.evict core asid line)
/-- READ_RECORD (R308): the subject names the record. -/
def execReadRecord (s : State) : Out := .next (s.applyRecord s.subj.1)

/-- COMPRESSION_MERGE: the subject names the block by its number. -/
def execCompressionMerge (s : State) : Out := .next (s.mergeBlock s.subj.1)

/-! ## Late faults (R190) -/

/-- The arm that a late trap is taken in: the one whose fault was detected first, in the same cycle the one that holds the lowest
thread (R191). -/
def Tg.lateArm (t : Tg) : Bool :=
  let fs := t.late.filter fun o => o.cause != 0
  let first := fs.foldl (fun n o => Nat.min n o.cyc) ((fs.head?.map (·.cyc)).getD 0)
  match t.div, lowest ((fs.filter fun o => o.cyc = first).foldl (fun m o => m ||| o.lanes) 0) with
  | some d, some i => d.t.mask.getLsbD i
  | _, _ => true

/-- The replay entries with a fault of an arm's threads. -/
def Tg.armFaults (t : Tg) (arm : Bool) (reps : List Replay) : List Replay :=
  reps.filter fun r => r.ops.any fun o => o.cause != 0 && o.lanes &&& t.active arm != 0

/-- The frame of a late trap: the highest-ranked cause, the oldest among equals, the lowest thread with it, and everything
held (R190, R193, R315). -/
def lateInfo (core : Nat) (pc : DWord) (reps : List Replay) (r : Replay) : TrapInfo :=
  let tops := r.ops.filter fun o => o.cause = r.cause
  let low := (lowest (tops.foldl (fun m o => m ||| o.lanes) 0)).getD 0
  let o := tops.find? fun o => o.lanes.getLsbD low
  { cause := r.cause, fpc := r.ipc, pc, units := 1, lvec := r.lvec, late := true, replay := reps
    addr := match o with | some o => o.op.ea core low | none => r.addr
    carea := match o with | some o => o.race | none => [] }

/-- LATE_FAULT (R190): a group with a held fault and nothing else outstanding takes its frame. -/
def State.lateFault (s : State) (core slot : Nat) : State :=
  let t := s.tg core slot
  if !t.used || t.svc.isSome || s.busy (tgActor core slot) then s
  else
    let reps := mkReplays core t.late
    let arm := t.lateArm
    match (topReplay (t.armFaults arm reps)).orElse fun _ => topReplay reps with
    | none => s
    | some r => s.tgTrap core slot arm (lateInfo core (t.armPc arm) reps r)

/-- LATE_FAULT: the subject names the core and the slot. -/
def execLateFault (s : State) : Out := .next (s.lateFault s.subj.1 s.subj.2)

/-! ## Service by firmware (R137, R138, R191, R363, R395, R410) -/

/-- Causes of the Spur that firmware never serves: it ends the launch (R138, R141, R194, R459). -/
def spurFatal (cause : Nat) : Bool :=
  cause = cIllegalLength || cause = cIllegalEncoding || cause = cWrongEngine || cause = cCsrAccess || cause = cCsrValue ||
  cause = cBadOperand || cause = cBadRecord || cause = cTrap || cause = cXretState || cause = cTimingFail

/-- The Spur resumed at its frame's PC (R137). -/
def State.spurServe (s : State) (core : Nat) : State :=
  let p := (s.core core).spur
  match p.frame with
  | some f =>
    if p.run = .parkFault && !spurFatal f.cause then
      s.onSpur core fun p => { p with run := .run, pc := f.pc, frame := none
                                      halted := p.halted || p.haltReq, haltReq := false }
    else s
  | none => s

/-- A group resumed; one that failed in time is never resumed (R459). -/
def State.groupServe (s : State) (core slot : Nat) (skip : Bool) : State :=
  if (s.tg core slot).svc.any fun f => f.cause = cTimingFail then s else s.tgServe core slot skip State.writeHeld

/-- A group or the Spur that waits for service resumed. -/
def State.agentServe (s : State) (actor : Nat) (skip : Bool) : State :=
  if isDevActor actor then s
  else if lowOf actor < 0x80 then s.groupServe (coreOf actor) (lowOf actor) skip
  else if lowOf actor = 0x80 then s.spurServe (coreOf actor)
  else s

/-- The page that firmware maps as it serves a fault (R191, R257): `code` is 0 for none, else 1 plus the attributes in 9 bits,
and above them 0 for a zero-filled page, or 1 plus the ASID in 14 bits and the 64 KiB page that the new page is an alias of. -/
def State.serveMap (s : State) (asid va code : Nat) : State :=
  let attrs := BitVec.ofNat 9 ((code - 1) % 512)
  let v := va / attrSize attrs * attrSize attrs
  let canon := (code - 1) / 512
  if code = 0 || attrPx attrs || attrEw attrs = 3 || va ≥ 0x00FF000000000000 || s.drained? ||
      (pagesOf v (attrSize attrs)).any (s.isMapped asid) || (attrSz attrs && !bigFits (s.space asid).place v) then s
  else if canon = 0 then (s.mapPage asid v attrs).getD s
  else (s.mapAlias asid v attrs ((canon - 1) % 16384) ((canon - 1) / 16384 * 65536)).getD s

/-- The address of the fault that a group or the Spur awaits service of. -/
def State.serviceVa (s : State) (actor : Nat) : Option Nat :=
  let c := coreOf actor
  if lowOf actor < 0x80 then (s.tg c (lowOf actor)).svc.map (·.addr.toNat)
  else if (s.core c).spur.run = .parkFault then (s.core c).spur.frame.map (·.addr.toNat)
  else none

/-- Firmware's service of an agent: the page that it maps, and the agent resumed. -/
def State.serviceOf (s : State) (actor : Nat) (skip : Bool) (code : Nat) : State :=
  let s := match s.serviceVa actor with
    | some va => s.serveMap (s.asidOf (coreOf actor)) va code
    | none => s
  s.agentServe actor skip

/-- FAULT_SERVICE_RESUME (R191, R410). The subject names the actor; its second part holds below 2^32 twice the order of the saved
image that holds the actor, 0 for the resident one, plus 1 for a resume as XRET `.skip`, and above that the page that firmware
maps. -/
def execFaultServiceResume (s : State) : Out :=
  let n := s.subj.2 % 2 ^ 32 / 2
  let skip := s.subj.2 % 2 = 1
  let code := s.subj.2 / 2 ^ 32
  .next (if n = 0 then s.serviceOf s.subj.1 skip code else s.onImage n fun s => s.serviceOf s.subj.1 skip code)

/-- A slot whose faulted line is issued again. -/
def TSlot.again (line : Nat) (t : TSlot) : TSlot := { t with faults := t.faults.filter (· != line) }

/-- A context whose faulted line is issued again. -/
def Ctx.again (line : Nat) (x : Ctx) : Ctx :=
  let x := [false, true].foldl (fun x b => (List.range 4).foldl (fun x n => x.setSlot b n ((x.slot b n).again line)) x) x
  { x with maskFault := x.maskFault.filter fun va => va / 128 != line }

/-- A context without the faulted reads of a line, whose service firmware has declined. -/
def Ctx.lose (line : Nat) (x : Ctx) : Ctx :=
  [false, true].foldl (fun x b => (List.range 4).foldl (fun x n =>
    if (x.slot b n).faults.contains line then x.setSlot b n ((x.slot b n).lose line) else x) x) x

/-- A context that waits for a line. -/
def Ctx.waitsFor (x : Ctx) (line : Nat) : Bool :=
  x.maskFault.any (fun va => va / 128 = line) ||
  [false, true].any fun b => (List.range 4).any fun n => (x.slot b n).faults.contains line

/-- Firmware serves or declines a context's line (R363). -/
def State.ctxServe (s : State) (core i line : Nat) (serve : Bool) : State :=
  if !(s.ctx core i).waitsFor line || (serve && s.drained?) then s
  else if serve then (s.onCtx core i (·.again line)).walkGo core i
  else
    let t := s.cancelWalk core i 0x12
    (t.onCtx core i (·.lose line)).walkGo core i

/-- ENGINE_FAULT_SERVICE (R363, R395): `item` is the line number of the VA that faulted, and the subject holds the page that
firmware maps as it serves. -/
def execEngineFaultService (actor item : Nat) (d : Serve) (s : State) : Out :=
  let c := coreOf actor
  let k := lowOf actor
  let s := if d = .serve && !isDevActor actor then s.serveMap (s.asidOf c) (128 * item) s.subj.1 else s
  .next (
    if isDevActor actor then s
    else if k = 0x81 || k = 0x82 then s.ctxServe c (k - 0x81) item (d = .serve)
    else if 0x84 ≤ k && k < 0x88 then s.queueServe c (k - 0x84) item (d = .serve)
    else s)

/-! ## The lane engine (R126, R185, R231, R453) -/

/-- A group whose wave has come. -/
def Tg.waveDue (now barrier : Nat) (t : Tg) : Tg :=
  if t.wave = some barrier && t.wakeAt ≤ now then { t with wave := none } else t

/-- BARRIER_WAVE (R453): the subject names the core and the barrier. -/
def execBarrierWave (s : State) : Out :=
  let now := s.cyclesOf s.subj.1
  .next (s.onCore s.subj.1 fun c => { c with tgs := c.tgs.map fun p => (p.1, p.2.waveDue now s.subj.2) })

/-- FUSE_TIMEOUT (R231): the subject names the core and the slot. -/
def execFuseTimeout (s : State) : Out := .next (s.fuseTimeout s.subj.1 s.subj.2)

/-- STARVATION_BOOST (R126): a candidate that is no handler group and has not issued for 256 local cycles. -/
def State.boost (s : State) (core slot : Nat) : State :=
  let t := s.tg core slot
  if t.handler.isNone && s.tgCandidate core slot && t.readySince + 256 ≤ s.cyclesOf core then
    s.onTg core slot fun t => { t with boosted := true }
  else s

/-- STARVATION_BOOST: the subject names the core and the slot. -/
def execStarvationBoost (s : State) : Out := .next (s.boost s.subj.1 s.subj.2)

/-! ## The Traverse (R342 to R344, R357, R363) -/

/-- FETCH_LAND (R342): a line of a slot's fetch lands; with the last the slot is full. -/
def execFetchLand (core ctx : Nat) (opB : Bool) (slot line : Nat) (s : State) : Out :=
  .next (s.fetchLine core ctx opB slot line false)
/-- FETCH_FAULT (R363). -/
def execFetchFault (core ctx : Nat) (opB : Bool) (slot line : Nat) (s : State) : Out :=
  .next (s.fetchLine core ctx opB slot line true)
/-- STEP_START (R342, R344, R365): the context asks for what it may ask for now, such as a request that a saddle or another
engine's line held back, and starts its next step where that is ready. The subject names the core and the context. -/
def execStepStart (s : State) : Out :=
  let t := s.walkGo s.subj.1 s.subj.2
  .next (t.stepStart s.subj.1 s.subj.2)
/-- CHUNK_COMPLETE (R342). -/
def execChunkComplete (core ctx ksteps : Nat) (s : State) : Out := .next (s.chunkSteps core ctx ksteps)
/-- UPCALL_DISPATCH (R357): the subject names the core. -/
def execUpcallDispatch (s : State) : Out := .next (s.dispatch s.subj.1)

end Sys2Proof.Machine
end

