-- ==== Sys2Proof/Machine/Requests.lean ====
section
/-! DEFINITION. The requests that FRS serves but LOAD_IMAGE and DEBUG, and what an interface's reset does to saves in progress
(R117, R253, R257, R299, R312, R407, R408, R411, R416, R418 to R420, R422, R423, R426). A request that cannot be taken yet
changes nothing (log 62). -/

namespace Sys2Proof.Machine

/-! ## Replies (R418, R420) -/

/-- The 32 bytes of a reply. -/
def replyBytes (rq : Rq) (status r0 r1 : Nat) : List Byte :=
  leBytes 4 rq.tag.toNat ++ leBytes 4 status ++ leBytes 8 r0 ++ leBytes 8 r1 ++ leBytes 8 0

/-- A reply written to its VA as a host-port store with release at `.dev`. -/
def State.replyVa (s : State) (rq : Rq) (asid status r0 r1 : Nat) : State :=
  (s.devStore (portActor rq.via.port) asid rq.reply.toNat (replyBytes rq status r0 r1) 3 true).1

/-- A reply, with output bytes, sent back on the context that carried the request (R420). -/
def State.replyUet (s : State) (rq : Rq) (status r0 r1 : Nat) (out : List Byte) : State :=
  s.send (.reply rq.vif rq.via (replyBytes rq status r0 r1 ++ out))

/-! ## When a request is taken -/

/-- An earlier request of the interface has not ended: a reset, a STEP, another SCRUB, or a START that came before and waits (R418). -/
def State.vifBusy (s : State) (rq : Rq) : Bool :=
  s.resets.any (fun j => j.rq.vif = rq.vif) || s.stepJobs.any (fun j => j.rq.vif = rq.vif) ||
  s.scrubJobs.any (fun j => j.rq.vif = rq.vif && j.rq != rq) ||
  (s.frsHeld.find? fun h => h.1.vif = rq.vif).any fun h => h.1 != rq

/-- A context that a port has (R424). -/
def carrierOk (v : Carrier) : Bool := v.port < 8 && v.ctx < 4096

/-- What an ordered context delivered before has been acknowledged (R425). -/
def State.ordered (s : State) (v : Carrier) : Bool := !(v.rod && s.remotes.any fun r => r.via = v)

/-- A request comes from an interface and on a context that there are (R403, R424). -/
def rqOk (rq : Rq) : Bool := decide (rq.vif < 64) && carrierOk rq.via

/-- FRS takes a request: it came from an interface on a context, the interface's earlier ones have ended, and an ordered context's
earlier writes are done (R403, R418, R424, R425). -/
def State.frsTakes (s : State) (rq : Rq) : Bool := rqOk rq && !s.vifBusy rq && s.ordered rq.via

/-- FRS takes a request that works on memory: no saddle or drain holds it (R434). -/
def State.frsOpen (s : State) (rq : Rq) : Bool := s.frsTakes rq && !s.drained?

/-- A request that names no address space. -/
def onFrs (rq : Rq) (f : State → State) (s : State) : Out := .next (if s.frsOpen rq then f s else s)

/-- What a request answers: it waits, its arguments are bad, a rule's check fails, LOAD_IMAGE fails with a status of its own
(R111), a part of its effect has come about and it goes on, or it has its effect and results. -/
inductive ReqAns
  | wait
  | more (s : State)
  | bad
  | fail (rule : Nat)
  | failLoad (st : LoadStatus)
  | ok (s : State) (r0 r1 : Nat)

/-- The answer written to the reply VA (R419). -/
def State.answer (s : State) (rq : Rq) (asid : Nat) : ReqAns → State
  | .wait => s
  | .more t => t
  | .bad => s.replyVa rq asid 1 0 0
  | .fail rule => s.replyVa rq asid 2 rule 0
  | .failLoad st => s.replyVa rq asid (Config.loadStatus st).toNat 111 0
  | .ok t r0 r1 => t.replyVa rq asid 0 r0 r1

/-- An address space of the interface. -/
def State.owns (s : State) (vif asid : Nat) : Bool := (s.space asid).live && (s.space asid).vif = vif

/-- A request that names an address space of its interface; any other ASID is a bad argument, answered to the requester. -/
def onSpace (rq : Rq) (asid : BitVec 14) (f : State → ReqAns) (s : State) : Out :=
  onFrs rq (fun s => if s.owns rq.vif asid.toNat then s.answer rq asid.toNat (f s) else s.replyUet rq 1 0 0 []) s

/-- BAD_REQUEST (R418, R419): answered at the reply VA of the address space that it names, where that is the interface's. -/
def execBadRequest (r : BadRq) (s : State) : Out :=
  onFrs r.rq (fun s =>
    match r.asid.filter fun a => s.owns r.rq.vif a.toNat with
    | some a => s.answer r.rq a.toNat .bad
    | none => s.replyUet r.rq 1 0 0 []) s

/-! ## Address spaces (R312, R403, R419) -/

/-- The lowest ASID that is free. -/
def State.freeAsid (s : State) : Option Nat :=
  ((List.range (Nat.min 16383 (s.spaces.length + 1))).map (· + 1)).find? fun a => !(s.space a).live

/-- The address spaces of an interface. -/
def State.spacesOf (s : State) (vif : Nat) : List Nat := (s.spaces.filter fun p => p.2.live && p.2.vif = vif).map Prod.fst

/-- CREATE_AS (R403, R419). -/
def execCreateAs (rq : Rq) (psalt : Word) (s : State) : Out :=
  onFrs rq (fun s =>
    if (s.spacesOf rq.vif).length ≥ 256 then s.replyUet rq 2 403 0 []
    else
      match s.freeAsid, s.newTable with
      | some a, some (t, root) =>
        let sp : Space := { vif := rq.vif, root, psalt, live := true }
        { t with spaces := mset {} t.spaces a sp }.replyUet rq 0 a 0 []
      | _, _ => s.replyUet rq 2 419 0 []) s

/-- SET_CAIRN (R312). -/
def execSetCairn (rq : Rq) (asid : BitVec 14) (mode : BitVec 3) (s : State) : Out :=
  onSpace rq asid (fun s =>
    if mode.toNat = 0 || mode.toNat > 4 then .bad
    else .ok { s with spaces := mset {} s.spaces asid.toNat { s.space asid.toNat with cairn := mode.toNat } } 0 0) s

/-! ## Mappings (R419) -/

/-- A range of whole pages below 2^56. -/
def rangeOk (size : Nat) (va len : DWord) : Bool :=
  va.toNat % size = 0 && len.toNat % size = 0 && va.toNat + len.toNat ≤ 2 ^ 56

/-- A range that reaches into the domain window (R426). -/
def inWindowRange (va len : Nat) : Bool := len != 0 && 0x00FF000000000000 < va + len

/-- EW 3 is reserved. -/
def badEw (attrs : BitVec 9) : Bool := attrs.extractLsb' 2 2 == 3

/-- MAP (R253, R299, R407, R419, R426). -/
def execMap (rq : Rq) (asid : BitVec 14) (va len : DWord) (attrs : BitVec 9) (s : State) : Out :=
  onSpace rq asid (fun s =>
    let a := asid.toNat
    let n := attrSize attrs
    if !rangeOk n va len || badEw attrs then .bad
    else if attrPx attrs then .fail 407
    else if inWindowRange va.toNat len.toNat then .fail 426
    else if (pagesOf va.toNat len.toNat).any (s.isMapped a) then .fail 419
    else if attrSz attrs && (stepsOf n va.toNat len.toNat).any (fun v => !bigFits (s.space a).place v) then .fail 253
    else
      match s.mapRange a va.toNat len.toNat attrs with
      | none => .fail (if attrK attrs then 299 else 419)
      | some t => .ok t (len.toNat / n) 0) s

/-- A page that an alias shares may not become what R257 does not allow. -/
def State.aliasBad (s : State) (w : DWord) (attrs : BitVec 9) : Bool :=
  s.aliases.any (fun a => leafFrame w ≤ a.frame && a.frame < (leafPhys w + attrSize attrs) / 2 ^ 16) &&
  !aliasOk (leafAttrs w) attrs

/-- PROTECT (R251, R257, R299, R407, R419). -/
def execProtect (rq : Rq) (asid : BitVec 14) (va len : DWord) (attrs : BitVec 9) (s : State) : Out :=
  onSpace rq asid (fun s =>
    let a := asid.toNat
    let n := attrSize attrs
    let ps := stepsOf n va.toNat len.toNat
    let old (v : Nat) : DWord := s.leafOf a v
    if !rangeOk n va len || badEw attrs then .bad
    else if ps.any (fun v => !(old v).getLsbD 63 || attrSz (leafAttrs (old v)) != attrSz attrs) then .fail 419
    else if attrPx attrs && ps.any (fun v => attrPw attrs || !attrPx (leafAttrs (old v))) then .fail 407
    else if attrK attrs && ps.any (fun v => leafPhys (old v) % 2 ^ 29 ≥ 0x10000000) then .fail 299
    else if ps.any (fun v => s.aliasBad (old v) attrs) then .fail 257
    else if ps.any (fun v => s.inFlightAt (leafPhys (old v)) n) then .wait
    else
      match ps.foldlM (fun s v => s.protectPage a v attrs) s with
      | none => .fail 419
      | some t => .ok t ps.length 0) s

/-- UNMAP (R419). -/
def execUnmap (rq : Rq) (asid : BitVec 14) (va len : DWord) (s : State) : Out :=
  onSpace rq asid (fun s =>
    let a := asid.toNat
    let ms := (pagesOf va.toNat len.toNat).filter (s.isMapped a)
    let head (v : Nat) : Nat := if attrSz (leafAttrs (s.leafOf a v)) then v / 2 ^ 21 * 2 ^ 21 else v
    let size (v : Nat) : Nat := attrSize (leafAttrs (s.leafOf a v))
    if !rangeOk (2 ^ 16) va len then .bad
    else if ms.any (fun v => head v < va.toNat || va.toNat + len.toNat < head v + size v) then .fail 419
    else
      let hs := ms.filter fun v => head v = v
      if hs.any (fun v => s.inFlightAt (leafPhys (s.leafOf a v)) (size v)) then .wait
      else .ok (hs.foldl (fun s v => s.unmapPage a v) s) hs.length 0) s

/-! ## The placement table (R253) -/

/-- An entry of a placement table, from its two words. -/
def placeEnt (lo hi : DWord) : PlaceEnt where
  start := fieldNat lo 0 40
  limit := fieldNat hi 24 40
  mode := fieldNat hi 0 2
  ch := fieldNat hi 6 10

/-- An entry that FRS refuses. -/
def State.placeBad (s : State) (lo hi : DWord) : Bool :=
  let e := placeEnt lo hi
  fieldNat lo 40 24 != 0 || fieldNat hi 2 4 != 0 || fieldNat hi 16 8 != 0 || e.mode = 3 || !s.corePresent e.ch ||
  (e.mode = 1 && e.start ≤ e.limit && (e.start % 32 != 0 || (e.limit + 1) % 32 != 0))

/-- PLACE (R253). A fault of the table's read answers with the rule that names the fault (log 63). -/
def execPlace (rq : Rq) (asid : BitVec 14) (tab : DWord) (s : State) : Out :=
  onSpace rq asid (fun s =>
    let a := asid.toNat
    match s.frontBytes a 34 tab.toNat 4096 with
    | .wait => .wait
    | .fault c _ _ => .fail (if c = cMemError then 289 else 255)
    | .ok bs s =>
      let ws := (List.range 256).map fun i => (quadAt bs (16 * i), quadAt bs (16 * i + 8))
      let l := (ws.map fun w => placeEnt w.1 w.2).filter fun e => e.start ≤ e.limit
      if ws.any (fun w => s.placeBad w.1 w.2) then .fail 253
      else if (s.mappedPages a).any (fun p => attrSz (leafAttrs p.2) && !bigFits l p.1) then .fail 253
      else if (s.mappedPages a).any (fun p => s.inFlightAt (leafPhys p.2) (attrSize (leafAttrs p.2))) then .wait
      else
        match s.loadPlace a l with
        | none => .fail 419
        | some t => .ok t 0 0) s

/-! ## START (R121, R407, R408) -/

/-- The time of a START request since it entered FRS (R471). -/
def State.heldTime (s : State) (rq : Rq) : Accounts :=
  ((s.frsHeld.find? fun h => h.1 = rq).map Prod.snd).getD { submit := s.refTime }

/-- A START request that waits in FRS: it has entered when it first came. -/
def State.holdStart (s : State) (rq : Rq) : State :=
  if !rqOk rq || s.frsHeld.any fun h => h.1 = rq then s else { s with frsHeld := s.frsHeld ++ [(rq, s.heldTime rq)] }

/-- A START request that FRS has served. -/
def State.leaveFrs (s : State) (rq : Rq) : State := { s with frsHeld := s.frsHeld.filter fun h => h.1 != rq }

/-- What START answers: the image joins its interface's queue once it has passed the checks of R407. -/
def State.startAns (s : State) (rq : Rq) (asid : BitVec 14) (hdr : DWord) (core : BitVec 10) (staddr ctr : DWord) (ccinc : Word) :
    ReqAns :=
  let a := asid.toNat
  let k := core.toNat
  if (k != 0x3FF && !s.computeCore k) || hdr.toNat % 64 != 0 || hdr.toNat ≥ 2 ^ 56 || staddr.toNat % 8 != 0 || ctr.toNat % 8 != 0
    then .bad
  else
    match s.frontBytes a 2 hdr.toNat 128 with
    | .wait => .wait
    | .fault _ _ _ => .fail 407
    | .ok bs s =>
      if !s.headerOk rq.vif a bs then .fail 407
      else
        let c : Card := { vif := rq.vif, asid := a, prio := (Header.ofBytes bs).prio, image := hdr, args := [], staddr
                          ccaddr := ctr, ccinc := ccinc.toNat, core := if k = 0x3FF then none else some k
                          order := s.nextOrder, acct := s.heldTime rq }
        .ok { s.leaveFrs rq with starts := s.starts ++ [c], nextOrder := s.nextOrder + 1 } 0 0

/-- START. -/
def execStart (rq : Rq) (asid : BitVec 14) (hdr : DWord) (core : BitVec 10) (staddr ctr : DWord) (ccinc : Word) (s : State) :
    Out :=
  .next (
    if !s.frsOpen rq then s.holdStart rq
    else if !s.owns rq.vif asid.toNat then (s.leaveFrs rq).replyUet rq 1 0 0 []
    else
      match s.startAns rq asid hdr core staddr ctr ccinc with
      | .wait => s.holdStart rq
      | r => (s.leaveFrs rq).answer rq asid.toNat r)

/-! ## Scrubs and attestation (R416, R422, R423) -/

/-- Bytes that the spec does not give, by kind and number. -/
def freeBytes (kind n len : Nat) : List Byte := (List.range len).map fun i => Config.freeByte kind (n * len + i)

/-- The place where a SCRUB request goes on, and the time at which it began. -/
def State.scrubJob (s : State) (rq : Rq) : ScrubJob := (s.scrubJobs.find? fun j => j.rq = rq).getD ⟨rq, (0, 0), s.refTime⟩

/-- The other SCRUB requests. -/
def State.otherScrubs (s : State) (rq : Rq) : List ScrubJob := s.scrubJobs.filter fun j => j.rq != rq

/-- SCRUB (R416): a line of the list is cleared a turn; the result is the time taken (log 64). -/
def execScrub (rq : Rq) (asid : BitVec 14) (list : DWord) (count : BitVec 13) (s : State) : Out :=
  onSpace rq asid (fun s =>
    let j := s.scrubJob rq
    let ns := s.refTime - j.since
    let ended (t : State) : State := { t with scrubJobs := t.otherScrubs rq }
    if count.toNat > 4096 || list.toNat % 16 != 0 then .bad
    else
      match s.scrubNext asid.toNat count.toNat list.toNat j.at_ with
      | .wait => .wait
      | .fault c va t =>
        .ok ((ended t).post { core := 191, actor := frontActor, cause := c, addr := BitVec.ofNat 64 va, vif := rq.vif
                              asid := asid.toNat }) ns 0
      | .more t p => .more { t with scrubJobs := t.otherScrubs rq ++ [{ j with at_ := p }] }
      | .done => .ok (ended s) ns 0) s

/-- The 512 bytes of an attestation record; the digests of firmware and fuses are free values (log 65). -/
def State.attestation (s : State) (vif : Nat) (nonce : List Byte) : List Byte :=
  let v := mget {} s.vifs vif
  padTo 512 (leBytes 4 0x54535441 ++ leBytes 2 1 ++ leBytes 1 vif ++ leBytes 1 0 ++ leBytes 8 s.caps.toNat ++ leBytes 8 v.nimg ++
    leBytes 8 s.refTime ++ padTo 32 nonce ++ freeBytes 0 0 32 ++ freeBytes 1 0 32 ++ freeBytes 2 0 32 ++ padTo 32 v.chain ++
    padTo 32 v.last)

/-- The signature of an attestation record under the device identity key, over the SHA-256 digest of its 512 bytes (R421 to R423). -/
def attestSignature (r : List Byte) : List Byte := rsaSign (sha256 r) Config.identityKey

/-- ATTEST: the record and its signature return with the reply. -/
def execAttest (rq : Rq) (nonce : List Byte) (s : State) : Out :=
  onFrs rq (fun s => let r := s.attestation rq.vif nonce; s.replyUet rq 0 0 0 (r ++ attestSignature r)) s

/-! ## Peer grants (R426) -/

/-- PEER_GRANT. -/
def execPeerGrant (rq : Rq) (dev : BitVec 8) (srcAsid asid : BitVec 14) (base limit : DWord) (s : State) : Out :=
  onSpace rq asid (fun s =>
    if !s.hasPeer then .fail 426
    else if base.toNat ≥ 2 ^ 56 || base.toNat + limit.toNat > 0x00FF000000000000 then .bad
    else
      let g : Grant := ⟨dev.toNat, srcAsid.toNat, asid.toNat, base.toNat, limit.toNat⟩
      .ok { s with grants := g :: s.grants.filter fun x => !(x.dev = g.dev && x.srcAsid = g.srcAsid) } 0 0) s

/-! ## Resets (R411, R419) -/

/-- A launch that a reset takes. -/
def ResetJob.takes (j : ResetJob) (vif asid : Nat) : Bool := match j.asid with | some a => asid = a | none => vif = j.rq.vif

/-- Queued images and job cards that a reset discards, and saved images; atomics that had drained stand (R411). -/
def State.discard (s : State) (j : ResetJob) : State :=
  let gone (c : Card) : Bool := j.takes c.vif c.asid
  let img (i : Img) : Bool := match i.saved.core.launch with | some l => j.takes l.vif l.asid | none => false
  { s.dropImages img with
    cores := s.cores.map fun p => (p.1, { p.2 with pend := p.2.pend.filter fun c => !gone c })
    clq := s.clq.filter fun e => !gone e.2
    starts := s.starts.filter fun c => !gone c
    incoming := s.incoming.filter fun x =>
      match x.2 with | .fresh c => !gone c | .saved o => !(s.images.any fun i => i.order = o && img i)
    orphans := s.orphans ++ (s.images.filter img).flatMap fun i => i.saved.wait }

/-- REQ with WHY 2 on every launch that a reset takes (R411 step 1). -/
def State.raiseAll (s : State) (j : ResetJob) : State :=
  (s.cores.filter fun p => match p.2.launch with | some l => j.takes l.vif l.asid | none => false).foldl
    (fun s p => s.raiseReq p.1 2 0) s

/-- A reset begun: it ends once its launches have been saved and discarded. -/
def State.beginReset (s : State) (j : ResetJob) : State :=
  let s := (s.raiseAll j).discard j
  { s with resets := s.resets ++ [j] }

/-- No launch that a reset takes is resident, and none still has its completion to write. -/
def State.resetDone (s : State) (j : ResetJob) : Bool :=
  s.cores.all (fun p => match p.2.launch with | some l => !j.takes l.vif l.asid | none => true) &&
  s.endings.all fun e => !j.takes e.launch.vif e.launch.asid

/-- A reset's end: Cairn pages scrubbed, address spaces freed, and the reply. -/
def State.endReset (s : State) (j : ResetJob) : State :=
  let s := s.discard j
  match j.asid with
  | some a => (s.freeSpace a).replyVa j.rq a 0 0 0
  | none =>
    let s := (s.spacesOf j.rq.vif).foldl State.freeSpace s
    ({ s with vifs := mset {} s.vifs j.rq.vif {} } : State).replyUet j.rq 0 0 0 []

/-- The resets that can end now, in order. -/
def State.resetsGo (s : State) : State :=
  s.resets.foldl (fun s j => if s.resetDone j then { s with resets := s.resets.filter (· != j) }.endReset j else s) s

/-- RESET_VIF (R411). -/
def execResetVif (rq : Rq) (s : State) : Out := onFrs rq (fun s => (s.beginReset ⟨rq, none⟩).resetsGo) s

/-- DESTROY_AS (R419). -/
def execDestroyAs (rq : Rq) (asid : BitVec 14) (s : State) : Out :=
  onFrs rq (fun s =>
    if s.owns rq.vif asid.toNat then (s.beginReset ⟨rq, some asid.toNat⟩).resetsGo else s.replyUet rq 1 0 0 []) s

/-! ## The image is written (R28, R133, R134, R411) -/

/-- A save's end, once no saddle holds the image's stores (R447): the image is written to firmware memory, once that has room for it,
and joins its interface's queue (R406), or is discarded by a reset. -/
def State.imageWrite (s : State) (core : Nat) : State :=
  if !s.imageReady core || s.drained? then s
  else
    match (s.core core).saving with
    | none => s
    | some v =>
      let (t, img) := s.takeImage core v
      let taken := match img.saved.core.launch with
        | some l => t.resets.any fun j => j.takes l.vif l.asid
        | none => false
      if taken then
        ({ t with
            orphans := t.orphans ++ img.saved.wait
            ring := { t.ring with marked := t.ring.marked.filter fun m => m.image != img.order } } : State).resetsGo
      else match t.freeRun 0 imageFrames false with
        | some f => t.putImage f img
        | none => s

/-- IMAGE_WRITE: the subject names the core. -/
def execImageWrite (s : State) : Out := .next (s.imageWrite s.subj.1)

end Sys2Proof.Machine
end

