-- ==== Sys2Proof/Machine/Tof.lean ====
section
/-! DEFINITION. LOAD_IMAGE: the TOF file, its checks and its loading
(R103 to R107, R109 to R111, R405, R419 to R421, R423). -/

namespace Sys2Proof.Machine

/-! ## The file (R103 to R107) -/

/-- A section entry (R105). -/
structure TofSect where
  type : Nat
  flags : Nat
  link : Nat
  align : Nat
  name : Nat
  size : Nat
  offset : Nat
  deriving DecidableEq, Repr

/-- The section entry in 32 bytes. -/
def TofSect.ofBytes (bs : List Byte) : TofSect where
  type := fieldAt bs 0 2
  flags := fieldAt bs 2 2
  link := fieldAt bs 4 4
  align := fieldAt bs 8 4
  name := fieldAt bs 12 4
  size := fieldAt bs 16 8
  offset := fieldAt bs 24 8

/-- A symbol entry (R106). -/
structure TofSym where
  rsv : Nat
  bind : Nat
  kind : Nat
  sect : Nat
  aux : Nat
  name : Nat
  value : Nat
  deriving DecidableEq, Repr

/-- The symbol entry in 24 bytes. -/
def TofSym.ofBytes (bs : List Byte) : TofSym where
  rsv := fieldAt bs 0 4
  bind := fieldAt bs 4 1
  kind := fieldAt bs 5 1
  sect := fieldAt bs 6 2
  aux := fieldAt bs 8 4
  name := fieldAt bs 12 4
  value := fieldAt bs 16 8

/-- A TOF file: its bytes with the tables of its header (R104). -/
structure Tof where
  bytes : List Byte
  sects : List TofSect
  syms : List TofSym
  strsec : Nat
  deriving DecidableEq, Repr

/-- The file's tables as its header places them. -/
def Tof.ofBytes (bs : List Byte) : Tof where
  bytes := bs
  sects := (List.range (fieldAt bs 16 2)).map fun i => .ofBytes (bs.drop (fieldAt bs 8 8 + 32 * i))
  syms := (List.range (fieldAt bs 20 4)).map fun i => .ofBytes (bs.drop (fieldAt bs 24 8 + 24 * i))
  strsec := fieldAt bs 18 2

/-- The tables that the header names lie inside the file. -/
def tofTables (bs : List Byte) : Bool :=
  32 ≤ bs.length && fieldAt bs 8 8 + 32 * fieldAt bs 16 2 ≤ bs.length && fieldAt bs 24 8 + 24 * fieldAt bs 20 4 ≤ bs.length

/-- A power of two from 2^0 to 2^31. -/
def isPow2 (n : Nat) : Bool := (List.range 32).any fun k => n = 2 ^ k

/-- The contents of a section lie inside the file, and its fields are as R105 allows in a linked image. -/
def TofSect.ok (len : Nat) (x : TofSect) : Bool :=
  1 ≤ x.type && x.type ≤ 11 && x.type != 10 && x.flags = 0 && x.link = 0 && isPow2 x.align && x.offset + x.size ≤ len

/-- AUX of a symbol: a kernel's register count; a handler's ID or `auto`, width and register count; 0 in any other (R106). -/
def TofSym.auxOk (x : TofSym) : Bool :=
  let w := x.aux / 2 ^ 8 % 2 ^ 8
  let regs := x.aux / 2 ^ 16 % 2 ^ 9
  if x.kind = 3 then 8 ≤ x.aux && x.aux ≤ 256
  else if x.kind = 4 then (x.aux % 256 ≤ 15 || x.aux % 256 = 255) && x.aux < 2 ^ 25 && (w = 16 || w = 32 || w = 64) && 8 ≤ regs && regs ≤ 256
  else x.aux = 0

/-- A symbol's fields are as R106 allows. -/
def TofSym.ok (sects : Nat) (x : TofSym) : Bool :=
  x.rsv = 0 && x.bind ≤ 1 && x.kind ≤ 7 && (x.sect ≤ sects || x.sect = 0xFFFF) && x.auxOk

/-- The entries of a file's tables are as R105 to R107 allow, with one signature section of 384 bytes (R109, R110; log 86). -/
def Tof.ok (t : Tof) : Bool :=
  t.sects.all (·.ok t.bytes.length) && t.syms.all (·.ok t.sects.length) && t.strsec ≤ t.sects.length &&
  (t.sects.filter fun x => x.type = 11).all (fun x => x.size = 384) && (t.sects.filter fun x => x.type = 11).length = 1 &&
  (t.sects.filter fun x => x.type = 8).all fun x => x.size % 64 = 0

/-- Check 1 of R111 on a file. -/
def tofOk (bs : List Byte) : Bool :=
  tofTables bs && fieldAt bs 0 4 = 0x31464F54 && fieldAt bs 4 2 = 1 && fieldAt bs 6 2 = 2 && (Tof.ofBytes bs).ok

/-- The contents of a section. -/
def Tof.contents (t : Tof) (x : TofSect) : List Byte := (t.bytes.drop x.offset).take x.size

/-- The signature is a key's that FRS accepts, over the digest of the file with its signature section zero (R110, R421). -/
def Tof.signatureOk (t : Tof) : Bool :=
  match t.sects.find? fun x => x.type = 11 with
  | some x =>
    let digest := sha256 (t.bytes.take x.offset ++ List.replicate x.size 0 ++ t.bytes.drop (x.offset + x.size))
    frsKeys.any (rsaSigned digest (t.contents x))
  | none => false

/-! ## Image descriptors (R107) -/

/-- The 64-byte descriptors of a file, in order. -/
def Tof.descs (t : Tof) : List (List Byte) :=
  (t.sects.filter fun x => x.type = 8).flatMap fun x =>
    (List.range (x.size / 64)).map fun i => ((t.contents x).drop (64 * i)).take 64

/-- Handler symbols of a file. -/
def Tof.handlers (t : Tof) : Nat := (t.syms.filter fun y => y.kind = 4).length

/-- A descriptor's reserved fields are zero and its other fields as R107 gives them, with `nhdl` handler symbols in the file. -/
def descFieldsOk (nhdl : Nat) (d : List Byte) : Bool :=
  (d.drop 32).all (· == 0) && fieldAt d 27 1 = 0 && fieldAt d 26 1 ≤ 7 && fieldAt d 25 1 = nhdl && 1 ≤ fieldAt d 24 1 &&
  fieldAt d 24 1 ≤ 32 && fieldAt d 20 4 = 0 && fieldAt d 16 4 % 128 = 0 && fieldAt d 16 4 ≤ 524288

/-! ## Link VAs (R103, R109) -/

/-- The sections that are mapped, in the order of R109, with their index. -/
def Tof.loaded (t : Tof) : List (Nat × TofSect) :=
  let l := (List.range t.sects.length).zip t.sects
  [1, 2, 3, 4, 5, 6, 7].flatMap fun k => (l.filter fun p => p.2.type = k && p.2.size != 0).map fun p => (p.1 + 1, p.2)

/-- The pages that bytes take. -/
def pagesFor (n : Nat) : Nat := (n + 65535) / 65536

/-- Sections with their VAs from a link base: each begins on a page. -/
def layFrom : Nat → List (Nat × TofSect) → List (Nat × Nat × TofSect)
  | _, [] => []
  | va, (i, x) :: l => (va, i, x) :: layFrom (va + 65536 * pagesFor x.size) l

/-- A link base agrees with every descriptor and every symbol of a mapped section. -/
def Tof.fits (t : Tof) (base : Nat) : Bool :=
  let l := layFrom base t.loaded
  t.descs.all (fun d => l.any fun p => p.2.2.type = 1 && p.1 ≤ fieldAt d 0 8 && fieldAt d 0 8 < p.1 + p.2.2.size) &&
  t.descs.all (fun d => fieldAt d 16 4 = 0 || l.any fun p => p.2.2.type = 7 && p.1 = fieldAt d 8 8) &&
  t.syms.all fun y => (match l.find? fun p => p.2.1 = y.sect with
    | some p => p.2.2.type = 7 || (p.1 ≤ y.value && y.value ≤ p.1 + p.2.2.size)
    | none => true)

/-- The link base, which the file does not hold (log 66): R109's default where it agrees, else the one that the first
descriptor's Spur entry gives. -/
def Tof.base (t : Tof) : Nat :=
  let d := 0x0000010000000000
  if t.fits d then d
  else
    let e := fieldAt (t.descs.headD []) 0 8 / 65536
    let n := pagesFor ((t.loaded.filter fun p => p.2.type = 1).foldl (fun n p => n + p.2.size) 0)
    (((List.range n).map fun k => 65536 * (e - k)).find? t.fits).getD d

/-- PR, PW and PX of a section type (R103), as attributes; the pages that hold `.scratch`'s bytes in the image are read-only
(DESIGN CHOICE, log 89). -/
def sectAttrs (type : Nat) : BitVec 9 := if type ≤ 3 then 0b010100000 else if type = 6 then 0b011000000 else 0b010000000

/-! ## Loading (R111 steps 4 and 5) -/

/-- Bytes mapped at a page boundary, by pages. -/
def State.mapBytes (s : State) (asid : Nat) (attrs : BitVec 9) : Nat → Nat → List Byte → Option State
  | 0, _, _ => some s
  | n + 1, va, bs =>
    match s.mapPage asid va attrs with
    | none => none
    | some s => (s.physWrite (leafPhys (s.leafOf asid va)) (bs.take 65536)).mapBytes asid attrs n (va + 65536) (bs.drop 65536)

/-- The header of a fresh image built from a descriptor (R405). -/
def headerBytes (vif asid : Nat) (d : List Byte) : List Byte :=
  let w1 : BitVec 64 := 0#11 ++ BitVec.ofNat 5 (fieldAt d 28 4) ++ BitVec.ofNat 8 (fieldAt d 24 1) ++ 0#6 ++ 0x3FF#10 ++ 0#2 ++
    BitVec.ofNat 6 vif ++ 0#2 ++ BitVec.ofNat 14 asid
  padTo 128 (leBytes 4 0x31474D49 ++ leBytes 2 1 ++ leBytes 1 0 ++ leBytes 1 (fieldAt d 26 1) ++ leBytes 8 w1.toNat ++
    leBytes 8 (fieldAt d 0 8) ++ leBytes 8 (fieldAt d 8 8) ++ leBytes 4 (fieldAt d 20 4) ++ leBytes 4 (fieldAt d 16 4) ++
    leBytes 8 0 ++ leBytes 8 1)

/-- The pages of a layout: of its sections, then of its headers. -/
def Tof.pages (lay : List (Nat × Nat × TofSect)) (hdr n : Nat) : List Nat :=
  (lay.flatMap fun p => (List.range (pagesFor p.2.2.size)).map fun i => p.1 + 65536 * i) ++
    (List.range (pagesFor (128 * n))).map fun i => hdr + 65536 * i

/-- Everything mapped: the sections with their contents, and the headers. -/
def State.loadTof (s : State) (vif asid : Nat) (t : Tof) (lay : List (Nat × Nat × TofSect)) (hdr : Nat) : Option State := do
  let s ← lay.foldlM (fun s p =>
    s.mapBytes asid (sectAttrs p.2.2.type) (pagesFor p.2.2.size) p.1 (t.contents p.2.2)) s
  s.mapBytes asid (sectAttrs 4) (pagesFor (128 * t.descs.length)) hdr (t.descs.flatMap (headerBytes vif asid))

/-- An interface's record of a loaded image (R423). -/
def VifInfo.load (v : VifInfo) (bs : List Byte) : VifInfo :=
  let d := sha256 bs
  { nimg := v.nimg + 1, chain := sha256 (padTo 32 v.chain ++ d), last := d }

/-- LOAD_IMAGE's checks and effect on the file's bytes (R111). Frames or table pages that run out after the checks answer as MAP
does (DESIGN CHOICE, log 52). A file one of whose sections or header pages would end inside the domain window, which no page can
be mapped in (R426), answers LAYOUT_CONFLICT (DESIGN CHOICE, log 100: step 4 names only pages already mapped). -/
def State.loadImage (s : State) (vif asid : Nat) (bs : List Byte) : ReqAns :=
  if !tofOk bs then .failLoad .badTof
  else
    let t := Tof.ofBytes bs
    if !t.descs.all (descFieldsOk t.handlers) then .failLoad .badTof
    else if !t.signatureOk then .failLoad .badSignature
    else if t.descs.any (fun d => fieldAt d 28 4 &&& (31 - (s.caps.extractLsb' 0 5).toNat) != 0 || fieldAt d 28 4 > 31) then .failLoad .capsMissing
    else
      let lay := layFrom t.base t.loaded
      let hdr := lay.foldl (fun _ p => p.1 + 65536 * pagesFor p.2.2.size) t.base
      let ps := Tof.pages lay hdr t.descs.length
      if ps.any fun v => s.isMapped asid v || v + 65536 > 0x00FF000000000000 then .failLoad .layoutConflict
      else
        match s.loadTof vif asid t lay hdr with
        | none => .fail 419
        | some s => .ok { s with vifs := mset {} s.vifs vif ((mget {} s.vifs vif).load bs) } hdr t.descs.length

/-- LOAD_IMAGE. -/
def execLoadImage (rq : Rq) (asid : BitVec 14) (va len : DWord) (s : State) : Out :=
  onSpace rq asid (fun s =>
    match s.frontBytes asid.toNat (len.toNat / 128 + 2) va.toNat len.toNat with
    | .wait => .wait
    | .fault c _ _ => .fail (if c = cMemError then 289 else 255)
    | .ok bs s => s.loadImage rq.vif asid.toNat bs) s

end Sys2Proof.Machine
end

