-- ==== Sys2Proof/Machine/Debug.lean ====
section
/-! DEFINITION. The DEBUG request, the in-flight table, samples, and trigger lines driven from a pin or by firmware
(R194, R195, R463 to R470). -/

namespace Sys2Proof.Machine

/-! ## Targets (R468) -/

/-- A target that a halt, resume or step can name: a whole core, a group or a Spur. -/
def State.targetOk (s : State) (t : DbgTarget) : Bool :=
  s.corePresent t.core.toNat && (t.low.toNat ≤ 0x80 || t.low.toNat = 0xFF)

/-- A DEBUG request on a target; another target is a bad argument. -/
def onTarget (rq : Rq) (ok : Bool) (f : State → State) (s : State) : Out :=
  .next (if !s.frsTakes rq then s else if ok then f s else s.replyUet rq 1 0 0 [])

/-! ## HALT and RESUME (R195, R468) -/

/-- A halt of a target. -/
def Core.haltAt (c : Core) (low : Nat) : Core :=
  if low = 0xFF then c.halt
  else if low = 0x80 then { c with spur := { c.spur with halted := true } }
  else { c with tgs := mset {} c.tgs low ((c.tg low).halt c.csr.hih) }

/-- HALT. -/
def execHalt (rq : Rq) (t : DbgTarget) (s : State) : Out :=
  onTarget rq (s.targetOk t) (fun s => (s.onCore t.core.toNat (·.haltAt t.low.toNat)).replyUet rq 0 0 0 []) s

/-- A group that is no longer halted. -/
def Tg.unhalt (t : Tg) : Tg := { t with halted := false, haltReq := false }
/-- A Spur that is no longer halted. -/
def Spur.unhalt (p : Spur) : Spur := { p with halted := false, haltReq := false }

/-- A target's agents are no longer halted. -/
def Core.unhaltAt (c : Core) (low : Nat) : Core :=
  if low = 0xFF then { c with haltAll := false, spur := c.spur.unhalt, tgs := c.tgs.map fun p => (p.1, p.2.unhalt) }
  else if low = 0x80 then { c with spur := c.spur.unhalt }
  else { c with tgs := mset {} c.tgs low (c.tg low).unhalt }

/-- An agent that a BKPT stopped, resumed as XRET does (R468). -/
def State.breakServe (s : State) (core low : Nat) : State :=
  if low = 0x80 then
    (if (s.core core).spur.frame.any fun f => f.cause = cBreakpoint then s.spurServe core else s)
  else if (s.tg core low).svc.any fun f => f.cause = cBreakpoint then s.tgServe core low false State.writeHeld
  else s

/-- The agents that a target names. -/
def State.agentsOf (s : State) (core low : Nat) : List Nat :=
  if low = 0xFF then (s.core core).tgs.map Prod.fst ++ [0x80] else [low]

/-- RESUME. -/
def execResume (rq : Rq) (t : DbgTarget) (s : State) : Out :=
  onTarget rq (s.targetOk t) (fun s =>
    let c := t.core.toNat
    let s := (s.agentsOf c t.low.toNat).foldl (fun s k => s.breakServe c k) s
    (s.onCore c (·.unhaltAt t.low.toNat)).replyUet rq 0 0 0 []) s

/-! ## STEP (R469) -/

/-- An agent that a halt or a BKPT has stopped. -/
def State.isHalted (s : State) (core low : Nat) : Bool :=
  if low = 0x80 then
    let p := (s.core core).spur
    p.halted || (p.run = .parkFault && p.frame.any fun f => f.cause = cBreakpoint)
  else
    let t := s.tg core low
    t.used && (t.halted || t.svc.any fun f => f.cause = cBreakpoint)

/-- An agent that may issue one instruction and stays halted. -/
def State.letStep (s : State) (core low : Nat) : State :=
  let s := s.breakServe core low
  if low = 0x80 then s.onSpur core fun p => { p with halted := true, stepReq := true }
  else s.onTg core low fun t => { t with halted := true, stepReq := true }

/-- STEP: it is answered when the agent has issued, or by STEP_NOT_ISSUED. -/
def execStep (rq : Rq) (t : DbgTarget) (s : State) : Out :=
  let c := t.core.toNat
  let k := t.low.toNat
  onTarget rq (s.targetOk t && k != 0xFF && s.isHalted c k) (fun s =>
    let s := s.letStep c k
    { s with stepJobs := s.stepJobs ++ [⟨rq, c * 256 + k, s.cyclesOf c⟩] }) s

/-- An agent whose step is taken back. -/
def State.endStep (s : State) (actor : Nat) : State :=
  if lowOf actor = 0x80 then s.onSpur (coreOf actor) fun p => { p with stepReq := false }
  else s.onTg (coreOf actor) (lowOf actor) fun t => { t with stepReq := false }

/-- STEP_NOT_ISSUED (R469): status 3 after 4096 local cycles. -/
def State.stepLate (s : State) (actor : Nat) : State :=
  match s.stepJobs.find? fun j => j.actor = actor with
  | some j =>
    if j.since + 4096 ≤ s.cyclesOf (coreOf actor) then
      ({ s.endStep actor with stepJobs := s.stepJobs.filter (· != j) } : State).replyUet j.rq 3 0 0 []
    else s
  | none => s

/-- STEP_NOT_ISSUED: the subject names the actor. -/
def execStepNotIssued (s : State) : Out := .next (s.stepLate s.subj.1)

/-! ## INFLIGHT (R470) -/

/-- An in-flight entry. -/
structure Flight where
  actor : Nat
  kind : Nat
  state : Nat
  detail : Nat
  spc : DWord
  seq : DWord
  addr : DWord
  deriving DecidableEq, Repr

/-- The 32 bytes of an entry. -/
def Flight.bytes (f : Flight) : List Byte :=
  let w : BitVec 64 := BitVec.ofNat 18 f.actor ++ BitVec.ofNat 6 f.kind ++ BitVec.ofNat 4 f.state ++ 0#4 ++ BitVec.ofNat 32 f.detail
  leBytes 8 w.toNat ++ leBytes 8 f.spc.toNat ++ leBytes 8 f.seq.toNat ++ leBytes 8 f.addr.toNat

/-- DETAIL of a memory item. -/
def flightDetail (o : RepOp) (lanes : Mask) : Nat := o.dest.toNat * 65536 + lanes.toNat

/-- STATE of an access at a place: on the way, parked on a presence bit or a recall, or held by the saddle. -/
def State.flightState (s : State) (actor : Nat) (p : Place) : Nat :=
  let owned := match s.loc actor .rd p with | .ok l => s.ownedByOther actor l | .error _ => false
  if s.bitWaits (coreOf actor) p || owned then 1
  else match p with | .scr _ _ => 0 | _ => if s.drained? then 3 else 0

/-- The memory item of an operation. -/
def flightOf (core : Nat) (o : RepOp) (state : Nat) : Flight :=
  let m : Mask := LateOp.lanes ⟨o, 0, [], false, [], 0, 0⟩
  let low := (lowest m).getD 0
  { actor := o.acc.actor, kind := o.kind, state, detail := flightDetail o m, spc := o.acc.spc, seq := o.acc.seq, addr := o.ea core low }

/-- The place that an operation's item names. -/
def RepOp.place : RepOp → Place
  | .load l => (l.lanes.head?.map LoadLane.place).getD (.glob 0 0)
  | .entry e => e.place

/-- The memory items of an actor; those that have faulted are held until their replay, also while a handler runs. -/
def State.memFlights (s : State) (actor : Nat) : List Flight :=
  let x := s.actor actor
  let core := coreOf actor
  let live := x.loads.map RepOp.load ++ (x.storeQ ++ s.drained actor ++ (s.answered actor).map Done.e).map RepOp.entry
  let frame := if lowOf actor < 0x80 then ((s.tg core (lowOf actor)).frame.map Frame.heldOps).getD [] else []
  let late := s.heldOps actor ++ frame
  live.map (fun o => flightOf core o (s.flightState actor o.place)) ++ late.map fun o => flightOf core o.op 2

/-- The item of an access that has not issued because its line's presence bit is clear: `kind` 1 load, 2 store, 3 atomic. -/
def State.parkedItem (s : State) (core slot : Nat) (arm : Bool) (h : Hd) (kind : Nat) (d : Dst) (f : Nat → Addr) : List Flight :=
  let t := s.tg core slot
  let m := t.acting arm h
  if t.armPark arm != .presence || !s.parked core m f then []
  else
    let at_ := (lowest m).getD 0
    [{ actor := tgActor core slot, kind, state := 1, detail := (d.spec .lane).toNat * 65536 + m.toNat, spc := t.spc, seq := t.seq
       addr := (f at_).seen core }]

/-- The parked access of a group's arm, read from the instruction at its PC. -/
def State.tgParkedItem (s : State) (core slot : Nat) (arm : Bool) : List Flight :=
  let t := s.tg core slot
  if !s.tgOpen core slot arm then []
  else match s.tgNow core slot arm with
  | .go (.ld h _ _ d a b) _ => s.parkedItem core slot arm h 1 d fun i => s.globAddr core h a b t i
  | .go (.lds h _ _ d a b) _ => s.parkedItem core slot arm h 1 d fun i => scrAddr core h a b t i
  | .go (.st h _ _ d a b) _ => s.parkedItem core slot arm h 2 d fun i => s.globAddr core h a b t i
  | .go (.sts h _ _ d a b) _ => s.parkedItem core slot arm h 2 d fun i => scrAddr core h a b t i
  | .go (.atoms h _ _ _ d a _) _ => s.parkedItem core slot arm h 3 d fun i => scrAddr core h a (.imm 0) t i
  | _ => []

/-- The Spur's access that has not issued because its line's presence bit is clear. -/
def State.spurParkedItem (s : State) (core : Nat) : List Flight :=
  let p := (s.core core).spur
  let item (kind : Nat) (h : Hd) (d : Dst) (ea : DWord) : List Flight :=
    if p.guard h && s.bitWaits core (s.eaOf core ea).place then
      [{ actor := spurActor core, kind, state := 1, detail := (d.spec .spur).toNat * 65536 + 1, spc := p.pc, seq := 0, addr := ea }]
    else []
  if !s.spurOpen core then []
  else match s.spurNow core with
  | .go (.sld h _ _ d a b) _ => item 1 h d (p.src h.lit a + p.src h.lit b)
  | .go (.sst h _ _ d a b) _ => item 2 h (.main d) (p.src h.lit a + p.src h.lit b)
  | .go (.samo h _ _ _ d a _ _) _ => item 3 h d (p.src h.lit a)
  | _ => []

/-- The accesses of a core that have not issued because a line's presence bit is clear. -/
def State.parkedFlights (s : State) (core : Nat) : List Flight :=
  ((s.core core).tgs.map Prod.fst).flatMap (fun k => s.tgParkedItem core k true ++ s.tgParkedItem core k false) ++
    s.spurParkedItem core

/-- The items of a context: slots that have not landed, banks in use, and upcalls. -/
def State.walkFlights (s : State) (core i : Nat) : List Flight :=
  let x := s.ctx core i
  let c := s.core core
  let item (kind state detail n : Nat) : Flight :=
    { actor := travActor core i, kind, state, detail, spc := x.spc, seq := x.cseq, addr := BitVec.ofNat 64 n }
  let slots := [false, true].flatMap fun b => ((List.range 4).filter fun n => (x.slot b n).st = 1 || (x.slot b n).st = 3).map fun n =>
    let t := x.slot b n
    item 4 (if t.st = 3 then 4 else if !t.faults.isEmpty then 2 else if s.drained? then 3 else 0) (if b then 1 else 0) n
  let banks := ((List.range 2).filter fun n => (x.bank n).st != 0).map fun n => item 5 (if (x.bank n).st = 1 then 5 else 0) 0 n
  let waiting := (c.queued i).map fun u => item 7 4 0 u.slot
  let running := (c.running i).map fun n =>
    item 7 (if n.slots.any fun k => (s.tg core k).svc.isSome then 2 else 5) 0 n.up.slot
  slots ++ banks ++ waiting ++ running

/-- The item of a queue's command. -/
def State.copyFlights (s : State) (core q : Nat) : List Flight :=
  let x := s.queue core q
  if x.pend.isNone && x.cmd.isNone then []
  else
    let st := match s.queueState core q with | 2 => 1 | 3 => 2 | 4 => 3 | _ => if x.cmd.isSome then 5 else 4
    [{ actor := queueActor core q, kind := 6, state := st, detail := x.ending.getD 0, spc := x.spc, seq := x.seq
       addr := BitVec.ofNat 64 x.ridx }]

/-- The in-flight table of a core: memory items by actor, then the accesses that wait at a presence bit, then the contexts, then
the queues (log 67). -/
def State.flights (s : State) (core : Nat) : List Flight :=
  ((s.actors.map Prod.fst).filter fun a => coreOf a = core).flatMap s.memFlights ++
    s.parkedFlights core ++
    [0, 1].flatMap (s.walkFlights core) ++ [0, 1, 2, 3].flatMap (s.copyFlights core)

/-- INFLIGHT. -/
def execInflight (rq : Rq) (t : DbgTarget) (most : DWord) (s : State) : Out :=
  onTarget rq (s.corePresent t.core.toNat) (fun s =>
    let l := s.flights t.core.toNat
    let out := l.take most.toNat
    s.replyUet rq 0 out.length (l.length - out.length) (out.flatMap Flight.bytes)) s

/-! ## ROUTE and CTL (R463, R467) -/

/-- ROUTE. -/
def execRoute (rq : Rq) (line : BitVec 5) (entry : DWord) (s : State) : Out :=
  onTarget rq (entry &&& 0x3FF0FFC0FFFFFE00 == 0) (fun s =>
    { s with routes := mset 0 s.routes line.toNat entry }.replyUet rq 0 0 0 []) s

/-- CTL: the value passes the checks of a CSRW by the core's Spur. -/
def execCtl (rq : Rq) (t : DbgTarget) (val : DWord) (s : State) : Out :=
  onTarget rq (s.corePresent t.core.toNat) (fun s =>
    match s.csrWrite (s.spurUser t.core.toNat) 0xA0 val with
    | .ok t => t.replyUet rq 0 0 0 []
    | .error _ => s.replyUet rq 1 0 0 []) s

/-! ## Trigger lines (R467) -/

/-- The source bit of a drive from outside the programs: the package pin, or firmware. -/
def outerSrc (pin : Bool) : Nat := if pin then 7 else 8

/-- TRIGGER_ASSERT. -/
def execTriggerAssert (line : Nat) (pin : Bool) (s : State) : Out :=
  .next (if line < 32 && s.lineOn line && s.lineSrc line (outerSrc pin) then s.assertLine line else s)

/-- TRIGGER_DEASSERT: a level line that a pin or firmware may drive, or the end of a pulse; the subject names the line. -/
def execTriggerDeassert (s : State) : Out :=
  let n := s.subj.1
  .next (if n < 32 && s.lineOn n && (!(s.route n).getLsbD 62 || s.lineSrc n 7 || s.lineSrc n 8) then s.deassertLine n else s)

/-! ## Samples (R465) -/

/-- The ready agents of a core by actor low byte; the Spur where no group is resident. -/
def State.sampleable (s : State) (core : Nat) : List Nat :=
  let ks := ((s.core core).tgs.map Prod.fst).filter fun k => s.tgCandidate core k
  let p := match s.spurReady core with | .no => [] | _ => [0x80]
  if (s.residents core).isEmpty then [0x80] else ks ++ p

/-- The agent next after one, in ascending order. -/
def nextAfter (last : Nat) (l : List Nat) : Option Nat := (l.find? fun k => last < k).orElse fun _ => l.head?

/-- The SAMPLE record of an agent. -/
def State.sampleRecord (s : State) (core k : Nat) : State :=
  if k = 0x80 then
    let pc := (s.core core).spur.pc
    s.trace core 2 (spurActor core) pc 0 pc.toNat 0
  else
    let t := s.tg core k
    let arm := s.tgOpen core k true || t.div.isNone
    s.trace core 2 (tgActor core k) t.spc t.seq (t.armPc arm).toNat (t.live.toNat * 65536 + (t.active arm).toNat)

/-- The sampling period of a core in local cycles; 0 where it is disabled. -/
def Csrs.samplePeriod (c : Csrs) : Nat := if fieldNat c.dbgctl 24 4 = 0 then 0 else 2 ^ (fieldNat c.dbgctl 24 4 + 5)

/-- The end of the latest sampling period that has ended: periods run on from the resume instant, sampled or not (log 44). -/
def Core.periodEnd (c : Core) (now : Nat) : Nat := now - (now - c.lastSample) % c.csr.samplePeriod

/-- TRACE_SAMPLE. -/
def State.sample (s : State) (core : Nat) : State :=
  let c := s.core core
  let n := c.csr.samplePeriod
  if n = 0 || s.cyclesOf core < c.lastSample + n then s
  else
    let s := s.onCore core fun c => { c with lastSample := c.periodEnd (s.cyclesOf core) }
    match nextAfter c.sampled (s.sampleable core) with
    | some k => (s.sampleRecord core k).onCore core fun c => { c with sampled := k }
    | none => s

/-- TRACE_SAMPLE: the subject names the core. -/
def execTraceSample (s : State) : Out := .next (s.sample s.subj.1)

end Sys2Proof.Machine
end

