-- ==== Sys2Proof/Machine/LaneFloat.lean ====
section
/-! DEFINITION. The lane float instructions, conversions and block quantisation (R206 to R221). -/

namespace Sys2Proof.Machine

/-- The format of FT (R207). -/
def ftFmt (t : Ft) : Fmt := match t with | .f32 => fp32 | .f16 => fp16 | .bf16 => bf16
/-- The element format of PF (R207). -/
def pfFmt (t : Pf) : Fmt := match t with | .f16x2 => fp16 | .bf16x2 => bf16

/-- A source's bits in a format: 32 or the low 16. -/
def fBits (h : Hd) (f : Fmt) (g : Tg) (i : Nat) (x : Src) : Nat :=
  let b := (g.src32 h.lit i x).toNat
  if f.eb + f.fb = 31 then b else b % 65536

/-- `Read(X)` (R207): subnormals read as zero under DAZ. -/
def fRead (h : Hd) (f : Fmt) (fp : DWord) (g : Tg) (i : Nat) (x : Src) : FV := FV.ofBits f (fpDaz fp) (fBits h f g i x)

/-- Element `e` of a packed source, read under DAZ (R213). -/
def pRead (h : Hd) (f : Fmt) (fp : DWord) (g : Tg) (i e : Nat) (x : Src) : FV :=
  FV.ofBits f (fpDaz fp) ((g.src32 h.lit i x).toNat / 2 ^ (16 * e) % 65536)

/-- The rounding control that an instruction samples. -/
def fpCtl (fp : DWord) (t : Nat) : RCtl := { mode := fpRm fp, ftz := fpFtz fp, t }

/-- Whether exact zero sums are negative: RDN. -/
def fpRdn (fp : DWord) : Bool := fpRm fp = .rdn

/-- A pattern as a register value. -/
def bitsD (n : Nat) : DWord := BitVec.ofNat 64 n

/-- A rounded scalar operation from its exact value and flags (R208, R213). -/
def fpArith (fm : Fmt) (op : DWord → Tg → Nat → FV × FFlags) (h : Hd) (units : Nat) (d : Dst) (s : State) : Out :=
  laneFloat h units false d fpIsSr (fun fp g _ i => fm.discard (op fp g i).1)
    (fun fp g mix i =>
      let (x, fl) := op fp g i
      let (r, fr) := fm.round (fpCtl fp (mix 0)) x
      (bitsD r, fl ||| fr)) s

/-- FADD's, FSUB's or FMUL's exact value (R208). -/
def fpTwo (op : Bool → FV → FV → FV × FFlags) (h : Hd) (units : Nat) (ft : Ft) (d : Dst) (a b : Src) (s : State) : Out :=
  fpArith (ftFmt ft) (fun fp g i => op (fpRdn fp) (fRead h (ftFmt ft) fp g i a) (fRead h (ftFmt ft) fp g i b)) h units d s

/-- The exact difference. -/
def fvSub (rdn : Bool) (a b : FV) : FV × FFlags := FV.add rdn a b.negate
/-- The exact product. -/
def fvMul (_ : Bool) (a b : FV) : FV × FFlags := a.mul b

/-- FMIN or FMAX (R209): no rounding, and FTZ does not apply. -/
def fpMinMax (mx : Bool) (h : Hd) (units : Nat) (ft : Ft) (d : Dst) (a b : Src) (s : State) : Out :=
  laneFloat h units false d (fun _ => false) (fun _ _ _ _ => 0)
    (fun fp g _ i =>
      let x := fRead h (ftFmt ft) fp g i a
      let y := fRead h (ftFmt ft) fp g i b
      (bitsD ((ftFmt ft).exact (FV.minMax mx x y)), x.sigFlag ||| y.sigFlag)) s

/-- A packed operation: each half rounds by itself (R213). -/
def fpPacked (op : DWord → Tg → Nat → Nat → FV × FFlags) (h : Hd) (units : Nat) (pf : Pf) (d : Dst) (s : State) : Out :=
  let fm := pfFmt pf
  laneFloat h units false d fpIsSr (fun fp g e i => fm.discard (op fp g e i).1)
    (fun fp g mix i =>
      let half (e : Nat) : Nat × FFlags :=
        let (x, fl) := op fp g e i
        let (r, fr) := fm.round (fpCtl fp (mix e)) x
        (r, fl ||| fr)
      (bitsD ((half 1).1 * 65536 + (half 0).1), (half 0).2 ||| (half 1).2)) s

/-- A packed operation of two sources. -/
def fpPackedTwo (op : Bool → FV → FV → FV × FFlags) (h : Hd) (units : Nat) (pf : Pf) (d : Dst) (a b : Src) (s : State) : Out :=
  fpPacked (fun fp g e i => op (fpRdn fp) (pRead h (pfFmt pf) fp g i e a) (pRead h (pfFmt pf) fp g i e b)) h units pf d s

/-- Whether a float comparison holds (R210). -/
def fcHolds (fc : Fc) (a b : FV) : Bool :=
  if a.isNan || b.isNan then (match fc with | .ne | .un => true | _ => false)
  else
    match fc, a.compare b with
    | .eq, .eq | .ne, .lt | .ne, .gt | .lt, .lt | .le, .lt | .le, .eq | .gt, .gt | .ge, .gt | .ge, .eq | .ord, _ => true
    | _, _ => false

/-- The mode of FRND (R211). -/
def rmsMode (r : Rms) (fp : DWord) : Rm :=
  match r with | .dyn => fpRm fp | .rne => .rne | .rtz => .rtz | .rup => .rup | .rdn => .rdn

/-- A special function of a thread (R214, R215): only RCP and SQRT round. -/
def fpSpecial (k : SfKind) (h : Hd) (units : Nat) (d : Dst) (a : Src) (s : State) : Out :=
  laneFloat h units false d (fun fp => fpIsSr fp && (k = .rcp || k = .sqrt))
    (fun fp g _ i => sfDiscard k (g.src32 h.lit i a) (fpDaz fp))
    (fun fp g mix i =>
      let (r, fl) := sfEval k (fpCtl fp (mix 0)) (g.src32 h.lit i a) (fpDaz fp)
      (bitsD r, fl)) s

/-! ## CVT (R216, R217) -/

/-- A conversion type: a float format, or an integer with its bounds and read width. -/
inductive CvtTy
  | flt (f : Fmt)
  | int (lo hi : Int)
  deriving DecidableEq, Repr

/-- The meaning of a type code (R216). -/
def cvtTy (c : Cvt) : CvtTy :=
  match c with
  | .f32 => .flt fp32
  | .f16 => .flt fp16
  | .bf16 => .flt bf16
  | .e4m3 => .flt e4m3
  | .e5m2 => .flt e5m2
  | .s32 => .int (-2147483648) 2147483647
  | .z32 => .int 0 4294967295
  | .s8 => .int (-128) 127

/-- The source value of CVT (R216, R217): 8-bit floats keep subnormals. -/
def cvtRead (c : Cvt) (daz : Bool) (w : Word) : FV :=
  match c with
  | .f32 => .ofBits fp32 daz w.toNat
  | .f16 => .ofBits fp16 daz (w.toNat % 65536)
  | .bf16 => .ofBits bf16 daz (w.toNat % 65536)
  | .e4m3 => .ofBits e4m3 false (w.toNat % 256)
  | .e5m2 => .ofBits e5m2 false (w.toNat % 256)
  | .s32 => .ofInt w.toInt
  | .z32 => .ofInt w.toNat
  | .s8 => .ofInt (w.setWidth 8).toInt

/-- Whether a type is an integer. -/
def cvtIsInt (c : Cvt) : Bool := match c with | .s32 | .z32 | .s8 => true | _ => false

/-- The discard word of a conversion (R62). -/
def cvtDiscard (dt : Cvt) (x : FV) : Nat := match cvtTy dt with | .flt f => f.discard x | .int _ _ => intDiscard x

/-- The result and flags of a conversion (R217). Integer pairs saturate without a flag. -/
def cvtEval (dt st : Cvt) (c : RCtl) (x : FV) : DWord × FFlags :=
  match cvtTy dt with
  | .flt f => let (r, fl) := f.round c x; (bitsD r, fl)
  | .int lo hi =>
    let (v, fl) := x.toInt c lo hi
    (BitVec.ofInt 64 v, if cvtIsInt st then 0 else fl)

/-- CVT's mode: STOCH or the sampled one (R217). -/
def cvtCtl (sat sr : Bool) (fp : DWord) (t : Nat) : RCtl :=
  { mode := if sr then .sr else fpRm fp, ftz := fpFtz fp, sat, t }

/-! ## Blocks (R218 to R221) -/

/-- Element `e` of a thread's pair of block inputs, read under DAZ (R218). -/
def qfRead (h : Hd) (qf : Qf) (fp : DWord) (g : Tg) (i e : Nat) (a : Src) : FV :=
  match qf with
  | .f32 => .ofBits fp32 (fpDaz fp) ((g.src64 h.lit i a).extractLsb' (32 * e) 32).toNat
  | .bf16x2 => pRead h bf16 fp g i e a

/-- The magnitude of a value, a NaN counting as 0 (R219). -/
def fvMag (x : FV) : FV :=
  match x with | .nan _ => .zero | .inf _ => .inf false | .fin _ m e => .fin false m e

/-- The larger of two magnitudes. -/
def fvMax (a b : FV) : FV := if a.compare b = .lt then b else a

/-- The scale byte of a source (R220). -/
def scaleByte (h : Hd) (g : Tg) (i : Nat) (b : Src) : Nat := (g.src32 h.lit i b).toNat % 256

/-- FADD (R208). -/
def execFadd (h : Hd) (ft : Ft) (d : Dst) (a b : Src) (s : State) : Out :=
  fpTwo FV.add h (hdLen h) ft d a b s

/-- FADD, compact form (R80). -/
def execFaddCompact (p : BitVec 3) (pn : Bool) (d a : BitVec 8) (s : State) : Out :=
  fpTwo FV.add (cHd p pn) 1 .f32 (.main d) (.main a) .l0 s

/-- FSUB (R208). -/
def execFsub (h : Hd) (ft : Ft) (d : Dst) (a b : Src) (s : State) : Out :=
  fpTwo fvSub h (hdLen h) ft d a b s

/-- FSUB, compact form (R80). -/
def execFsubCompact (p : BitVec 3) (pn : Bool) (d a : BitVec 8) (s : State) : Out :=
  fpTwo fvSub (cHd p pn) 1 .f32 (.main d) (.main a) .l0 s

/-- FMUL (R208). -/
def execFmul (h : Hd) (ft : Ft) (d : Dst) (a b : Src) (s : State) : Out :=
  fpTwo fvMul h (hdLen h) ft d a b s

/-- FMUL, compact form (R80). -/
def execFmulCompact (p : BitVec 3) (pn : Bool) (d a : BitVec 8) (s : State) : Out :=
  fpTwo fvMul (cHd p pn) 1 .f32 (.main d) (.main a) .l0 s

/-- FFMA (R208): one rounding. -/
def execFfma (h : Hd) (ft : Ft) (d : Dst) (a b c : Src) (s : State) : Out :=
  fpArith (ftFmt ft)
    (fun fp g i =>
      FV.fma (fpRdn fp) (fRead h (ftFmt ft) fp g i a) (fRead h (ftFmt ft) fp g i b) (fRead h (ftFmt ft) fp g i c))
    h (hdLen h) d s

/-- FMIN (R209). -/
def execFmin (h : Hd) (ft : Ft) (d : Dst) (a b : Src) (s : State) : Out :=
  fpMinMax false h (hdLen h) ft d a b s

/-- FMIN, compact form (R80). -/
def execFminCompact (p : BitVec 3) (pn : Bool) (d a : BitVec 8) (s : State) : Out :=
  fpMinMax false (cHd p pn) 1 .f32 (.main d) (.main a) .l0 s

/-- FMAX (R209). -/
def execFmax (h : Hd) (ft : Ft) (d : Dst) (a b : Src) (s : State) : Out :=
  fpMinMax true h (hdLen h) ft d a b s

/-- FMAX, compact form (R80). -/
def execFmaxCompact (p : BitVec 3) (pn : Bool) (d a : BitVec 8) (s : State) : Out :=
  fpMinMax true (cHd p pn) 1 .f32 (.main d) (.main a) .l0 s

/-- FCMP (R210). -/
def execFcmp (h : Hd) (ft : Ft) (fc : Fc) (d : Dst) (a b : Src) (s : State) : Out :=
  laneFloat h (hdLen h) false d (fun _ => false) (fun _ _ _ _ => 0)
    (fun fp g _ i =>
      let x := fRead h (ftFmt ft) fp g i a
      let y := fRead h (ftFmt ft) fp g i b
      (if fcHolds fc x y then 1 else 0, x.sigFlag ||| y.sigFlag)) s

/-- FRND (R211): never NX. -/
def execFrnd (h : Hd) (ft : Ft) (rms : Rms) (d : Dst) (a : Src) (s : State) : Out :=
  laneFloat h (hdLen h) false d (fun fp => rmsMode rms fp = .sr)
    (fun fp g _ i => intDiscard (fRead h (ftFmt ft) fp g i a))
    (fun fp g mix i =>
      let x := fRead h (ftFmt ft) fp g i a
      (bitsD ((ftFmt ft).exact (x.integral { mode := rmsMode rms fp, t := mix 0 })), x.sigFlag)) s

/-- FCLASS (R212): the raw input. -/
def execFclass (h : Hd) (ft : Ft) (d : Dst) (a : Src) (s : State) : Out :=
  laneFloat h (hdLen h) false d (fun _ => false) (fun _ _ _ _ => 0)
    (fun _ g _ i => (bitsD ((ftFmt ft).classMask (fBits h (ftFmt ft) g i a)), 0)) s

/-- F2ADD (R213). -/
def execF2add (h : Hd) (pf : Pf) (d : Dst) (a b : Src) (s : State) : Out :=
  fpPackedTwo FV.add h (hdLen h) pf d a b s

/-- F2ADD, compact form (R80). -/
def execF2addCompact (p : BitVec 3) (pn : Bool) (d a : BitVec 8) (s : State) : Out :=
  fpPackedTwo FV.add (cHd p pn) 1 .f16x2 (.main d) (.main a) .l0 s

/-- F2MUL (R213). -/
def execF2mul (h : Hd) (pf : Pf) (d : Dst) (a b : Src) (s : State) : Out :=
  fpPackedTwo fvMul h (hdLen h) pf d a b s

/-- F2MUL, compact form (R80). -/
def execF2mulCompact (p : BitVec 3) (pn : Bool) (d a : BitVec 8) (s : State) : Out :=
  fpPackedTwo fvMul (cHd p pn) 1 .f16x2 (.main d) (.main a) .l0 s

/-- F2FMA (R213). -/
def execF2fma (h : Hd) (pf : Pf) (d : Dst) (a b c : Src) (s : State) : Out :=
  fpPacked
    (fun fp g e i =>
      FV.fma (fpRdn fp) (pRead h (pfFmt pf) fp g i e a) (pRead h (pfFmt pf) fp g i e b) (pRead h (pfFmt pf) fp g i e c))
    h (hdLen h) pf d s

/-- FDOT2 (R213): one exact sum of two products and an FP32 value. -/
def execFdot2 (h : Hd) (pf : Pf) (d : Dst) (a b c : Src) (s : State) : Out :=
  fpArith fp32
    (fun fp g i =>
      let (x, f) := (pRead h (pfFmt pf) fp g i 0 a).mul (pRead h (pfFmt pf) fp g i 0 b)
      let (y, k) := (pRead h (pfFmt pf) fp g i 1 a).mul (pRead h (pfFmt pf) fp g i 1 b)
      let (z, l) := FV.sum (fpRdn fp) [x, y, fRead h fp32 fp g i c]
      (z, f ||| k ||| l))
    h (hdLen h) d s

/-- RCP (R214, R215). -/
def execRcp (h : Hd) (d : Dst) (a : Src) (s : State) : Out := fpSpecial .rcp h (hdLen h) d a s

/-- RCP, compact form (R80). -/
def execRcpCompact (p : BitVec 3) (pn : Bool) (d a : BitVec 8) (s : State) : Out :=
  fpSpecial .rcp (cHd p pn) 1 (.main d) (.main a) s

/-- RSQ (R214, R215). -/
def execRsq (h : Hd) (d : Dst) (a : Src) (s : State) : Out := fpSpecial .rsq h (hdLen h) d a s

/-- RSQ, compact form (R80). -/
def execRsqCompact (p : BitVec 3) (pn : Bool) (d a : BitVec 8) (s : State) : Out :=
  fpSpecial .rsq (cHd p pn) 1 (.main d) (.main a) s

/-- SQRT (R214, R215). -/
def execSqrt (h : Hd) (d : Dst) (a : Src) (s : State) : Out := fpSpecial .sqrt h (hdLen h) d a s

/-- SQRT, compact form (R80). -/
def execSqrtCompact (p : BitVec 3) (pn : Bool) (d a : BitVec 8) (s : State) : Out :=
  fpSpecial .sqrt (cHd p pn) 1 (.main d) (.main a) s

/-- EXP2 (R214, R215). -/
def execExp2 (h : Hd) (d : Dst) (a : Src) (s : State) : Out := fpSpecial .exp2 h (hdLen h) d a s

/-- EXP2, compact form (R80). -/
def execExp2Compact (p : BitVec 3) (pn : Bool) (d a : BitVec 8) (s : State) : Out :=
  fpSpecial .exp2 (cHd p pn) 1 (.main d) (.main a) s

/-- LOG2 (R214, R215). -/
def execLog2 (h : Hd) (d : Dst) (a : Src) (s : State) : Out := fpSpecial .log2 h (hdLen h) d a s

/-- LOG2, compact form (R80). -/
def execLog2Compact (p : BitVec 3) (pn : Bool) (d a : BitVec 8) (s : State) : Out :=
  fpSpecial .log2 (cHd p pn) 1 (.main d) (.main a) s

/-- SIN (R214, R215). -/
def execSin (h : Hd) (d : Dst) (a : Src) (s : State) : Out := fpSpecial .sin h (hdLen h) d a s

/-- SIN, compact form (R80). -/
def execSinCompact (p : BitVec 3) (pn : Bool) (d a : BitVec 8) (s : State) : Out :=
  fpSpecial .sin (cHd p pn) 1 (.main d) (.main a) s

/-- COS (R214, R215). -/
def execCos (h : Hd) (d : Dst) (a : Src) (s : State) : Out := fpSpecial .cos h (hdLen h) d a s

/-- COS, compact form (R80). -/
def execCosCompact (p : BitVec 3) (pn : Bool) (d a : BitVec 8) (s : State) : Out :=
  fpSpecial .cos (cHd p pn) 1 (.main d) (.main a) s

/-- TANH (R214, R215). -/
def execTanh (h : Hd) (d : Dst) (a : Src) (s : State) : Out := fpSpecial .tanh h (hdLen h) d a s

/-- TANH, compact form (R80). -/
def execTanhCompact (p : BitVec 3) (pn : Bool) (d a : BitVec 8) (s : State) : Out :=
  fpSpecial .tanh (cHd p pn) 1 (.main d) (.main a) s

/-- CVT (R216, R217). -/
def execCvt (h : Hd) (dt st : Cvt) (sat sr : Bool) (d : Dst) (a : Src) (s : State) : Out :=
  laneFloat h (hdLen h) false d (fun fp => sr || fpIsSr fp)
    (fun fp g _ i => cvtDiscard dt (cvtRead st (fpDaz fp) (g.src32 h.lit i a)))
    (fun fp g mix i => cvtEval dt st (cvtCtl sat sr fp (mix 0)) (cvtRead st (fpDaz fp) (g.src32 h.lit i a))) s

/-- QPACK (R220). -/
def execQpack (h : Hd) (qf : Qf) (d : Dst) (a b : Src) (s : State) : Out :=
  laneFloat h (hdLen h) false d fpIsSr
    (fun fp g e i =>
      let sc := scaleByte h g i b
      quantDiscard (sc / 64) (sc % 64) (qfRead h qf fp g i e a))
    (fun fp g mix i =>
      let sc := scaleByte h g i b
      let q (e : Nat) : Nat × FFlags := quantise (sc / 64) (sc % 64) (fpCtl fp (mix e)) (qfRead h qf fp g i e a)
      (bitsD ((q 1).1 * 16 + (q 0).1), (q 0).2 ||| (q 1).2)) s

/-- QUNPK (R221): always exact. -/
def execQunpk (h : Hd) (qf : Qf) (d : Dst) (a b : Src) (s : State) : Out :=
  laneFloat h (hdLen h) (qf = .f32) d (fun _ => false) (fun _ _ _ _ => 0)
    (fun _ g _ i =>
      let sc := scaleByte h g i b
      let x := (g.src32 h.lit i a).toNat
      let v (e : Nat) : FV := blockValue (sc / 64) (x / 2 ^ (4 * e) % 16) (sc % 64)
      (match qf with
        | .f32 => bitsD (fp32.exact (v 1) * 2 ^ 32 + fp32.exact (v 0))
        | .bf16x2 => bitsD (bf16.exact (v 1) * 65536 + bf16.exact (v 0)), 0)) s

/-- QSCALE (R219): one scale byte for the contributing threads' block, to every thread or once to a group register. -/
def execQscale (h : Hd) (qf : Qf) (bt : Bt) (d : Dst) (a : Src) (s : State) : Out :=
  onLane (hdLen h) s fun c k arm =>
    let t := s.tg c k
    let m := t.contrib arm h.pred h.pn
    let vals := (lanesOf m).flatMap fun i =>
      [fvMag (qfRead h qf t.fpctl t i 0 a), fvMag (qfRead h qf t.fpctl t i 1 a)]
    let code : Nat := match bt with | .uint => 0 | .e2m1 => 1 | .pow2 => 2 | .hyb => 3
    let byte := qscaleByte code (vals.foldl fvMax .zero)
    s.tgDone c k arm (hdLen h)
      (if m = 0 then t else t.putTg false (s.nextPos (tgActor c k)) m d (bitsD byte))

end Sys2Proof.Machine
end

