-- ==== Sys2Proof/Machine/LaneCross.lean ====
section
/-! DEFINITION. The cross-lane instructions (R199, R222 to R226). -/

namespace Sys2Proof.Machine

/-- The source thread of SHFL for thread `i` with operand `b` (R223), before the replacement of R199. -/
def shflSrc (sm : Sm) (i b : Nat) : Nat :=
  match sm with
  | .idx => b
  | .up => if b ≤ i then i - b else i
  | .down => if i + b ≤ 15 then i + b else i
  | .xor => i ^^^ (b % 16)

/-- SHFL (R223): every source is read before any destination is written. -/
def execShfl (h : Hd) (sm : Sm) (d : Dst) (a b : Src) (s : State) : Out :=
  onLane (hdLen h) s fun c k arm =>
    let t := s.tg c k
    let m := t.contrib arm h.pred h.pn
    let errs := (lanesOf m).filterMap fun i =>
      if sm = .idx && (t.src32 h.lit i b).toNat > 15 then some (i, cArith) else none
    if !errs.isEmpty then s.tgLanes c k arm (hdLen h) errs fun _ => 0
    else
      let src (i : Nat) : Nat :=
        let j := shflSrc sm i (t.src32 h.lit i b).toNat
        if (t.active arm).getLsbD j then j else i
      s.tgDone c k arm (hdLen h)
        (t.putLanes false (s.nextPos (tgActor c k)) m d fun i => (t.src32 h.lit (src i) a).setWidth 64)

/-- VOTE's result (R224). -/
def voteResult (vm : Vm) (m : Mask) (test : Nat → Bool) : DWord :=
  let l := lanesOf m
  match vm with
  | .all => if l.all test then 1 else 0
  | .any => if l.any test then 1 else 0
  | .eq => if l.all test || l.all (fun i => !test i) then 1 else 0
  | .ballot => (maskOf fun i => m.getLsbD i && test i).setWidth 64

/-- VOTE (R224). -/
def execVote (h : Hd) (vm : Vm) (d : Dst) (a : Src) (s : State) : Out :=
  onLane (hdLen h) s fun c k arm =>
    let t := s.tg c k
    let m := t.contrib arm h.pred h.pn
    s.tgDone c k arm (hdLen h)
      (if m = 0 then t
       else t.putTg false (s.nextPos (tgActor c k)) m d (voteResult vm m fun i => t.src32 h.lit i a != 0))

/-- The integer combination of a reduction, with its identity (R225). -/
def ropInt (r : Rop) : Option (Word × (Word → Word → Word)) :=
  match r with
  | .add => some (0, (· + ·))
  | .smin => some (0x7FFFFFFF, fun x y => if x.slt y then x else y)
  | .smax => some (0x80000000, fun x y => if x.slt y then y else x)
  | .zmin => some (0xFFFFFFFF, fun x y => if x.ult y then x else y)
  | .zmax => some (0, fun x y => if x.ult y then y else x)
  | .and => some (0xFFFFFFFF, (· &&& ·))
  | .or => some (0, (· ||| ·))
  | .xor => some (0, (· ^^^ ·))
  | .fadd | .fmin | .fmax => none

/-- FMIN or FMAX over values: a single one is combined with itself (R225). -/
def fvFold (mx : Bool) : List FV → FV
  | [] => .inf (mx)
  | x :: l => l.foldl (FV.minMax mx) (FV.minMax mx x x)

/-- The signalling flags of values. -/
def sigFlags (l : List FV) : FFlags := l.foldl (fun f x => f ||| x.sigFlag) 0

/-- The exact sum of a combination; an empty one is +0 (R225). -/
def fvTotal (fp : DWord) (l : List FV) : FV × FFlags := if l.isEmpty then (.zero, 0) else FV.sum (fpRdn fp) l

/-- A combination of the threads' values of A (R225): the result and flags; `t` is the neighbour hash. -/
def ropEval (r : Rop) (h : Hd) (fp : DWord) (g : Tg) (a : Src) (l : List Nat) (t : Nat) : DWord × FFlags :=
  let vals := l.map fun i => fRead h fp32 fp g i a
  match ropInt r with
  | some (e, op) => ((l.foldl (fun x i => op x (g.src32 h.lit i a)) e).setWidth 64, 0)
  | none =>
    match r with
    | .fmin => (bitsD (fp32.exact (fvFold false vals)), sigFlags vals)
    | .fmax => (bitsD (fp32.exact (fvFold true vals)), sigFlags vals)
    | _ =>
      let (x, fl) := fvTotal fp vals
      let (b, fr) := fp32.round (fpCtl fp t) x
      (bitsD b, fl ||| fr)

/-- REDUX (R225): one result that belongs to no thread. -/
def execRedux (h : Hd) (rop : Rop) (d : Dst) (a : Src) (s : State) : Out :=
  onLane (hdLen h) s fun c k arm =>
    let t := s.tg c k
    let m := t.contrib arm h.pred h.pn
    if m != 0 && rop = .fadd && fpIsSr t.fpctl && !s.hasSrnd then
      s.tgLanes c k arm (hdLen h) ((lanesOf m).map fun i => (i, cUnitAbsent)) fun _ => 0
    else if m = 0 then s.tgDone c k arm (hdLen h) t
    else
      let (x, fl) := ropEval rop h t.fpctl t a (lanesOf m) (srMix 0 0)
      s.tgDone c k arm (hdLen h)
        { t.putTg false (s.nextPos (tgActor c k)) m d x with fpctl := fpRaise t.fpctl fl }

/-- The threads whose values SCAN combines for thread `i` (R225). -/
def scanSet (ex : Bool) (m : Mask) (i : Nat) : List Nat := (lanesOf m).filter fun j => if ex then j < i else j ≤ i

/-- SCAN (R225): each thread rounds its own prefix. -/
def execScan (h : Hd) (rop : Rop) (ex : Bool) (d : Dst) (a : Src) (s : State) : Out :=
  onLane (hdLen h) s fun c k arm =>
    let m := (s.tg c k).contrib arm h.pred h.pn
    match laneFloat h (hdLen h) false d (fun fp => rop = .fadd && fpIsSr fp)
        (fun fp g _ i => fp32.discard (fvTotal fp ((scanSet ex m i).map fun j => fRead h fp32 fp g j a)).1)
        (fun fp g mix i => ropEval rop h fp g a (scanSet ex m i) (mix 0)) s with
    | .next s' => s'
    | _ => s

/-- One byte of PRMT (R226). -/
def prmtByte (a b : Word) (n : Nat) : Nat :=
  let x := ((b ++ a : DWord).toNat / 2 ^ (8 * (n % 8))) % 256
  if n ≥ 8 then (if x ≥ 128 then 255 else 0) else x

/-- PRMT (R226). -/
def execPrmt (h : Hd) (d : Dst) (a b c : Src) (s : State) : Out :=
  laneCalc h (hdLen h) false d noCause
    (fun g i =>
      let sel := (g.src32 h.lit i c).toNat
      let byte (k : Nat) : Nat := prmtByte (g.src32 h.lit i a) (g.src32 h.lit i b) (sel / 2 ^ (4 * k) % 16)
      bitsD (byte 0 + 256 * byte 1 + 65536 * byte 2 + 16777216 * byte 3)) id s

end Sys2Proof.Machine
end

