-- ==== Sys2Proof/Machine/LaneInt.lean ====
section
/-! DEFINITION. The lane integer instructions (R200 to R205). -/

namespace Sys2Proof.Machine

/-- Width of a lane integer type (R201). -/
def ltW (t : LT) : Nat := match t with | .s32 | .z32 => 32 | .s64 | .z64 => 64
/-- Signedness of a lane integer type (R201). -/
def ltSg (t : LT) : Bool := match t with | .s32 | .s64 => true | .z32 | .z64 => false
/-- Whether the type is 64 bits wide. -/
def ltWide (t : LT) : Bool := ltW t = 64
/-- Saturation to the type's range (R201, R202). -/
def ltSat (t : LT) (sat : Bool) (r : Int) : Int :=
  if !sat then r
  else
    let lo : Int := if ltSg t then -(2 ^ (ltW t - 1) : Nat) else 0
    let hi : Int := if ltSg t then (2 ^ (ltW t - 1) : Nat) - 1 else (2 ^ ltW t : Nat) - 1
    min (max r lo) hi

/-- A source at the type's width. -/
def ltSrc (h : Hd) (t : LT) (g : Tg) (i : Nat) (x : Src) : DWord := g.srcW (ltWide t) h.lit i x
/-- A source's integer value. -/
def ltView (h : Hd) (t : LT) (g : Tg) (i : Nat) (x : Src) : Int := viewW (ltW t) (ltSg t) (ltSrc h t g i x)
/-- A 32-bit source. -/
def src32D (h : Hd) (g : Tg) (i : Nat) (x : Src) : DWord := (g.src32 h.lit i x).setWidth 64

/-- A lane integer instruction of a type with an exact integer result (R201). -/
def intCalc (h : Hd) (units : Nat) (t : LT) (d : Dst) (f : Tg → Nat → Int) (s : State) : Out :=
  laneCalc h units (ltWide t) d noCause (fun g i => extW (ltW t) (ltSg t) (f g i)) id s

/-- The exact sum, difference or product of two sources, saturated. -/
def intArith (op : Int → Int → Int) (h : Hd) (units : Nat) (t : LT) (sat : Bool) (d : Dst) (a b : Src) (s : State) : Out :=
  intCalc h units t d (fun g i => ltSat t sat (op (ltView h t g i a) (ltView h t g i b))) s

/-- A bitwise member (R204). -/
def intBits (op : DWord → DWord → DWord) (h : Hd) (units : Nat) (t : LT) (d : Dst) (a b : Src) (s : State) : Out :=
  intCalc h units t d (fun g i => (lowOfW (ltW t) (op (ltSrc h t g i a) (ltSrc h t g i b)) : Nat)) s

/-- A shift, with the count from 32 bits of B (R204). -/
def intShift (op : Nat → DWord → DWord → Int) (h : Hd) (units : Nat) (t : LT) (d : Dst) (a b : Src) (s : State) : Out :=
  intCalc h units t d (fun g i => op (ltW t) (ltSrc h t g i a) (src32D h g i b)) s

/-- A copy of a source (R204). -/
def intMov (h : Hd) (units : Nat) (t : LT) (d : Dst) (a : Src) (s : State) : Out :=
  intCalc h units t d (fun g i => ltView h t g i a) s

/-- A count of bits, 32 bits wide whatever the type (R200, R204). -/
def intCount (op : Nat → DWord → Int) (h : Hd) (units : Nat) (t : LT) (d : Dst) (a : Src) (s : State) : Out :=
  laneCalc h units false d noCause (fun g i => BitVec.ofInt 64 (op (ltW t) (ltSrc h t g i a))) id s

/-- The field checks of BFX and BFI (R205). -/
def fieldBad (h : Hd) (t : LT) (b c : Src) (g : Tg) (i : Nat) : Nat :=
  let pos := (g.src32 h.lit i b).toNat
  let len := (g.src32 h.lit i c).toNat
  if pos ≥ ltW t || len > ltW t - pos then cArith else 0

/-- The destination register of BFI read as a source (R200, R205). -/
def dstAsSrc (d : Dst) : Src :=
  match d with
  | .main n => .main n
  | .opnd n => .opnd n
  | .pred n => .pred n
  | .grp n => .grp n

/-- IDOT4's sum for a thread (R203). -/
def dot4 (az bz sat : Bool) (a b c : Word) : Int :=
  let byte (z : Bool) (x : Word) (k : Nat) : Int :=
    let v := x.extractLsb' (8 * k) 8
    if z then (v.toNat : Int) else v.toInt
  let r := (List.range 4).foldl (fun s k => s + byte az a k * byte bz b k) c.toInt
  if sat then min (max r (-2147483648)) 2147483647 else r

/-- IADD (R202). -/
def execIadd (h : Hd) (t : LT) (sat : Bool) (d : Dst) (a b : Src) (s : State) : Out :=
  intArith (· + ·) h (hdLen h) t sat d a b s

/-- IADD, compact form (R80). -/
def execIaddCompact (p : BitVec 3) (pn : Bool) (d a : BitVec 8) (s : State) : Out :=
  intArith (· + ·) (cHd p pn) 1 .s32 false (.main d) (.main a) .l0 s

/-- ISUB (R202). -/
def execIsub (h : Hd) (t : LT) (sat : Bool) (d : Dst) (a b : Src) (s : State) : Out :=
  intArith (· - ·) h (hdLen h) t sat d a b s

/-- ISUB, compact form (R80). -/
def execIsubCompact (p : BitVec 3) (pn : Bool) (d a : BitVec 8) (s : State) : Out :=
  intArith (· - ·) (cHd p pn) 1 .s32 false (.main d) (.main a) .l0 s

/-- IMUL (R202). -/
def execImul (h : Hd) (t : LT) (d : Dst) (a b : Src) (s : State) : Out :=
  intArith (· * ·) h (hdLen h) t false d a b s

/-- IMUL, compact form (R80). -/
def execImulCompact (p : BitVec 3) (pn : Bool) (d a : BitVec 8) (s : State) : Out :=
  intArith (· * ·) (cHd p pn) 1 .s32 false (.main d) (.main a) .l0 s

/-- IMAD (R202). -/
def execImad (h : Hd) (t : LT) (sat : Bool) (d : Dst) (a b c : Src) (s : State) : Out :=
  intCalc h (hdLen h) t d (fun g i => ltSat t sat (ltView h t g i a * ltView h t g i b + ltView h t g i c)) s

/-- IMULH (R202). -/
def execImulh (h : Hd) (t : LT) (d : Dst) (a b : Src) (s : State) : Out :=
  intCalc h (hdLen h) t d (fun g i => aluMulh (ltW t) (ltView h t g i a) (ltView h t g i b)) s

/-- IDOT4 (R203). -/
def execIdot4 (h : Hd) (az bz sat : Bool) (d : Dst) (a b c : Src) (s : State) : Out :=
  laneCalc h (hdLen h) false d noCause
    (fun g i => extW 32 true (dot4 az bz sat (g.src32 h.lit i a) (g.src32 h.lit i b) (g.src32 h.lit i c))) id s

/-- IABS (R202). -/
def execIabs (h : Hd) (t : LT) (sat : Bool) (d : Dst) (a : Src) (s : State) : Out :=
  intCalc h (hdLen h) t d (fun g i => ltSat t sat (ltView h t g i a).natAbs) s

/-- IMIN (R202). -/
def execImin (h : Hd) (t : LT) (d : Dst) (a b : Src) (s : State) : Out :=
  intArith min h (hdLen h) t false d a b s

/-- IMIN, compact form (R80). -/
def execIminCompact (p : BitVec 3) (pn : Bool) (d a : BitVec 8) (s : State) : Out :=
  intArith min (cHd p pn) 1 .s32 false (.main d) (.main a) .l0 s

/-- IMAX (R202). -/
def execImax (h : Hd) (t : LT) (d : Dst) (a b : Src) (s : State) : Out :=
  intArith max h (hdLen h) t false d a b s

/-- IMAX, compact form (R80). -/
def execImaxCompact (p : BitVec 3) (pn : Bool) (d a : BitVec 8) (s : State) : Out :=
  intArith max (cHd p pn) 1 .s32 false (.main d) (.main a) .l0 s

/-- AND (R204). -/
def execAnd (h : Hd) (t : LT) (d : Dst) (a b : Src) (s : State) : Out :=
  intBits (· &&& ·) h (hdLen h) t d a b s

/-- AND, compact form (R80). -/
def execAndCompact (p : BitVec 3) (pn : Bool) (d a : BitVec 8) (s : State) : Out :=
  intBits (· &&& ·) (cHd p pn) 1 .s32 (.main d) (.main a) .l0 s

/-- OR (R204). -/
def execOr (h : Hd) (t : LT) (d : Dst) (a b : Src) (s : State) : Out :=
  intBits (· ||| ·) h (hdLen h) t d a b s

/-- OR, compact form (R80). -/
def execOrCompact (p : BitVec 3) (pn : Bool) (d a : BitVec 8) (s : State) : Out :=
  intBits (· ||| ·) (cHd p pn) 1 .s32 (.main d) (.main a) .l0 s

/-- XOR (R204). -/
def execXor (h : Hd) (t : LT) (d : Dst) (a b : Src) (s : State) : Out :=
  intBits (· ^^^ ·) h (hdLen h) t d a b s

/-- XOR, compact form (R80). -/
def execXorCompact (p : BitVec 3) (pn : Bool) (d a : BitVec 8) (s : State) : Out :=
  intBits (· ^^^ ·) (cHd p pn) 1 .s32 (.main d) (.main a) .l0 s

/-- ANDN (R204). -/
def execAndn (h : Hd) (t : LT) (d : Dst) (a b : Src) (s : State) : Out :=
  intBits (fun x y => x &&& ~~~y) h (hdLen h) t d a b s

/-- ANDN, compact form (R80). -/
def execAndnCompact (p : BitVec 3) (pn : Bool) (d a : BitVec 8) (s : State) : Out :=
  intBits (fun x y => x &&& ~~~y) (cHd p pn) 1 .s32 (.main d) (.main a) .l0 s

/-- SHL (R204). -/
def execShl (h : Hd) (t : LT) (d : Dst) (a b : Src) (s : State) : Out :=
  intShift aluShl h (hdLen h) t d a b s

/-- SHL, compact form (R80). -/
def execShlCompact (p : BitVec 3) (pn : Bool) (d a : BitVec 8) (s : State) : Out :=
  intShift aluShl (cHd p pn) 1 .s32 (.main d) (.main a) .l0 s

/-- SHR (R204). -/
def execShr (h : Hd) (t : LT) (d : Dst) (a b : Src) (s : State) : Out :=
  intShift aluShr h (hdLen h) t d a b s

/-- SHR, compact form (R80). -/
def execShrCompact (p : BitVec 3) (pn : Bool) (d a : BitVec 8) (s : State) : Out :=
  intShift aluShr (cHd p pn) 1 .s32 (.main d) (.main a) .l0 s

/-- SAR (R204). -/
def execSar (h : Hd) (t : LT) (d : Dst) (a b : Src) (s : State) : Out :=
  intShift aluSar h (hdLen h) t d a b s

/-- SAR, compact form (R80). -/
def execSarCompact (p : BitVec 3) (pn : Bool) (d a : BitVec 8) (s : State) : Out :=
  intShift aluSar (cHd p pn) 1 .s32 (.main d) (.main a) .l0 s

/-- BFX (R205). -/
def execBfx (h : Hd) (t : LT) (d : Dst) (a b c : Src) (s : State) : Out :=
  laneCalc h (hdLen h) (ltWide t) d (fieldBad h t b c)
    (fun g i => extW (ltW t) (ltSg t)
      (aluBfx (ltSg t) (ltSrc h t g i a) (g.src32 h.lit i b).toNat (g.src32 h.lit i c).toNat)) id s

/-- BFI (R205): the destination is read and written. -/
def execBfi (h : Hd) (t : LT) (d : Dst) (a b c : Src) (s : State) : Out :=
  laneCalc h (hdLen h) (ltWide t) d (fieldBad h t b c)
    (fun g i => extW (ltW t) (ltSg t)
      (aluBfi (ltSrc h t g i (dstAsSrc d)) (ltSrc h t g i a) (g.src32 h.lit i b).toNat (g.src32 h.lit i c).toNat)) id s

/-- POPC (R204). -/
def execPopc (h : Hd) (t : LT) (d : Dst) (a : Src) (s : State) : Out := intCount aluPopc h (hdLen h) t d a s

/-- CLZ (R204). -/
def execClz (h : Hd) (t : LT) (d : Dst) (a : Src) (s : State) : Out := intCount aluClz h (hdLen h) t d a s

/-- BREV (R204). -/
def execBrev (h : Hd) (t : LT) (d : Dst) (a : Src) (s : State) : Out :=
  intCalc h (hdLen h) t d (fun g i => aluBrev (ltW t) (ltSrc h t g i a)) s

/-- ICMP (R150, R204). -/
def execIcmp (h : Hd) (t : LT) (cc : CC) (d : Dst) (a b : Src) (s : State) : Out :=
  laneCalc h (hdLen h) false d noCause
    (fun g i => if aluCmp (ltW t) (ltSg t) cc (ltSrc h t g i a) (ltSrc h t g i b) then 1 else 0) id s

/-- SEL (R204). -/
def execSel (h : Hd) (t : LT) (d : Dst) (a b c : Src) (s : State) : Out :=
  intCalc h (hdLen h) t d (fun g i => if g.src32 h.lit i c != 0 then ltView h t g i a else ltView h t g i b) s

/-- MOV (R204). -/
def execMov (h : Hd) (t : LT) (d : Dst) (a : Src) (s : State) : Out := intMov h (hdLen h) t d a s

/-- MOV, compact form (R80). -/
def execMovCompact (p : BitVec 3) (pn : Bool) (d a : BitVec 8) (s : State) : Out :=
  intMov (cHd p pn) 1 .s32 (.main d) (.main a) s

/-- LI (R204): A[31:0], or its sign extension into a group register. -/
def execLi (h : Hd) (d : Dst) (a : Src) (s : State) : Out :=
  laneCalc h (hdLen h) false d noCause (fun g i => (g.src32 h.lit i a).signExtend 64) id s

end Sys2Proof.Machine
end

