-- ==== Sys2Proof/Machine/Power.lean ====
section
/-! DEFINITION. Saddles, droops, timing errors, ballast, peers and host ports, and package reset
(R415, R424, R425, R427, R429, R430, R435, R436, R438, R439, R442, R444, R445, R450, R451, R456, R457, R459, R460, R465). -/

namespace Sys2Proof.Machine

/-! ## Saddles (R429 to R445) -/

/-- The limit of a saddle in ns after its start (R438). -/
def saddleLimit (n : Nat) : Nat := Nat.min (2 * saddleLen n) (4096 - 128)

/-- The calendar changed. -/
def State.onCalendar (s : State) (f : Calendar → Calendar) : State := { s with calendar := f s.calendar }

/-- The next saddle's start. -/
def State.saddleStart (s : State) : Nat := s.calendar.start s.calendar.next

/-- DRAIN_HORIZON (R429): 128 ns before the start. -/
def execDrainHorizon (s : State) : Out :=
  .next (if s.calendar.phase = 0 && s.saddleStart ≤ s.refTime + 128 then s.onCalendar fun c => { c with phase := 1 } else s)

/-- A group with an open window for a saddle that starts. -/
def Tg.crossAt (n : Nat) (t : Tg) : Tg := if t.window = some n then { t with crossed := true } else t
/-- A Spur with one. -/
def Spur.crossAt (n : Nat) (p : Spur) : Spur := if p.window = some n then { p with crossed := true } else p

/-- A core's agents with an open window for a saddle that starts: each takes `SADDLE_CROSS` before it issues (R442). -/
def Core.crossAt (n : Nat) (c : Core) : Core :=
  { c with spur := c.spur.crossAt n, tgs := c.tgs.map fun p => (p.1, p.2.crossAt n) }

/-- A cluster whose new margin is applied (R445); AGEN stays. -/
def Cluster.applyMargin (x : Cluster) : Cluster :=
  match x.newMargin with
  | some w => { x with margin := x.margin.extractLsb' 40 24 ++ w.extractLsb' 0 40, newMargin := none }
  | none => x

/-- SADDLE_START (R429, R442, R445, R467): no DRAM command is outstanding, since each one issues and completes in one turn (R435). -/
def execSaddleStart (s : State) : Out :=
  let n := s.calendar.next
  .next (
    if s.calendar.phase != 1 || s.refTime < s.saddleStart then s
    else
      ({ s.onCalendar (fun c => { c with phase := 2 }) with
          cores := s.cores.map fun p => (p.1, p.2.crossAt n)
          clusters := s.clusters.map fun p => (p.1, p.2.applyMargin) } : State).driveSrc 3)

/-- AGEN after an AGE saddle. -/
def Cluster.age (x : Cluster) : Cluster :=
  { x with margin := x.margin.extractLsb' 48 16 ++ (x.margin.extractLsb' 40 8 + 1) ++ x.margin.extractLsb' 0 40 }

/-- HEAD and CAP after a SENS saddle: a cap outside its range leaves the old one. -/
def Cluster.sense (x : Cluster) (head : BitVec 8) (cap : Option (BitVec 6)) : Cluster :=
  { x with
    head
    mreqcap := match cap with
      | some k => if 1 ≤ k.toNat && k.toNat ≤ 48 then k.setWidth 64 else x.mreqcap
      | none => x.mreqcap }

/-- The clusters' ranks as their HEAD values give them (R457). -/
def State.rankClusters (s : State) : State :=
  { s with clusters := s.clusters.map fun p => (p.1, { p.2 with rank := s.thermRank p.1 }) }

/-- What a saddle's types leave behind (R430, R444, R456, R457). -/
def State.saddleWork (s : State) (n : Nat) (head : Nat → BitVec 8) (cap : Nat → Option (BitVec 6)) : State :=
  let t := saddleTypes n
  let s := if t.getLsbD 1 then
      ({ s with clusters := s.clusters.map fun p => (p.1, p.2.sense (head p.1) (cap p.1)) } : State).rankClusters
    else s
  if t.getLsbD 4 then { s with clusters := s.clusters.map fun p => (p.1, p.2.age) } else s

/-- The SADDLE record of every core (R465). -/
def State.saddleRecords (s : State) (n len : Nat) : State :=
  (s.cores.map Prod.fst).foldl (fun s c => s.trace c 9 saddleActor 0 0 n len) s

/-- What waited for the saddle's end goes on: ring entries and records, and messages (R437, R447). A record of a core whose launch
has gone is not logged. -/
def State.unhold (s : State) : State :=
  let ps := s.heldPosts
  let rs := s.heldRaces
  let s := { s with heldPosts := [], heldRaces := [], outbox := s.outbox ++ s.unsent, unsent := [] }
  let s := ps.foldl (fun s p => s.postNow p.1 p.2) s
  rs.foldl (fun s r => if s.asidOf r.1 = r.2.1 then s.raceLogNow r.1 r.2.2 else s) s

/-- SADDLE_END (R430, R436, R438): within the limit. -/
def execSaddleEnd (heads : List (BitVec 8)) (caps : List (BitVec 6)) (s : State) : Out :=
  let n := s.calendar.next
  let len := s.refTime - s.saddleStart
  .next (
    if s.calendar.phase != 2 || s.refTime < s.saddleStart + saddleLen n || len > saddleLimit n then s
    else
      (((s.saddleWork n (fun c => heads.getD c (s.cluster c).head) (fun c => caps[c]?)).onCalendar
        fun c => { c with next := n + 1, phase := 0 }).saddleRecords n len).unhold)

/-- The re-plan after an overrun that ended at a time (R439). -/
def Calendar.replan (c : Calendar) (e : Nat) : Calendar :=
  let k := (e + 128 - c.start (c.next + 1) + 4095) / 4096
  { next := c.next + 1, shift := c.shift + 4096 * k, gen := c.gen + 1, phase := 0 }

/-- SADDLE_OVERRUN (R439): the work has ended past the limit; HEAD after it is a free value (log 40). -/
def execSaddleOverrun (s : State) : Out :=
  let n := s.calendar.next
  let len := s.refTime - s.saddleStart
  .next (
    if s.calendar.phase != 2 || len ≤ saddleLimit n then s
    else
      let s := s.saddleWork n (fun c => Config.therm (4 * n + c)) fun _ => none
      let s := ((s.onCalendar fun c => c.replan s.refTime).saddleRecords n len).unhold
      s.post { core := 191, actor := saddleActor, cause := cSaddleOverrun, addr := BitVec.ofNat 64 n
               aux := BitVec.ofNat 64 len })

/-! ## Droops (R450, R451) -/

/-- A 16-bit count that saturates. -/
def sat16 (x : BitVec 16) : BitVec 16 := if x = 0xFFFF then x else x + 1

/-- Local cycles of a cluster. -/
def State.clusterCycles (s : State) (c : Nat) : Nat := mget 0 s.cycles c

/-- The droop response of a cluster at a local cycle. -/
def Cluster.respond (x : Cluster) (now : Nat) : Cluster :=
  { x with
    droop := sat16 (x.droop.extractLsb' 48 16) ++ x.droop.extractLsb' 0 48
    stretchEnd := some (now + fieldNat x.droop 8 4)
    halfEnd := some (now + fieldNat x.droop 12 12) }

/-- A droop, with its trigger lines. -/
def State.droopAt (s : State) (c : Nat) : State := (s.onCluster c fun x => x.respond (s.clusterCycles c)).driveSrc 4

/-- DROOP: the subject names the cluster. -/
def execDroop (s : State) : Out := .next (if s.clusterPresent s.subj.1 then s.droopAt s.subj.1 else s)

/-- A count of local cycles has ended. -/
def dueAt (now : Nat) (e : Option Nat) : Option Nat := match e with | some t => if t ≤ now then none else some t | none => none

/-- STRETCH_END: the subject names the cluster. -/
def execStretchEnd (s : State) : Out :=
  let c := s.subj.1
  .next (s.onCluster c fun x => { x with stretchEnd := dueAt (s.clusterCycles c) x.stretchEnd })
/-- HALVED_ISSUE_END: the subject names the cluster. -/
def execHalvedIssueEnd (s : State) : Out :=
  let c := s.subj.1
  .next (s.onCluster c fun x => { x with halfEnd := dueAt (s.clusterCycles c) x.halfEnd })

/-! ## Timing errors (R459) -/

/-- TREPLAY counted. -/
def Cluster.replay (x : Cluster) : Cluster :=
  { x with droop := x.droop.extractLsb' 48 16 ++ sat16 (x.droop.extractLsb' 32 16) ++ x.droop.extractLsb' 0 32 }

/-- Where the timing errors in a row of the instruction that an arm of an actor issues are counted (R459); the Spur has one
arm. -/
def retryKey (actor : Nat) (arm : Bool) : Nat := 2 * actor + (if lowOf actor < 0x80 && arm then 1 else 0)

/-- The instruction of an actor's arm abandoned: its entry waits for firmware, which ends the launch. -/
def State.timingFail (s : State) (actor : Nat) (arm : Bool) : State :=
  let c := coreOf actor
  let k := lowOf actor
  if k = 0x80 then s.spurTrap c cTimingFail 0
  else
    let t := s.tg c k
    let pc := t.armPc arm
    s.tgService c k arm (mkFrame t actor arm { cause := cTimingFail, fpc := pc, pc, units := 1 })

/-- The instruction at an arm's PC has sent its arrival (R237, R238, R239, R361): no timing error comes after it (R458). -/
def Tg.hasSent (t : Tg) (arm : Bool) : Bool :=
  t.armPark arm = .barrier || (t.div.isNone && (t.arrived || t.waitBar.isSome || t.sbWait.isSome || t.barm.isSome))

/-- An arm of an actor that issues: a group or the Spur with a turn, neither halted nor past its send (R458, R469). -/
def State.issuing (s : State) (actor : Nat) (arm : Bool) : Bool :=
  let c := coreOf actor
  let k := lowOf actor
  !isDevActor actor &&
  (if k < 0x80 then
      let t := s.tg c k
      s.tgOpen c k arm && !t.hasSent arm && (!t.halted || t.stepReq)
    else
      let p := (s.core c).spur
      k = 0x80 && s.spurOpen c && p.run = .run && (!p.halted || p.stepReq))

/-- TIMING_ERROR: the instruction is replayed from its operand read; the fourth error in a row has the droop response, and
the sixteenth abandons it, once nothing of the actor is outstanding. -/
def State.timingError (s : State) (actor : Nat) (arm : Bool) : State :=
  let key := retryKey actor arm
  let n := mget 0 s.retries key + 1
  if !s.issuing actor arm || (16 ≤ n && s.busy actor) then s
  else
    let s := s.onCluster (clusterOf (coreOf actor)) Cluster.replay
    if 16 ≤ n then ({ s with retries := mset 0 s.retries key 0 } : State).timingFail actor arm
    else
      let s := { s with retries := mset 0 s.retries key n }
      if n = 4 then s.droopAt (clusterOf (coreOf actor)) else s

/-- TIMING_ERROR: the subject names the actor, and the arm of a group: T where its second part is not 0. -/
def execTimingError (s : State) : Out := .next (s.timingError s.subj.1 (s.subj.2 != 0))

/-! ## Ballast (R460) -/

/-- No context of the device holds a walk. -/
def State.allIdle (s : State) : Bool := s.cores.all fun p => (p.2.ctx 0).state = xIdle && (p.2.ctx 1).state = xIdle

/-- BALLAST: it decays to zero by the end of RAMP, and touches nothing else. -/
def execBallast (s : State) : Out :=
  .next (if s.allIdle then { s with ballast := some (s.refTime + fieldNat (s.cluster 0).didt 32 16) } else s)

/-! ## The peer links (R427) -/

/-- A place in the window of another device. -/
def State.farPlace (s : State) : Place → Bool
  | .win _ va => va / 2 ^ 40 % 256 != s.domid
  | _ => false

/-- 50 us have passed since an access left. -/
def State.lateAcc (s : State) (a : Acc) : Bool := a.time + 50000 ≤ s.refTime

/-- An entry to another device given up: its acknowledgement will not come. -/
def State.entryLost (s : State) (uid : Nat) : State :=
  let hit (e : Entry) : Bool := e.uid = uid && s.farPlace e.place && s.lateAcc e.acc
  match (s.path ++ s.links.map Prod.snd ++ s.done.map Done.e).find? hit with
  | none => s
  | some e =>
    ({ s with
        path := s.path.filter fun x => x.uid != uid
        links := s.links.filter fun p => p.2.uid != uid
        done := s.done.filter fun d => d.e.uid != uid } : State).refuse e cPeerUnreachable []

/-- A load's threads to another device given up. -/
def State.loadLost (s : State) (a pos : Nat) : State :=
  match (s.actor a).loads.find? fun l => l.acc.pos = pos with
  | none => s
  | some l =>
    let ts := l.lanes.filter fun t => s.farPlace t.place
    if ts.isEmpty || !s.lateAcc l.acc then s
    else
      let m := maskOf fun i => ts.any fun t => t.lane = i
      let s := s.onActor a fun x => { x with loads := dropLanes m pos x.loads }
      ts.foldl (fun s t => s.fault a cPeerUnreachable (t.place.ea (coreOf a)) [] (.load { l with lanes := [t] })) s

/-- PEER_UNREACHABLE: the subject names an entry by its uid with 0, or a load by its actor and number. -/
def execPeerUnreachable (s : State) : Out :=
  .next (if s.subj.2 = 0 then s.entryLost s.subj.1 else s.loadLost s.subj.1 s.subj.2)

/-! ## Host ports (R424, R425), and the peer-link receiver (R295, R426) -/

/-- What a remote access reaches: the actor, and the address space and VA there. -/
structure Landing where
  actor : Nat
  asid : Nat
  va : Nat
  deriving DecidableEq, Repr

/-- The context of a remote access: for a host port the subject gives its number and, in the second part, 1 for ROD. -/
def State.carrier (s : State) (port : Nat) : Carrier := if port < 8 then ⟨port, s.subj.1, s.subj.2 = 1⟩ else ⟨port, 0, false⟩

/-- A port or a peer link that takes accesses now: a LINK saddle stops both (R437). -/
def State.linkTakes (s : State) (port : Nat) : Bool :=
  !s.linkDown && (if port < 8 then carrierOk (s.carrier port) else port < 264 && s.hasPeer)

/-- Where a remote access of some bytes lands: a host port's in the address space that it names, which is an interface's and so not
FRS's own, another device's through its grant, below the limit; `none` elsewhere (R403, R425 to R427). -/
def State.landing (s : State) (port asid va size : Nat) : Option Landing :=
  if port < 8 then (if asid = 0 then none else some ⟨portActor port, asid, va⟩)
  else
    match s.grants.find? fun g => g.dev = port - 8 && g.srcAsid = asid with
    | some g => if va + size ≤ g.limit then some ⟨peerActor, g.asid, g.base + va⟩ else none
    | none => none

/-- REMOTE_WRITE: its completion follows the last acknowledgement. From port 8 on it is a store that arrives from device `port - 8`,
at an offset of what this device exports to it. -/
def execRemoteWrite (port asid : Nat) (va : DWord) (data : List Byte) (s : State) : Out :=
  .next (
    let v := s.carrier port
    if !s.linkTakes port then s
    else if data.isEmpty then s.send (.written v)
    else
      match s.landing port asid va.toNat data.length with
      | none => s.send (.fault v cPermission)
      | some l =>
        let (t, us) := s.devStore l.actor l.asid l.va data 0 false
        { t with remotes := t.remotes ++ [⟨v, us⟩] })

/-- The operation of an atomic that arrives from another device, by its number: ATOM's, CAS, and ATOMF's by operation, format and
rounding mode (R275, R277). -/
def peerOp (n : Nat) : Option AtOp :=
  if n < 10 then ([.add, .smin, .smax, .zmin, .zmax, .and, .or, .xor, .xchg, .pmax][n]?).map .int
  else if n = 10 then some .cas
  else ([Fop.add, .min, .max][(n - 11) % 3]?).map fun o => .flt o ((n - 11) / 3 % 3) ((n - 11) / 9 % 8)

/-- An atomic of another device enters the receiver's queue; its reply follows the acknowledgement (R295). The subject's second part
holds the operand in 64 bits and, above it, the comparand of CAS. -/
def State.peerAtomic (s : State) (v : Carrier) (l : Landing) (op : AtOp) (size : Nat) : State :=
  let acc := s.newAcc l.actor (s.nextPos l.actor) 0 0 0 0 false false
  let lane : RmwLane := ⟨0, BitVec.ofNat 64 s.subj.2, BitVec.ofNat 64 (s.subj.2 / 2 ^ 64)⟩
  let u := s.nextUid
  let t := (s.issueEntry acc (vaPlace l.asid l.va) 1 (.rmw op size [lane]) none none).bump l.actor
  { t with remotes := t.remotes ++ [⟨v, [u]⟩] }

/-- A remote read reads its next line at the home, one line a turn, and answers with the last (R34, R36, R425). -/
def State.portRead (s : State) (v : Carrier) (asid : Nat) (l : Landing) (va size : Nat) : State :=
  let mine (r : PortRead) : Bool := r.via = v && r.asid = asid && r.va = va && r.size = size
  let got := ((s.reads.find? mine).map PortRead.got).getD []
  let rest := s.reads.filter fun r => !mine r
  let at_ := l.va + got.length
  let n := Nat.min (size - got.length) (128 - at_ % 128)
  match s.frontLine l.asid at_ n with
  | .wait => s
  | .fault c _ s => ({ s with reads := rest } : State).send (.fault v c)
  | .ok bs s =>
    let all := got ++ bs
    if size ≤ all.length then ({ s with reads := rest } : State).send (.data v all)
    else { s with reads := rest ++ [⟨v, asid, va, size, all⟩] }

/-- REMOTE_READ: home lines are read directly, in one step each. From port 8 on it is a load of another device, or, where the subject's
first part is not 0, the atomic whose number is one less. -/
def execRemoteRead (port asid : Nat) (va : DWord) (size : Nat) (s : State) : Out :=
  .next (
    let v := s.carrier port
    if !s.linkTakes port then s
    else
      match s.landing port asid va.toNat size with
      | none => s.send (.fault v cPermission)
      | some l =>
        match if port < 8 || s.subj.1 = 0 then none else peerOp (s.subj.1 - 1) with
        | some op => if (size = 4 || size = 8) && l.va % size = 0 then s.peerAtomic v l op size else s.send (.fault v cMisaligned)
        | none => s.portRead v asid l va.toNat size)

/-- DROPPED_PACKET (R424): the subject names the port. -/
def execDroppedPacket (s : State) : Out :=
  let p := s.subj.1
  .next (if p < 8 then { s with dropped := mset 0 s.dropped p (mget 0 s.dropped p + 1) } else s)

/-! ## Package reset (R415) -/

/-- PACKAGE_RESET: the device as its boot leaves it, with its own fuses, and with the domain number that the subject gives where FRS
forms a domain (R426; log 87). What other devices answer, and the turns to come, are not the device's. -/
def execPackageReset (s : State) : Out :=
  .next { State.resetFor (fieldNat s.caps 24 8) with
    caps := s.caps, domid := if s.hasPeer then s.subj.1 % 256 else 0, exports := s.exports
    peerMem := s.peerMem, agenda := s.agenda, turns := s.turns }

end Sys2Proof.Machine
end

