-- ==== Sys2Proof/Machine/Dispatch.lean ====
section
/-! DEFINITION. The meaning of every instruction, one arm per constructor of `Instr`. -/

namespace Sys2Proof.Machine

def exec (i : Instr) (s : State) : Host.Outcome State Fault Refusal :=
  match i with
  | .perform actor pos lanes => Sys2Proof.Machine.execPerform actor pos lanes s
  | .drain actor uid => Sys2Proof.Machine.execDrain actor uid s
  | .forward dest => Sys2Proof.Machine.execForward dest s
  | .apply uid => Sys2Proof.Machine.execApply uid s
  | .acknowledge uid => Sys2Proof.Machine.execAcknowledge uid s
  | .fenceComplete actor pos => Sys2Proof.Machine.execFenceComplete actor pos s
  | .fill core asid line => Sys2Proof.Machine.execFill core asid line s
  | .evict core asid line => Sys2Proof.Machine.execEvict core asid line s
  | .disown core queue item => Sys2Proof.Machine.execDisown core queue item s
  | .lineLand core queue item => Sys2Proof.Machine.execLineLand core queue item s
  | .launchKill core cause => Sys2Proof.Machine.execLaunchKill core cause s
  | .preemptRequest core withdraw => Sys2Proof.Machine.execPreemptRequest core withdraw s
  | .fetchLand core ctx opB slot line => Sys2Proof.Machine.execFetchLand core ctx opB slot line s
  | .fetchFault core ctx opB slot line => Sys2Proof.Machine.execFetchFault core ctx opB slot line s
  | .chunkComplete core ctx ksteps => Sys2Proof.Machine.execChunkComplete core ctx ksteps s
  | .copyFault core queue item => Sys2Proof.Machine.execCopyFault core queue item s
  | .saddleEnd heads caps => Sys2Proof.Machine.execSaddleEnd heads caps s
  | .remoteWrite port asid va data => Sys2Proof.Machine.execRemoteWrite port asid va data s
  | .remoteRead port asid va size => Sys2Proof.Machine.execRemoteRead port asid va size s
  | .triggerAssert line pin => Sys2Proof.Machine.execTriggerAssert line pin s
  | .csrwRaceidx h a => Sys2Proof.Machine.execCsrwRaceidx h a s
  | .csrrTrctl h d => Sys2Proof.Machine.execCsrrTrctl h d s
  | .csrwTrctl h a => Sys2Proof.Machine.execCsrwTrctl h a s
  | .csrwTrrd h a => Sys2Proof.Machine.execCsrwTrrd h a s
  | .csrwHpool h a => Sys2Proof.Machine.execCsrwHpool h a s
  | .csrwRlgeom h n a => Sys2Proof.Machine.execCsrwRlgeom h n a s
  | .csrwRlpos h n a => Sys2Proof.Machine.execCsrwRlpos h n a s
  | .csrwHshare h a => Sys2Proof.Machine.execCsrwHshare h a s
  | .csrwMreqcap h a => Sys2Proof.Machine.execCsrwMreqcap h a s
  | .csrwDbgctl h a => Sys2Proof.Machine.execCsrwDbgctl h a s
  | .add h w d a b => Sys2Proof.Machine.execAdd h w d a b s
  | .sub h w d a b => Sys2Proof.Machine.execSub h w d a b s
  | .mul h w d a b => Sys2Proof.Machine.execMul h w d a b s
  | .mulh h w d a b => Sys2Proof.Machine.execMulh h w d a b s
  | .divs h w rem d a b => Sys2Proof.Machine.execDivs h w rem d a b s
  | .divz h w rem d a b => Sys2Proof.Machine.execDivz h w rem d a b s
  | .spurAnd h w d a b => Sys2Proof.Machine.execSpurAnd h w d a b s
  | .spurOr h w d a b => Sys2Proof.Machine.execSpurOr h w d a b s
  | .spurXor h w d a b => Sys2Proof.Machine.execSpurXor h w d a b s
  | .spurAndn h w d a b => Sys2Proof.Machine.execSpurAndn h w d a b s
  | .spurShl h w d a b => Sys2Proof.Machine.execSpurShl h w d a b s
  | .spurShr h w d a b => Sys2Proof.Machine.execSpurShr h w d a b s
  | .spurSar h w d a b => Sys2Proof.Machine.execSpurSar h w d a b s
  | .rot h w d a b => Sys2Proof.Machine.execRot h w d a b s
  | .min h w d a b => Sys2Proof.Machine.execMin h w d a b s
  | .max h w d a b => Sys2Proof.Machine.execMax h w d a b s
  | .spurClz h w d a => Sys2Proof.Machine.execSpurClz h w d a s
  | .spurPopc h w d a => Sys2Proof.Machine.execSpurPopc h w d a s
  | .spurBfx h w d a b c => Sys2Proof.Machine.execSpurBfx h w d a b c s
  | .spurBfi h w d a b c => Sys2Proof.Machine.execSpurBfi h w d a b c s
  | .lea h sh d a b c => Sys2Proof.Machine.execLea h sh d a b c s
  | .spurMov h w d a => Sys2Proof.Machine.execSpurMov h w d a s
  | .spurLi h w hi d a => Sys2Proof.Machine.execSpurLi h w hi d a s
  | .spurSel h d a b c => Sys2Proof.Machine.execSpurSel h d a b c s
  | .cmp h w cc d a b => Sys2Proof.Machine.execCmp h w cc d a b s
  | .br h off => Sys2Proof.Machine.execBr h off s
  | .call h d off => Sys2Proof.Machine.execCall h d off s
  | .loopn h d off => Sys2Proof.Machine.execLoopn h d off s
  | .jmp h d a => Sys2Proof.Machine.execJmp h d a s
  | .ret h a => Sys2Proof.Machine.execRet h a s
  | .sld h sz ord d a b => Sys2Proof.Machine.execSld h sz ord d a b s
  | .sst h sz ord d a b => Sys2Proof.Machine.execSst h sz ord d a b s
  | .samo h op w sc d a b c => Sys2Proof.Machine.execSamo h op w sc d a b c s
  | .fork h d a => Sys2Proof.Machine.execFork h d a s
  | .rdzv h d a => Sys2Proof.Machine.execRdzv h d a s
  | .wspawn h wid d a b c => Sys2Proof.Machine.execWspawn h wid d a b c s
  | .dqput h a => Sys2Proof.Machine.execDqput h a s
  | .launch h tgt try_ a => Sys2Proof.Machine.execLaunch h tgt try_ a s
  | .ljoin h a b => Sys2Proof.Machine.execLjoin h a b s
  | .cprog h d a b c => Sys2Proof.Machine.execCprog h d a b c s
  | .yield h => Sys2Proof.Machine.execYield h s
  | .trap h a => Sys2Proof.Machine.execTrap h a s
  | .sdone h => Sys2Proof.Machine.execSdone h s
  | .iaddCompact pred pn d a => Sys2Proof.Machine.execIaddCompact pred pn d a s
  | .iadd h t sat d a b => Sys2Proof.Machine.execIadd h t sat d a b s
  | .isubCompact pred pn d a => Sys2Proof.Machine.execIsubCompact pred pn d a s
  | .isub h t sat d a b => Sys2Proof.Machine.execIsub h t sat d a b s
  | .imulCompact pred pn d a => Sys2Proof.Machine.execImulCompact pred pn d a s
  | .imul h t d a b => Sys2Proof.Machine.execImul h t d a b s
  | .imad h t sat d a b c => Sys2Proof.Machine.execImad h t sat d a b c s
  | .imulh h t d a b => Sys2Proof.Machine.execImulh h t d a b s
  | .idot4 h az bz sat d a b c => Sys2Proof.Machine.execIdot4 h az bz sat d a b c s
  | .iabs h t sat d a => Sys2Proof.Machine.execIabs h t sat d a s
  | .iminCompact pred pn d a => Sys2Proof.Machine.execIminCompact pred pn d a s
  | .imin h t d a b => Sys2Proof.Machine.execImin h t d a b s
  | .imaxCompact pred pn d a => Sys2Proof.Machine.execImaxCompact pred pn d a s
  | .imax h t d a b => Sys2Proof.Machine.execImax h t d a b s
  | .andCompact pred pn d a => Sys2Proof.Machine.execAndCompact pred pn d a s
  | .and h t d a b => Sys2Proof.Machine.execAnd h t d a b s
  | .orCompact pred pn d a => Sys2Proof.Machine.execOrCompact pred pn d a s
  | .or h t d a b => Sys2Proof.Machine.execOr h t d a b s
  | .xorCompact pred pn d a => Sys2Proof.Machine.execXorCompact pred pn d a s
  | .xor h t d a b => Sys2Proof.Machine.execXor h t d a b s
  | .andnCompact pred pn d a => Sys2Proof.Machine.execAndnCompact pred pn d a s
  | .andn h t d a b => Sys2Proof.Machine.execAndn h t d a b s
  | .shlCompact pred pn d a => Sys2Proof.Machine.execShlCompact pred pn d a s
  | .shl h t d a b => Sys2Proof.Machine.execShl h t d a b s
  | .shrCompact pred pn d a => Sys2Proof.Machine.execShrCompact pred pn d a s
  | .shr h t d a b => Sys2Proof.Machine.execShr h t d a b s
  | .sarCompact pred pn d a => Sys2Proof.Machine.execSarCompact pred pn d a s
  | .sar h t d a b => Sys2Proof.Machine.execSar h t d a b s
  | .bfx h t d a b c => Sys2Proof.Machine.execBfx h t d a b c s
  | .bfi h t d a b c => Sys2Proof.Machine.execBfi h t d a b c s
  | .popc h t d a => Sys2Proof.Machine.execPopc h t d a s
  | .clz h t d a => Sys2Proof.Machine.execClz h t d a s
  | .brev h t d a => Sys2Proof.Machine.execBrev h t d a s
  | .icmp h t cc d a b => Sys2Proof.Machine.execIcmp h t cc d a b s
  | .sel h t d a b c => Sys2Proof.Machine.execSel h t d a b c s
  | .movCompact pred pn d a => Sys2Proof.Machine.execMovCompact pred pn d a s
  | .mov h t d a => Sys2Proof.Machine.execMov h t d a s
  | .li h d a => Sys2Proof.Machine.execLi h d a s
  | .faddCompact pred pn d a => Sys2Proof.Machine.execFaddCompact pred pn d a s
  | .fadd h ft d a b => Sys2Proof.Machine.execFadd h ft d a b s
  | .fsubCompact pred pn d a => Sys2Proof.Machine.execFsubCompact pred pn d a s
  | .fsub h ft d a b => Sys2Proof.Machine.execFsub h ft d a b s
  | .fmulCompact pred pn d a => Sys2Proof.Machine.execFmulCompact pred pn d a s
  | .fmul h ft d a b => Sys2Proof.Machine.execFmul h ft d a b s
  | .ffma h ft d a b c => Sys2Proof.Machine.execFfma h ft d a b c s
  | .fminCompact pred pn d a => Sys2Proof.Machine.execFminCompact pred pn d a s
  | .fmin h ft d a b => Sys2Proof.Machine.execFmin h ft d a b s
  | .fmaxCompact pred pn d a => Sys2Proof.Machine.execFmaxCompact pred pn d a s
  | .fmax h ft d a b => Sys2Proof.Machine.execFmax h ft d a b s
  | .fcmp h ft fc d a b => Sys2Proof.Machine.execFcmp h ft fc d a b s
  | .frnd h ft rms d a => Sys2Proof.Machine.execFrnd h ft rms d a s
  | .fclass h ft d a => Sys2Proof.Machine.execFclass h ft d a s
  | .f2addCompact pred pn d a => Sys2Proof.Machine.execF2addCompact pred pn d a s
  | .f2add h pf d a b => Sys2Proof.Machine.execF2add h pf d a b s
  | .f2mulCompact pred pn d a => Sys2Proof.Machine.execF2mulCompact pred pn d a s
  | .f2mul h pf d a b => Sys2Proof.Machine.execF2mul h pf d a b s
  | .f2fma h pf d a b c => Sys2Proof.Machine.execF2fma h pf d a b c s
  | .fdot2 h pf d a b c => Sys2Proof.Machine.execFdot2 h pf d a b c s
  | .rcpCompact pred pn d a => Sys2Proof.Machine.execRcpCompact pred pn d a s
  | .rcp h d a => Sys2Proof.Machine.execRcp h d a s
  | .rsqCompact pred pn d a => Sys2Proof.Machine.execRsqCompact pred pn d a s
  | .rsq h d a => Sys2Proof.Machine.execRsq h d a s
  | .sqrtCompact pred pn d a => Sys2Proof.Machine.execSqrtCompact pred pn d a s
  | .sqrt h d a => Sys2Proof.Machine.execSqrt h d a s
  | .exp2Compact pred pn d a => Sys2Proof.Machine.execExp2Compact pred pn d a s
  | .exp2 h d a => Sys2Proof.Machine.execExp2 h d a s
  | .log2Compact pred pn d a => Sys2Proof.Machine.execLog2Compact pred pn d a s
  | .log2 h d a => Sys2Proof.Machine.execLog2 h d a s
  | .sinCompact pred pn d a => Sys2Proof.Machine.execSinCompact pred pn d a s
  | .sin h d a => Sys2Proof.Machine.execSin h d a s
  | .cosCompact pred pn d a => Sys2Proof.Machine.execCosCompact pred pn d a s
  | .cos h d a => Sys2Proof.Machine.execCos h d a s
  | .tanhCompact pred pn d a => Sys2Proof.Machine.execTanhCompact pred pn d a s
  | .tanh h d a => Sys2Proof.Machine.execTanh h d a s
  | .cvt h dt st sat sr d a => Sys2Proof.Machine.execCvt h dt st sat sr d a s
  | .qpack h qf d a b => Sys2Proof.Machine.execQpack h qf d a b s
  | .qunpk h qf d a b => Sys2Proof.Machine.execQunpk h qf d a b s
  | .qscale h qf bt d a => Sys2Proof.Machine.execQscale h qf bt d a s
  | .shfl h sm d a b => Sys2Proof.Machine.execShfl h sm d a b s
  | .vote h vm d a => Sys2Proof.Machine.execVote h vm d a s
  | .redux h rop d a => Sys2Proof.Machine.execRedux h rop d a s
  | .scan h rop ex d a => Sys2Proof.Machine.execScan h rop ex d a s
  | .prmt h d a b c => Sys2Proof.Machine.execPrmt h d a b c s
  | .bra h rec_ off => Sys2Proof.Machine.execBra h rec_ off s
  | .reconv h => Sys2Proof.Machine.execReconv h s
  | .fuse h => Sys2Proof.Machine.execFuse h s
  | .dpush h g => Sys2Proof.Machine.execDpush h g s
  | .dpop h g => Sys2Proof.Machine.execDpop h g s
  | .dqpop h g => Sys2Proof.Machine.execDqpop h g s
  | .exit h => Sys2Proof.Machine.execExit h s
  | .bar h a b => Sys2Proof.Machine.execBar h a b s
  | .barm h a => Sys2Proof.Machine.execBarm h a s
  | .arrive h a b => Sys2Proof.Machine.execArrive h a b s
  | .await h a => Sys2Proof.Machine.execAwait h a s
  | .sbar h sc a => Sys2Proof.Machine.execSbar h sc a s
  | .ld h sz ord d a b => Sys2Proof.Machine.execLd h sz ord d a b s
  | .st h sz ord d a b => Sys2Proof.Machine.execSt h sz ord d a b s
  | .lds h sz ord d a b => Sys2Proof.Machine.execLds h sz ord d a b s
  | .sts h sz ord d a b => Sys2Proof.Machine.execSts h sz ord d a b s
  | .atom h op w64 sc d a b => Sys2Proof.Machine.execAtom h op w64 sc d a b s
  | .atomf h op ft sc d a b => Sys2Proof.Machine.execAtomf h op ft sc d a b s
  | .atoms h op w64 sc d a b => Sys2Proof.Machine.execAtoms h op w64 sc d a b s
  | .cas h w64 sc d a b c => Sys2Proof.Machine.execCas h w64 sc d a b c s
  | .fence h k sc => Sys2Proof.Machine.execFence h k sc s
  | .waitst h => Sys2Proof.Machine.execWaitst h s
  | .pref h l2 a b => Sys2Proof.Machine.execPref h l2 a b s
  | .rres h d a => Sys2Proof.Machine.execRres h d a s
  | .rpub h a b => Sys2Proof.Machine.execRpub h a b s
  | .rget h d a => Sys2Proof.Machine.execRget h d a s
  | .rrel h a b => Sys2Proof.Machine.execRrel h a b s
  | .cairn h cm d => Sys2Proof.Machine.execCairn h cm d s
  | .cscrub h a b => Sys2Proof.Machine.execCscrub h a b s
  | .walk h d a => Sys2Proof.Machine.execWalk h d a s
  | .wstat h item d a => Sys2Proof.Machine.execWstat h item d a s
  | .wpause h d a => Sys2Proof.Machine.execWpause h d a s
  | .wresume h d a => Sys2Proof.Machine.execWresume h d a s
  | .wcancel h d a => Sys2Proof.Machine.execWcancel h d a s
  | .hreg h wid a b c => Sys2Proof.Machine.execHreg h wid a b c s
  | .hunreg h a => Sys2Proof.Machine.execHunreg h a s
  | .hdesc h d a => Sys2Proof.Machine.execHdesc h d a s
  | .acld h nw d a b => Sys2Proof.Machine.execAcld h nw d a b s
  | .hret h a => Sys2Proof.Machine.execHret h a s
  | .nopCompact pred pn => Sys2Proof.Machine.execNopCompact pred pn s
  | .nop h => Sys2Proof.Machine.execNop h s
  | .csrr h d csr => Sys2Proof.Machine.execCsrr h d csr s
  | .csrw h csr a => Sys2Proof.Machine.execCsrw h csr a s
  | .time h d => Sys2Proof.Machine.execTime h d s
  | .cyc h d => Sys2Proof.Machine.execCyc h d s
  | .xret h skip => Sys2Proof.Machine.execXret h skip s
  | .sadl h info d a => Sys2Proof.Machine.execSadl h info d a s
  | .sclr h d a => Sys2Proof.Machine.execSclr h d a s
  | .scle h => Sys2Proof.Machine.execScle h s
  | .bkpt h a => Sys2Proof.Machine.execBkpt h a s
  | .trigw h act a => Sys2Proof.Machine.execTrigw h act a s
  | .mark h a => Sys2Proof.Machine.execMark h a s
  | .ccpy conv len glob scr => Sys2Proof.Machine.execCcpy conv len glob scr s
  | .ccpyG conv len glob scr => Sys2Proof.Machine.execCcpyG conv len glob scr s
  | .ccpyD2 conv desc => Sys2Proof.Machine.execCcpyD2 conv desc s
  | .ccpyD3 conv desc => Sys2Proof.Machine.execCcpyD3 conv desc s
  | .cgth i16 desc => Sys2Proof.Machine.execCgth i16 desc s
  | .csct i16 desc => Sys2Proof.Machine.execCsct i16 desc s
  | .cfil len pat scr => Sys2Proof.Machine.execCfil len pat scr s
  | .cfilG len glob pat => Sys2Proof.Machine.execCfilG len glob pat s
  | .cdec blocks src scr => Sys2Proof.Machine.execCdec blocks src scr s
  | .csig ctr val => Sys2Proof.Machine.execCsig ctr val s
  | .csigArrive bar cnt => Sys2Proof.Machine.execCsigArrive bar cnt s
  | .cwat ctr target => Sys2Proof.Machine.execCwat ctr target s
  | .cwatBar bar => Sys2Proof.Machine.execCwatBar bar s
  | .cjmp off => Sys2Proof.Machine.execCjmp off s
  | .createAs rq psalt => Sys2Proof.Machine.execCreateAs rq psalt s
  | .destroyAs rq asid => Sys2Proof.Machine.execDestroyAs rq asid s
  | .map rq asid va len attrs => Sys2Proof.Machine.execMap rq asid va len attrs s
  | .protect rq asid va len attrs => Sys2Proof.Machine.execProtect rq asid va len attrs s
  | .unmap rq asid va len => Sys2Proof.Machine.execUnmap rq asid va len s
  | .place rq asid tab => Sys2Proof.Machine.execPlace rq asid tab s
  | .loadImage rq asid va len => Sys2Proof.Machine.execLoadImage rq asid va len s
  | .start rq asid hdr core staddr ctr ccinc => Sys2Proof.Machine.execStart rq asid hdr core staddr ctr ccinc s
  | .setCairn rq asid mode => Sys2Proof.Machine.execSetCairn rq asid mode s
  | .scrub rq asid list count => Sys2Proof.Machine.execScrub rq asid list count s
  | .attest rq nonce => Sys2Proof.Machine.execAttest rq nonce s
  | .resetVif rq => Sys2Proof.Machine.execResetVif rq s
  | .peerGrant rq dev srcAsid asid base limit => Sys2Proof.Machine.execPeerGrant rq dev srcAsid asid base limit s
  | .halt rq t => Sys2Proof.Machine.execHalt rq t s
  | .resume rq t => Sys2Proof.Machine.execResume rq t s
  | .step rq t => Sys2Proof.Machine.execStep rq t s
  | .inflight rq t most => Sys2Proof.Machine.execInflight rq t most s
  | .route rq line entry => Sys2Proof.Machine.execRoute rq line entry s
  | .ctl rq t val => Sys2Proof.Machine.execCtl rq t val s
  | .engineFaultService actor item d => Sys2Proof.Machine.execEngineFaultService actor item d s
  | .badRequest r => Sys2Proof.Machine.execBadRequest r s
  | .commandComplete => Sys2Proof.Machine.execCommandComplete s
  | .compressionMerge => Sys2Proof.Machine.execCompressionMerge s
  | .readRecord => Sys2Proof.Machine.execReadRecord s
  | .lateFault => Sys2Proof.Machine.execLateFault s
  | .faultServiceResume => Sys2Proof.Machine.execFaultServiceResume s
  | .launchComplete => Sys2Proof.Machine.execLaunchComplete s
  | .placement => Sys2Proof.Machine.execPlacement s
  | .imageRestore => Sys2Proof.Machine.execImageRestore s
  | .saveOutstandingTimeout => Sys2Proof.Machine.execSaveOutstandingTimeout s
  | .imageWrite => Sys2Proof.Machine.execImageWrite s
  | .forcedSave => Sys2Proof.Machine.execForcedSave s
  | .parkshareSwitch => Sys2Proof.Machine.execParkshareSwitch s
  | .swapOut => Sys2Proof.Machine.execSwapOut s
  | .starvationBoost => Sys2Proof.Machine.execStarvationBoost s
  | .fuseTimeout => Sys2Proof.Machine.execFuseTimeout s
  | .barrierWave => Sys2Proof.Machine.execBarrierWave s
  | .upcallDispatch => Sys2Proof.Machine.execUpcallDispatch s
  | .stepStart => Sys2Proof.Machine.execStepStart s
  | .drainHorizon => Sys2Proof.Machine.execDrainHorizon s
  | .saddleStart => Sys2Proof.Machine.execSaddleStart s
  | .saddleOverrun => Sys2Proof.Machine.execSaddleOverrun s
  | .droop => Sys2Proof.Machine.execDroop s
  | .stretchEnd => Sys2Proof.Machine.execStretchEnd s
  | .halvedIssueEnd => Sys2Proof.Machine.execHalvedIssueEnd s
  | .timingError => Sys2Proof.Machine.execTimingError s
  | .ballast => Sys2Proof.Machine.execBallast s
  | .peerUnreachable => Sys2Proof.Machine.execPeerUnreachable s
  | .packageReset => Sys2Proof.Machine.execPackageReset s
  | .traceSample => Sys2Proof.Machine.execTraceSample s
  | .triggerDeassert => Sys2Proof.Machine.execTriggerDeassert s
  | .stepNotIssued => Sys2Proof.Machine.execStepNotIssued s
  | .droppedPacket => Sys2Proof.Machine.execDroppedPacket s
  | .cend => Sys2Proof.Machine.execCend s

end Sys2Proof.Machine
end

