-- ==== Sys2Proof/Machine/Tick.lean ====
section
/-! DEFINITION. What the passing of time does before a turn, and what follows a turn in which an agent has issued
(R29, R30, R123, R126, R355, R459, R460, R469, R471). -/

namespace Sys2Proof.Machine

/-! ## Accounts (R471) -/

/-- The accounts of R471. -/
inductive Account | scrub | fault | exec | iowait | queue
  deriving DecidableEq, Repr

/-- Time added to an account. -/
def Accounts.add (a : Accounts) (k : Account) (ns : Nat) : Accounts :=
  match k with
  | .scrub => { a with scrub := a.scrub + ns }
  | .fault => { a with fault := a.fault + ns }
  | .exec => { a with exec := a.exec + ns }
  | .iowait => { a with iowait := a.iowait + ns }
  | .queue => { a with queue := a.queue + ns }

/-- An actor of a core awaits fault service. -/
def Core.awaits (c : Core) : Bool :=
  c.tgs.any (fun p => p.2.svc.isSome) || c.spur.run = .parkFault || c.ctxs.any (fun p => p.2.faultVa.isSome) ||
  c.queues.any fun p => p.2.declined.isNone && (!p.2.faults.isEmpty || !p.2.late.isEmpty)

/-- The account of a resident launch. -/
def Core.account (c : Core) : Account :=
  if c.spur.scrubbing || c.tgs.any fun p => p.2.scrubbing then .scrub else if c.awaits then .fault else .exec

/-- The account of a launch in a saved image. -/
def Saved.account (v : Saved) : Account :=
  if v.core.awaits then .fault else if v.kind = 2 && v.core.spur.run = .parkLjoin then .iowait else .queue

/-- A launch's time. -/
def Launch.spend (l : Launch) (k : Account) (ns : Nat) : Launch := { l with acct := l.acct.add k ns }
/-- A queued card's time. -/
def Card.spend (ns : Nat) (c : Card) : Card := { c with acct := c.acct.add .queue ns }
/-- A saved image's time. -/
def Img.spend (ns : Nat) (i : Img) : Img :=
  { i with saved := { i.saved with core := { i.saved.core with
      launch := i.saved.core.launch.map fun l => l.spend i.saved.account ns } } }
/-- An ending's time. -/
def Ending.spend (ns : Nat) (e : Ending) : Ending :=
  { e with launch := e.launch.spend (if e.stage = 9 then .scrub else .queue) ns }
/-- A chosen image's time. -/
def Incoming.spend (ns : Nat) : Incoming → Incoming
  | .fresh c => .fresh (c.spend ns)
  | .saved o => .saved o

/-! ## The stall counters of a walk (R355) -/

/-- An instance has a group that awaits service or runs its trap handler. -/
def Core.held (c : Core) (n : Inst) : Bool := (c.members n).any fun k => (c.tg k).svc.isSome || (c.tg k).frame.isSome

/-- The chunk that a context needs next has a slot that is not full. -/
def Ctx.chunkWaits (x : Ctx) : Bool :=
  match x.stepOf x.runStep with
  | some w => !x.chunkFull w (if x.run then x.runKk else 0)
  | none => true

/-- What holds that chunk back awaits service or runs its trap handler. -/
def Core.chunkHeld (c : Core) (i : Nat) : Bool :=
  let x := c.ctx i
  let kk := if x.run then x.runKk else 0
  x.maskFault.isSome ||
  [false, true].any fun b => (x.chunkSlots b x.runStep kk).any fun p =>
    !p.2.faults.isEmpty || c.insts.any fun n => n.up.ctx = i && n.up.kind = (if b then 1 else 0) && n.up.slot = p.1 && c.held n

/-- What holds the bank that a context needs next awaits service or runs its trap handler. -/
def Core.bankHeld (c : Core) (i : Nat) : Bool :=
  c.insts.any fun n => n.up.ctx = i && n.up.kind = 2 && n.up.slot = (c.ctx i).runStep % 2 && c.held n

/-- A context's counters after some local cycles: a wait for a slot and a wait for a bank are counted each (R355, R374), and so are
the parts of both that a fault holds. A PAUSING context has a next chunk while its step runs. -/
def Core.stall (c : Core) (i cyc : Nat) : Ctx :=
  let x := c.ctx i
  let walking := (x.state = xWalking || (x.state = xPausing && x.run)) && (x.run || x.allSteps != some x.runStep)
  let slot := walking && x.chunkWaits && (c.arrays.isNone || c.arrays = some i)
  let bank := walking && !x.run && (x.bank (x.runStep % 2)).st != 0
  let n (b : Bool) : Nat := if b then cyc else 0
  { x with
    pstall := x.pstall + n slot, cstall := x.cstall + n bank
    fstall := x.fstall + n (slot && c.chunkHeld i) + n (bank && c.bankHeld i) }

/-- A context's note of when it became ready (R344): `now` is the cycle that has just ended. -/
def Ctx.noteReady (now : Nat) (x : Ctx) : Ctx :=
  { x with readyAt := if x.ready then x.readyAt <|> some now else none }

/-! ## The passing of time -/

/-- Local cycles of every present cluster moved on, each by its own clock (R30, R448). -/
def State.addCycles (s : State) (l : List Nat) : State :=
  let m := (List.range 4).foldl (fun m c => if s.clusterPresent c then mset 0 m c (mget 0 m c + l.getD c 0) else m) s.cycles
  { s with cycles := m }

/-- A group that is no ready candidate now begins to be one anew (R126). -/
def State.tgTick (s : State) (core : Nat) (p : Nat × Tg) : Nat × Tg :=
  (p.1, if (p.2.readySince = s.cyclesOf core && !p.2.boosted) || s.tgCandidate core p.1 then p.2
    else { p.2 with readySince := s.cyclesOf core, boosted := false })

/-- A core after a turn's time: `s` is the state with the time passed. -/
def State.coreTick (s : State) (t : Turn) (p : Nat × Core) : Nat × Core :=
  let c := p.2
  let c := { c with pend := c.pend.map (Card.spend t.ns) }
  match c.launch with
  | none => (p.1, c)
  | some l =>
    let cyc := t.cyc.getD (clusterOf p.1) 0
    let was := s.cyclesOf p.1 - cyc
    let x0 := (c.stall 0 cyc).noteReady was
    let x1 := (c.stall 1 cyc).noteReady was
    (p.1, { (c.setCtx 0 x0).setCtx 1 x1 with
      launch := some (l.spend c.account t.ns)
      tgs := c.tgs.map (s.tgTick p.1)
      idleSince := if s.idleCore p.1 then c.idleSince else s.cyclesOf p.1 })

/-- What time does to everything that waits. -/
def State.elapse (s : State) (t : Turn) : State :=
  { s with
    cores := s.cores.map (s.coreTick t)
    clq := s.clq.map fun e => (e.1, e.2.spend t.ns)
    starts := s.starts.map (Card.spend t.ns)
    frsHeld := s.frsHeld.map fun h => (h.1, h.2.add (if s.ordered h.1.via then .queue else .iowait) t.ns)
    incoming := s.incoming.map fun x => (x.1, x.2.spend t.ns)
    images := s.images.map (Img.spend t.ns)
    endings := s.endings.map (Ending.spend t.ns)
    ballast := dueAt s.refTime s.ballast }

/-- The state as a turn begins: the turn is counted, its time has passed, and resets that can end have ended. -/
def State.begin (s : State) (t : Turn) : State :=
  (((({ s with agenda := s.agenda.drop 1, turns := s.turns + 1, refTime := s.refTime + t.ns } : State).addCycles t.cyc).elapse
    t).resetsGo)

/-! ## After a turn -/

/-- The actor of an agent. -/
def Who.actor : Who → Nat
  | .spur c => spurActor c
  | .tg c k _ => tgActor c k
  | .queue c q => queueActor c q
  | .none => 0

/-- An issue slot of a partition has been used (R126): epochs are of 64 slots, each samples H as it begins (R166), and a gang whose
members issue together uses one, with its lowest member. -/
def Core.countSlot (c : Core) (k : Nat) : Core :=
  let t := c.tg k
  let lead := t.gang.all fun j => let u := c.tg j; k ≤ j || !(u.alive && t.mate u && u.strand = t.strand)
  if !lead then c
  else
    let e := mget {} c.epochs (k / 16)
    let n := e.slots + 1
    let e' : Epoch := if n = 64 then ⟨0, 0, (c.csr.hshare.extractLsb' 0 7).toNat⟩
      else { e with slots := n, handlers := if t.handler.isSome then e.handlers + 1 else e.handlers }
    { c with epochs := mset {} c.epochs (k / 16) e' }

/-- The agent has issued an instruction or taken a trap. -/
def State.moved (s t : State) (w : Who) : Bool :=
  match w with
  | .tg c k _ => (s.actor (tgActor c k)).pos != (t.actor (tgActor c k)).pos || trapTaken (s.tg c k) (t.tg c k)
  | .spur c => (s.actor (spurActor c)).pos != (t.actor (spurActor c)).pos ||
      ((s.core c).spur.run != .parkFault && (t.core c).spur.run = .parkFault)
  | .queue _ _ | .none => false

/-- The replies to STEP requests of an actor that has issued (R469). -/
def State.stepReplies (s : State) (a : Nat) : State :=
  let js := s.stepJobs.filter fun j => j.actor = a
  js.foldl (fun s j => s.replyUet j.rq 0 0 0 []) { s with stepJobs := s.stepJobs.filter fun j => j.actor != a }

/-- The arm of a turn. -/
def Who.arm : Who → Bool
  | .tg _ _ arm => arm
  | .spur _ | .queue _ _ | .none => false

/-- What follows a turn of an agent, `s` before it and `t` after it: an agent that has issued is no longer starved, has made
its step, and starts a new instruction's count of timing errors. -/
def State.afterTurn (s t : State) (w : Who) : State :=
  if !s.moved t w then t
  else
    let a := w.actor
    let t := match w with
      | .tg c k _ => if (t.tg c k).used then
          (t.onCore c fun x => x.countSlot k).onTg c k fun g =>
            { g with boosted := false, stepReq := false, readySince := t.cyclesOf c } else t
      | .spur c => t.onSpur c fun p => { p with stepReq := false }
      | .queue _ _ | .none => t
    ({ t with retries := mset 0 t.retries (retryKey a w.arm) 0 } : State).stepReplies a

end Sys2Proof.Machine
end

