-- ==== Sys2Proof/Machine/Turn.lean ====
section
/-! DEFINITION. What a turn of the schedule moves: an agent's issue, an event, a request, or firmware's next instruction
(R34, R39, R415, R418). -/

namespace Sys2Proof.Machine

/-- An outcome followed by what comes after it. -/
def thenDo (f : State → State) : Host.Outcome State Fault Refusal → Host.Outcome State Fault Refusal
  | .next s => .next (f s)
  | .fault r => .fault r
  | .refused r => .refused r

/-- An agent's turn: fetch, decode, and the instruction's meaning when the agent may issue it. Where a saddle has come in
its window, that meaning counts only as far as a trap of its own goes before the crossing (R442). -/
def issue (w : Who) (s : State) : Host.Outcome State Fault Refusal :=
  match s.ready w with
  | .no => .next s
  | .stop t => .next (s.afterTurn t w)
  | .go i t => thenDo (fun u => s.afterTurn u w) (exec i { t with who := w })
  | .cross i t => thenDo (fun u => s.afterTurn (s.crossOr w u) w) (exec i { t with who := w })

/-- What a turn moves. -/
def runMove (m : Move) (s : State) : Host.Outcome State Fault Refusal :=
  match m with
  | .spur c => issue (.spur c) s
  | .tg c k arm => issue (.tg c k arm) s
  | .queue c q => issue (.queue c q) s
  | .event i a b => exec i { s with who := .none, subj := (a, b) }
  | .request vif via ws => exec (decodeReq vif via ws) { s with who := .none }
  | .firmware c i => exec i { s with who := .spur c }

end Sys2Proof.Machine
end

