-- ==== Sys2Proof/Machine/Step.lean ====
section
/-! DEFINITION. One step of the device: a turn of the schedule (R34, R39). -/

namespace Sys2Proof.Machine

/-- One step: the next turn of the agenda, or a free one. -/
def step (s : State) : Host.Outcome State Fault Refusal :=
  let t := s.nextTurn
  runMove t.move (s.begin t)

/-- The state with an instruction placed where the next step fetches: VA 0 of address space 1 on core 0, with an agenda
that issues TG slot 0, or the Spur for a Spur instruction. -/
def State.withFetchWord (s : State) (nbits w : Nat) : State :=
  s.placeProgram nbits w

end Sys2Proof.Machine
end

