-- ==== Sys2Proof/Safety.lean ====
section
/-! DEFINITION. What the claims are stated in: the forms of state that every step is to keep, what a step may touch, and
the state of an agent that is about to issue. -/

namespace Sys2Proof.Machine

/-! ## Forms of state -/

/-- The home memory of the device, and of its peers, is in the canonical form. -/
abbrev State.memOk (s : State) : Bool := Memory.wf s.mem && Memory.wf s.peerMem

/-- The Spur's hard-wired register reads zero (R112). -/
abbrev Spur.zeroOk (p : Spur) : Bool := p.reg 0 == 0

/-! ## What a step leaves alone -/

/-- Everything of the device but its cores and actors is as it was: memory, damage, address spaces, the front end, time. -/
def KeepsDevice (s t : State) : Prop := t = { s with cores := t.cores, actors := t.actors }

/-- Every core but one is as it was. -/
def KeepsOtherCores (s t : State) (c : Nat) : Prop := ∀ k, k ≠ c → t.core k = s.core k

/-- Every actor but one is as it was. -/
def KeepsOtherActors (s t : State) (a : Nat) : Prop := ∀ b, b ≠ a → t.actor b = s.actor b

/-- Every byte of home memory, of the peers' memory and of every scratchpad reads as it did. -/
def KeepsBytes (s t : State) : Prop :=
  (∀ a, t.byteAt a = s.byteAt a) ∧ (∀ a, mget 0 t.peerMem a = mget 0 s.peerMem a) ∧
  (∀ c off, mget 0 (t.core c).scratch off = mget 0 (s.core c).scratch off)

/-- A step of a core's Spur: the Spur becomes `p`, its actor becomes `x`, and nothing else changes. -/
def SpurActs (s t : State) (c : Nat) (p : Spur) (x : Actor) : Prop :=
  KeepsDevice s t ∧ KeepsOtherCores s t c ∧ KeepsOtherActors s t (spurActor c) ∧
  t.core c = { s.core c with spur := p } ∧ t.actor (spurActor c) = x

/-- A step of a group: the group becomes `g`, its actor becomes `x`, and nothing else changes. -/
def TgActs (s t : State) (c k : Nat) (g : Tg) (x : Actor) : Prop :=
  KeepsDevice s t ∧ KeepsOtherCores s t c ∧ KeepsOtherActors s t (tgActor c k) ∧
  t.core c = { s.core c with tgs := (t.core c).tgs } ∧ (∀ j, j ≠ k → t.tg c j = s.tg c j) ∧
  t.tg c k = g ∧ t.actor (tgActor c k) = x

/-- An actor that has issued one more instruction. -/
def Actor.issued (x : Actor) : Actor := { x with pos := x.pos + 1 }

/-- The Spur at the instruction after its own. -/
def Spur.past (p : Spur) (units : Nat) (q : Spur) : Spur := { q with pc := p.pc + BitVec.ofNat 64 (4 * units) }

/-- A group whose arm goes on at a PC. -/
def Tg.goesTo (g : Tg) (arm : Bool) (pc : DWord) : Tg := { (g.setArmPc arm pc).setPark arm .ready with replaying := false }

/-- A group past its arm's instruction, `q` holding the registers that the instruction leaves. -/
def Tg.past (g : Tg) (arm : Bool) (units : Nat) (q : Tg) : Tg := q.goesTo arm (g.armPc arm + BitVec.ofNat 64 (4 * units))

/-! ## An agent that is about to issue -/

/-- A core's Spur is in RUN and it is its turn. -/
def SpurTurn (s : State) (c : Nat) : Prop := s.who = .spur c ∧ (s.core c).spur.run = .run

/-- It is the turn of an arm of a resident group. -/
def TgTurn (s : State) (c k : Nat) (arm : Bool) : Prop := s.who = .tg c k arm ∧ (s.tg c k).used = true

end Sys2Proof.Machine
end

