-- ==== Sys2Proof/Certificates/Slice0/Obligations.lean ====
section
/-! DEFINITION. The claims about the device, each formalising rules of spec/. -/

open Sys2Proof Sys2Proof.Machine

/-! ## Spur arithmetic and logic -/

namespace Sys2Proof.Machine

/-- A result of the width W: the 64-bit one, or the 32-bit one extended as W says (R140). -/
def byWidth (w : SW) (wide : DWord) (narrow : Word) : DWord :=
  match w with
  | .s64 | .z64 => wide
  | .s32 => narrow.signExtend 64
  | .z32 => narrow.setWidth 64

/-- The low half of a register. -/
def lowHalf (x : DWord) : Word := x.setWidth 32

/-- The smaller (or with `big` the greater) of two values of a width, read as W says. -/
def pickBy (w : SW) (big : Bool) (x y : DWord) : DWord :=
  match w with
  | .s64 => if x.slt y != big then x else y
  | .z64 => if x.ult y != big then x else y
  | .s32 => (if (lowHalf x).slt (lowHalf y) != big then lowHalf x else lowHalf y).signExtend 64
  | .z32 => (if (lowHalf x).ult (lowHalf y) != big then lowHalf x else lowHalf y).setWidth 64

/-- The high half of a product, read as W says. -/
def highProduct (w : SW) (x y : DWord) : DWord :=
  match w with
  | .s64 => (x.signExtend 128 * y.signExtend 128).extractLsb' 64 64
  | .z64 => (x.setWidth 128 * y.setWidth 128).extractLsb' 64 64
  | .s32 => (((lowHalf x).signExtend 64 * (lowHalf y).signExtend 64).extractLsb' 32 32).signExtend 64
  | .z32 => (((lowHalf x).setWidth 64 * (lowHalf y).setWidth 64).extractLsb' 32 32).setWidth 64

/-- A member of R145 as its table gives it, for the source values `x` and `y`; `none` for any other instruction. The second
part is the instruction's header and destination. -/
def spurMember : Instr → Option (Hd × Dst × Src × Src × (DWord → DWord → DWord))
  | .add h w d a b => some (h, d, a, b, fun x y => byWidth w (x + y) (lowHalf x + lowHalf y))
  | .sub h w d a b => some (h, d, a, b, fun x y => byWidth w (x - y) (lowHalf x - lowHalf y))
  | .mul h w d a b => some (h, d, a, b, fun x y => byWidth w (x * y) (lowHalf x * lowHalf y))
  | .mulh h w d a b => some (h, d, a, b, highProduct w)
  | .spurAnd h w d a b => some (h, d, a, b, fun x y => byWidth w (x &&& y) (lowHalf x &&& lowHalf y))
  | .spurOr h w d a b => some (h, d, a, b, fun x y => byWidth w (x ||| y) (lowHalf x ||| lowHalf y))
  | .spurXor h w d a b => some (h, d, a, b, fun x y => byWidth w (x ^^^ y) (lowHalf x ^^^ lowHalf y))
  | .spurAndn h w d a b => some (h, d, a, b, fun x y => byWidth w (x &&& ~~~y) (lowHalf x &&& ~~~lowHalf y))
  | .spurShl h w d a b => some (h, d, a, b, fun x y => byWidth w (x <<< (y.toNat % 64)) (lowHalf x <<< (y.toNat % 32)))
  | .spurShr h w d a b => some (h, d, a, b, fun x y => byWidth w (x >>> (y.toNat % 64)) (lowHalf x >>> (y.toNat % 32)))
  | .spurSar h w d a b =>
    some (h, d, a, b, fun x y => byWidth w (x.sshiftRight (y.toNat % 64)) ((lowHalf x).sshiftRight (y.toNat % 32)))
  | .rot h w d a b =>
    some (h, d, a, b, fun x y => byWidth w (x.rotateLeft (y.toNat % 64)) ((lowHalf x).rotateLeft (y.toNat % 32)))
  | .min h w d a b => some (h, d, a, b, pickBy w false)
  | .max h w d a b => some (h, d, a, b, pickBy w true)
  | .spurClz h w d a => some (h, d, a, a, fun x _ => byWidth w x.clz (lowHalf x).clz)
  | .spurPopc h w d a => some (h, d, a, a, fun x _ => byWidth w x.cpop (lowHalf x).cpop)
  | .spurMov h w d a => some (h, d, a, a, fun x _ => byWidth w x (lowHalf x))
  | _ => none

/-- The quotient or remainder of R146 at one width: truncated division, and its answer for a divisor of zero. -/
def divided {n : Nat} (sg rem : Bool) (x y : BitVec n) : BitVec n :=
  if y = 0 then (if rem then x else BitVec.allOnes n)
  else match sg, rem with
    | true, false => x.sdiv y
    | true, true => x.srem y
    | false, false => x / y
    | false, true => x % y

/-- A field of `n` bits at a position, moved to the bottom and extended (R147). -/
def fieldOf {n : Nat} (sg : Bool) (x : BitVec n) (pos len : Nat) : BitVec n :=
  if len = 0 then 0
  else if sg then (x <<< (n - pos - len)).sshiftRight (n - len) else (x <<< (n - pos - len)) >>> (n - len)

/-- A field of `n` bits put into another value at a position (R147). -/
def fieldPut {n : Nat} (t x : BitVec n) (pos len : Nat) : BitVec n :=
  let m : BitVec n := (BitVec.allOnes n >>> (n - len)) <<< pos
  if len = 0 then t else (t &&& ~~~m) ||| ((x <<< pos) &&& m)

/-- Position and length of R147 for a width. -/
def fieldSpan (n : Nat) (b c : DWord) : Nat × Nat := (b.toNat % n, min (c.toNat % 128) (n - b.toNat % n))

/-- Whether W reads its operands as signed (R140). -/
def readsSigned (w : SW) : Bool := match w with | .s64 | .s32 => true | .z32 | .z64 => false

/-- The condition of R150 on the values a W names. -/
def holdsBy (w : SW) (cc : CC) (x y : DWord) : Bool :=
  let wide := match w with | .s64 | .z64 => true | .s32 | .z32 => false
  let eq := if wide then x == y else lowHalf x == lowHalf y
  let lt := match w with
    | .s64 => x.slt y
    | .z64 => x.ult y
    | .s32 => (lowHalf x).slt (lowHalf y)
    | .z32 => (lowHalf x).ult (lowHalf y)
  match cc with
  | .eq => eq
  | .ne => !eq
  | .lt => lt
  | .le => lt || eq
  | .gt => !(lt || eq)
  | .ge => !lt
  | .tst => if wide then x &&& y != 0 else lowHalf x &&& lowHalf y != 0

/-- The remaining scalar members with a register result (R146 to R150): header, destination, and the value from the Spur's
registers. -/
def spurOther (p : Spur) : Instr → Option (Hd × Dst × DWord)
  | .divs h w rem d a b =>
    let x := p.src h.lit a; let y := p.src h.lit b
    some (h, d, byWidth w (divided true rem x y) (divided true rem (lowHalf x) (lowHalf y)))
  | .divz h w rem d a b =>
    let x := p.src h.lit a; let y := p.src h.lit b
    some (h, d, byWidth w (divided false rem x y) (divided false rem (lowHalf x) (lowHalf y)))
  | .spurBfx h w d a b c =>
    let x := p.src h.lit a; let f := fieldSpan 64 (p.src h.lit b) (p.src h.lit c); let g := fieldSpan 32 (p.src h.lit b) (p.src h.lit c)
    some (h, d, byWidth w (fieldOf (readsSigned w) x f.1 f.2) (fieldOf (readsSigned w) (lowHalf x) g.1 g.2))
  | .spurBfi h w d a b c =>
    let x := p.src h.lit a; let f := fieldSpan 64 (p.src h.lit b) (p.src h.lit c); let g := fieldSpan 32 (p.src h.lit b) (p.src h.lit c)
    let t := p.reg d.toNat
    some (h, .main d, byWidth w (fieldPut t x f.1 f.2) (fieldPut (lowHalf t) (lowHalf x) g.1 g.2))
  | .lea h sh d a b c => some (h, d, p.src h.lit a + p.src h.lit b * (1 <<< sh.toNat) + p.src h.lit c)
  | .spurSel h d a b c => some (h, d, if p.src h.lit c = 0 then p.src h.lit b else p.src h.lit a)
  | .spurLi h w hi d a =>
    let x := p.src h.lit a
    some (h, .main d, if hi then lowHalf x ++ lowHalf (p.reg d.toNat) else byWidth w x (lowHalf x))
  | .cmp h w cc d a b => some (h, d, if holdsBy w cc (p.src h.lit a) (p.src h.lit b) then 1 else 0)
  | _ => none

/-- The header of a scalar instruction that only writes its destination. -/
def spurCalcHead (p : Spur) (i : Instr) : Option (Hd × Dst) :=
  match spurMember i, spurOther p i with
  | some (h, d, _), _ => some (h, d)
  | _, some (h, d, _) => some (h, d)
  | _, _ => none

/-- The Spur after a turn in which it writes a destination: its PC stands at the next instruction. -/
def Spur.wrote (p : Spur) (h : Hd) (d : Dst) (v : DWord) : Spur := p.past (hdLen h) (p.put d v)

end Sys2Proof.Machine

/-- R145. Every two-source and one-source member gives its destination the value of R145's table at the width and signedness of
W, and the Spur goes on at the next instruction; nothing else of the machine changes. -/
def Sys2Proof.Claims.SpurMembersCompute : Prop :=
  ∀ (i : Instr) (h : Hd) (d : Dst) (a b : Src) (f : DWord → DWord → DWord) (s : State) (c : Nat),
    spurMember i = some (h, d, a, b, f) → SpurTurn s c → (s.core c).spur.guard h = true →
    ∃ t, exec i s = .next t ∧
      SpurActs s t c ((s.core c).spur.wrote h d (f ((s.core c).spur.src h.lit a) ((s.core c).spur.src h.lit b)))
        (s.actor (spurActor c)).issued

/-- R146 to R150. Division, fields, LEA, SEL, LI and CMP give their destination the value of their rules. -/
def Sys2Proof.Claims.SpurDivisionFieldsAndCompare : Prop :=
  ∀ (i : Instr) (h : Hd) (d : Dst) (v : DWord) (s : State) (c : Nat),
    spurOther (s.core c).spur i = some (h, d, v) → SpurTurn s c → (s.core c).spur.guard h = true →
    ∃ t, exec i s = .next t ∧ SpurActs s t c ((s.core c).spur.wrote h d v) (s.actor (spurActor c)).issued

/-- R72. A scalar instruction whose guard is false passes as if it were a NOP: only the PC moves. -/
def Sys2Proof.Claims.SpurGuardFalseSkips : Prop :=
  ∀ (i : Instr) (h : Hd) (d : Dst) (s : State) (c : Nat),
    spurCalcHead (s.core c).spur i = some (h, d) → SpurTurn s c → (s.core c).spur.guard h = false →
    ∃ t, exec i s = .next t ∧
      SpurActs s t c ((s.core c).spur.past (hdLen h) (s.core c).spur) (s.actor (spurActor c)).issued

/-- The frame of the scalar instructions: whenever one answers a next state in the Spur, every `s` register but the
destination, every `q` register but the destination, the Spur's FPCTL, every other core's state, this core's groups, control
registers, contexts and queues, and every byte of memory are as they were; and `s0` reads zero after it too. -/
def Sys2Proof.Claims.SpurScalarLeavesTheRest : Prop :=
  ∀ (i : Instr) (h : Hd) (d : Dst) (s t : State) (c : Nat),
    spurCalcHead (s.core c).spur i = some (h, d) → SpurTurn s c → exec i s = .next t →
    (∀ n : Nat, d ≠ .main (BitVec.ofNat 8 n) → n < 256 → (t.core c).spur.reg n = (s.core c).spur.reg n) ∧
    (∀ n : Fin 7, d ≠ .pred n → (t.core c).spur.qreg n.val = (s.core c).spur.qreg n.val) ∧
    (t.core c).spur.reg 0 = 0 ∧ (t.core c).spur.fpctl = (s.core c).spur.fpctl ∧
    (t.core c).tgs = (s.core c).tgs ∧ (t.core c).csr = (s.core c).csr ∧ (t.core c).ctxs = (s.core c).ctxs ∧
    (t.core c).queues = (s.core c).queues ∧
    KeepsOtherCores s t c ∧ KeepsBytes s t

/-- R145 to R150. Every scalar member gives its destination the value of its rule at the width and signedness of W, and the Spur goes
on at the next instruction; nothing else of the machine changes. -/
def Obligations.SpurScalarComputes : Prop :=
  Claims.SpurMembersCompute ∧ Claims.SpurDivisionFieldsAndCompare

/-- R72, R112. A scalar instruction whose guard is false moves only the PC; one that runs changes no register but its destination, and
`s0` reads zero after it. -/
def Obligations.SpurScalarFrame : Prop :=
  Claims.SpurGuardFalseSkips ∧ Claims.SpurScalarLeavesTheRest
/-! ## Spur control flow and memory -/

namespace Sys2Proof.Machine

/-- The PC of the instruction after one with a header. -/
def Spur.follow (p : Spur) (h : Hd) : DWord := p.pc + BitVec.ofNat 64 (4 * hdLen h)

/-- A target that a transfer may take: the top byte and the two low bits are zero (R151, R152). -/
def legalTarget (t : DWord) : Prop := t &&& 0xFF00000000000003 = 0

/-- The transfers of R151 and R152 that go to a target: the header, the target, and the Spur with the registers that the
transfer leaves. A LOOPN that falls through is none of them. -/
def spurTransfer (p : Spur) : Instr → Option (Hd × DWord × Spur)
  | .br h off => some (h, p.follow h + 4 * off.signExtend 64, p)
  | .call h d off => some (h, p.follow h + 4 * off.signExtend 64, p.setReg d.toNat (p.follow h))
  | .loopn h d off =>
    if p.reg d.toNat = 0 ∨ p.reg d.toNat = 1 then none
    else some (h, p.follow h + 4 * off.signExtend 64, p.setReg d.toNat (p.reg d.toNat - 1))
  | .jmp h d a => some (h, p.src h.lit a, p.setReg d.toNat (p.follow h))
  | .ret h a => some (h, p.src h.lit a, p)
  | _ => none

/-- An actor with a load more in its pending loads, one instruction on. -/
def Actor.withLoad (x : Actor) (l : Load) : Actor := { x with pos := x.pos + 1, loads := x.loads ++ [l] }

/-- An actor with an entry more at the tail of its store queue, one instruction on. -/
def Actor.withEntry (x : Actor) (e : Entry) : Actor :=
  { x with pos := x.pos + 1, storeQ := x.storeQ ++ [e], unacked := x.unacked + 1 }

/-- The bytes of a Spur access of each size (R153). -/
def sizeOfSpur (sz : SSz) : Nat := match sz with | .b64 => 8 | .s8 | .z8 => 1 | .s16 | .z16 => 2 | .s32 | .z32 => 4

/-- An address of the Spur that names a place for an access of some bytes: aligned, in one of the spaces of R142, with no wait
on a scratch line of an address space that it may name (R23), and in the domain window only on a device with peer links. -/
def SpurReaches (s : State) (c size : Nat) (ea : DWord) (pl : Place) : Prop :=
  decodeEa c (s.asidOf c) ea = .ok pl ∧ ea.toNat % size = 0 ∧ s.bitWaits c pl = false ∧
  (s.hasPeer = true ∨ ∀ a v, pl ≠ .win a v)

/-- A Spur store at a place may leave, `held` where it holds the Spur until it has been acknowledged (R143): its own scratchpad
undamaged, or a mapped global page that grants the write, with the Spur's view copy granting it too; a Cairn line, a line that an
engine owns, another core's scratchpad and the window are judged later. -/
def StoreLeaves (s : State) (c : Nat) (pl : Place) (held : Bool) : Prop :=
  match pl with
  | .scr k off => if k = c then s.damaged (.scr k off) = false ∧ held = false else held = true
  | .win _ _ => held = true
  | .glob asid va =>
    (∀ k, (s.core c).copy asid (va / 128) = some k → s.eligible pl = true → k.pw = true) ∧
    ∃ l, s.locGlob .wr asid va = .ok l ∧
      match l with
      | .phys p =>
        if p.k then held = true
        else s.damaged (.phys p) = false ∧ held = s.ownedByOther (spurActor c) (.phys p)
      | _ => held = true

/-- The units that an ordering kind needs are there: `.dom` asks for peer links (R4). -/
def OrdPresent (s : State) (o : Ord) : Prop := o = .sync .dom → s.hasPeer = true

end Sys2Proof.Machine

/-- R151, R152. BR, CALL, LOOPN with a count above 1, JMP and RET go to their target with the link or the count written, and
nothing else changes. -/
def Sys2Proof.Claims.SpurTransfersGo : Prop :=
  ∀ (i : Instr) (h : Hd) (target : DWord) (q : Spur) (s : State) (c : Nat),
    spurTransfer (s.core c).spur i = some (h, target, q) → SpurTurn s c → (s.core c).spur.guard h = true →
    legalTarget target →
    ∃ t, exec i s = .next t ∧ SpurActs s t c { q with pc := target } (s.actor (spurActor c)).issued

/-- R151, R152. A transfer to a target that is misaligned or has a nonzero top byte takes MISALIGNED at the branching
instruction: no register is written, the Spur enters PARK_FAULT and its frame records the PC, the cause and the target. -/
def Sys2Proof.Claims.SpurMisalignedTransferTraps : Prop :=
  ∀ (i : Instr) (h : Hd) (target : DWord) (q : Spur) (s : State) (c : Nat),
    spurTransfer (s.core c).spur i = some (h, target, q) → SpurTurn s c → (s.core c).spur.guard h = true →
    ¬ legalTarget target →
    ∃ t, exec i s = .next t ∧ (t.core c).spur.run = .parkFault ∧
      (t.core c).spur.frame = some ⟨(s.core c).spur.pc, 0x08, target, none, (s.core c).spur.pc⟩ ∧
      (t.core c).spur.pc = (s.core c).spur.pc ∧ (t.core c).spur.s = (s.core c).spur.s ∧
      (t.core c).spur.q = (s.core c).spur.q ∧ (∀ a, t.actor a = s.actor a)

/-- R151. LOOPN at a count of 0 or 1 leaves the counter 0 and goes on at the next instruction, whatever its target: that a target
which is not taken is not checked is the model's choice (log 91). -/
def Sys2Proof.Claims.LoopnFallsThrough : Prop :=
  ∀ (h : Hd) (d : BitVec 8) (off : BitVec 20) (s : State) (c : Nat),
    SpurTurn s c → (s.core c).spur.guard h = true →
    ((s.core c).spur.reg d.toNat = 0 ∨ (s.core c).spur.reg d.toNat = 1) →
    ∃ t q, exec (.loopn h d off) s = .next t ∧
      SpurActs s t c ((s.core c).spur.past (hdLen h) q) (s.actor (spurActor c)).issued ∧
      (q = (s.core c).spur ∨ q = (s.core c).spur.setReg d.toNat 0) ∧
      ((s.core c).spur.reg d.toNat = 1 → q = (s.core c).spur.setReg d.toNat 0)

/-- R153. SLD at a readable address joins the Spur's pending loads as one load of its size at that place, with the Spur held
until the value returns; no register and no memory changes at the issue. -/
def Sys2Proof.Claims.SldIssuesALoad : Prop :=
  ∀ (h : Hd) (sz : SSz) (ord : Ord) (d : Dst) (a b : Src) (s : State) (c : Nat) (pl : Place),
    SpurTurn s c → (s.core c).spur.guard h = true → OrdPresent s ord →
    SpurReaches s c (sizeOfSpur sz) ((s.core c).spur.src h.lit a + (s.core c).spur.src h.lit b) pl →
    ∃ t l, exec (.sld h sz ord d a b) s = .next t ∧
      SpurActs s t c { (s.core c).spur with busy := some ((s.actor (spurActor c)).pos + 1, (s.core c).spur.follow h) }
        ((s.actor (spurActor c)).withLoad l) ∧
      l.bytes = sizeOfSpur sz ∧ l.lanes = [⟨0, pl⟩] ∧ l.dest = ⟨d, .spurLd sz⟩ ∧
      l.acc.actor = spurActor c ∧ l.acc.pos = (s.actor (spurActor c)).pos + 1 ∧ l.acc.ipc = (s.core c).spur.pc ∧
      (l.acc.acq = true ↔ ord ≠ .plain)

/-- R41, R143, R153. SST whose release is satisfied, to any place that it may write, puts one store of the low bytes of its register
at the tail of the store queue, and a releasing one publishes. Where the checks that R143 names before it leaves are all
done, the Spur goes on; where verdicts are still to come, it stays until the store has been acknowledged. No byte of memory changes
at the issue. -/
def Sys2Proof.Claims.SstIssuesAStore : Prop :=
  ∀ (h : Hd) (sz : SSz) (ord : Ord) (d : BitVec 8) (a b : Src) (s : State) (c : Nat) (pl : Place) (held : Bool),
    SpurTurn s c → (s.core c).spur.guard h = true → OrdPresent s ord →
    SpurReaches s c (sizeOfSpur sz) ((s.core c).spur.src h.lit a + (s.core c).spur.src h.lit b) pl →
    StoreLeaves s c pl held →
    (∀ sc, ord = .sync sc → s.releaseReady (spurActor c) ((s.actor (spurActor c)).pos + 1) sc = true) →
    ∃ t e, exec (.sst h sz ord d a b) s = .next t ∧
      (t.actor (spurActor c)).storeQ = (s.actor (spurActor c)).storeQ ++ [e] ∧
      e.place = pl ∧ e.eff = .store (leBytes (sizeOfSpur sz) ((s.core c).spur.reg d.toNat).toNat) ∧
      e.acc.actor = spurActor c ∧ e.acc.pos = (s.actor (spurActor c)).pos + 1 ∧ (e.acc.rel = true ↔ ord ≠ .plain) ∧
      (t.actor (spurActor c)).pos = (s.actor (spurActor c)).pos + 1 ∧
      (t.actor (spurActor c)).unacked = (s.actor (spurActor c)).unacked + 1 ∧
      (t.actor (spurActor c)).clk = (if ord = .plain then (s.actor (spurActor c)).clk else (s.actor (spurActor c)).clk + 1) ∧
      (t.core c).spur =
        (if held then { (s.core c).spur with busy := some ((s.actor (spurActor c)).pos + 1, (s.core c).spur.follow h) }
         else (s.core c).spur.past (hdLen h) (s.core c).spur) ∧
      KeepsOtherCores s t c ∧ KeepsOtherActors s t (spurActor c) ∧ KeepsBytes s t

/-- R41, R154. SAMO whose release condition holds puts one atomic at the tail of the Spur's store queue at its address and
publishes; the Spur is held until the old value returns, and no byte of memory changes at the issue. -/
def Sys2Proof.Claims.SamoIssuesAnAtomic : Prop :=
  ∀ (h : Hd) (op : SAop) (w : SW) (sc : Scope) (d : Dst) (a b : Src) (cc : Option Src) (s : State) (c : Nat) (pl : Place),
    SpurTurn s c → (s.core c).spur.guard h = true → (sc = .dom → s.hasPeer = true) →
    SpurReaches s c (match w with | .s64 | .z64 => 8 | .s32 | .z32 => 4) ((s.core c).spur.src h.lit a) pl →
    (op = .cas → ∀ k off, pl ≠ .scr k off) →
    s.releaseReady (spurActor c) ((s.actor (spurActor c)).pos + 1) sc = true →
    ∃ t e, exec (.samo h op w sc d a b cc) s = .next t ∧
      (t.actor (spurActor c)).storeQ = (s.actor (spurActor c)).storeQ ++ [e] ∧
      e.place = pl ∧ e.dest = some ⟨d, .spurAt w⟩ ∧
      (∃ o n x, e.eff = .rmw o n [⟨0, (s.core c).spur.src h.lit b, x⟩] ∧
        n = (match w with | .s64 | .z64 => 8 | .s32 | .z32 => 4) ∧
        x = (match cc with | some y => (s.core c).spur.src h.lit y | none => 0)) ∧
      (t.actor (spurActor c)).clk = (s.actor (spurActor c)).clk + 1 ∧
      (t.core c).spur = { (s.core c).spur with busy := some ((s.actor (spurActor c)).pos + 1, (s.core c).spur.follow h) } ∧
      KeepsOtherCores s t c ∧ KeepsOtherActors s t (spurActor c) ∧ KeepsBytes s t

/-- R151, R152. BR, CALL, LOOPN, JMP and RET go to their legal target, or take MISALIGNED there with nothing written; LOOPN at a
count of 0 or 1 falls through. Two parts are the model's readings: that a LOOPN which falls through does not check its target (log
91), and that the frame's address is the target (log 16). -/
def Obligations.SpurTransfersControl : Prop :=
  Claims.SpurTransfersGo ∧ Claims.SpurMisalignedTransferTraps ∧ Claims.LoopnFallsThrough

/-- R41, R143, R153 to R155. SLD, SST and SAMO at a place that they may reach, be it scratch, global or in the window, issue their
access at the Spur's position. -/
def Obligations.SpurAccessesIssue : Prop :=
  Claims.SldIssuesALoad ∧ Claims.SstIssuesAStore ∧ Claims.SamoIssuesAnAtomic
/-! ## Lane integer instructions -/

namespace Sys2Proof.Machine

/-- A lane instruction with a result per thread: header, length in units, whether the result is 64 bits wide, destination, the
value of a thread, and whether a thread's operands are legal. -/
structure LaneOp where
  h : Hd
  units : Nat
  wide : Bool
  d : Dst
  val : Tg → Nat → DWord
  legal : Tg → Nat → Bool := fun _ _ => true

/-- Bits of a lane integer type. -/
def bitsOf (t : LT) : Nat := match t with | .s32 | .z32 => 32 | .s64 | .z64 => 64

/-- Whether a lane integer type is 64 bits wide. -/
def wideOf (t : LT) : Bool := match t with | .s32 | .z32 => false | .s64 | .z64 => true

/-- A source of a thread as the integer that the type reads (R201). -/
def laneInt (h : Hd) (t : LT) (g : Tg) (i : Nat) (x : Src) : Int :=
  match t with
  | .s32 => (g.src32 h.lit i x).toInt
  | .z32 => (g.src32 h.lit i x).toNat
  | .s64 => (g.src64 h.lit i x).toInt
  | .z64 => (g.src64 h.lit i x).toNat

/-- An integer narrowed to the type and extended to 64 bits as the type says. -/
def laneOf (t : LT) (r : Int) : DWord :=
  match t with
  | .s32 => (BitVec.ofInt 32 r).signExtend 64
  | .z32 => (BitVec.ofInt 32 r).setWidth 64
  | .s64 | .z64 => BitVec.ofInt 64 r

/-- A result taken at the type's width: the wide or the narrow value, extended as the type says. -/
def laneBits (t : LT) (wide : DWord) (narrow : Word) : DWord :=
  match t with
  | .s32 => narrow.signExtend 64
  | .z32 => narrow.setWidth 64
  | .s64 | .z64 => wide

/-- The type's range. -/
def laneRange (t : LT) : Int × Int :=
  match t with
  | .s32 => (-2147483648, 2147483647)
  | .z32 => (0, 4294967295)
  | .s64 => (-9223372036854775808, 9223372036854775807)
  | .z64 => (0, 18446744073709551615)

/-- An exact result, clamped to the type's range where SAT asks for it (R201). -/
def laneSat (t : LT) (sat : Bool) (r : Int) : Int := if sat then max (laneRange t).1 (min r (laneRange t).2) else r

/-- An exact two-source operation. -/
def laneExact (f : Int → Int → Int) (h : Hd) (u : Nat) (t : LT) (sat : Bool) (d : Dst) (a b : Src) : LaneOp :=
  ⟨h, u, wideOf t, d, fun g i => laneOf t (laneSat t sat (f (laneInt h t g i a) (laneInt h t g i b))), fun _ _ => true⟩

/-- An operation on the bits of two sources. -/
def laneLogic (f : DWord → DWord → DWord) (e : Word → Word → Word) (h : Hd) (u : Nat) (t : LT) (d : Dst) (a b : Src) : LaneOp :=
  ⟨h, u, wideOf t, d, fun g i => laneBits t (f (g.src64 h.lit i a) (g.src64 h.lit i b)) (e (g.src32 h.lit i a) (g.src32 h.lit i b)),
    fun _ _ => true⟩

/-- A shift of the first source by the low bits of 32 bits of the second. -/
def laneShift (f : DWord → Nat → DWord) (e : Word → Nat → Word) (h : Hd) (u : Nat) (t : LT) (d : Dst) (a b : Src) : LaneOp :=
  ⟨h, u, wideOf t, d, fun g i =>
    laneBits t (f (g.src64 h.lit i a) ((g.src32 h.lit i b).toNat % 64)) (e (g.src32 h.lit i a) ((g.src32 h.lit i b).toNat % 32)),
    fun _ _ => true⟩

/-- A copy. -/
def laneCopy (h : Hd) (u : Nat) (t : LT) (d : Dst) (a : Src) : LaneOp :=
  ⟨h, u, wideOf t, d, fun g i => laneBits t (g.src64 h.lit i a) (g.src32 h.lit i a), fun _ _ => true⟩

/-- The header of a compact form: guarded, not uniform, without a literal (R80). -/
def shortHd (p : BitVec 3) (n : Bool) : Hd := ⟨p, n, false, none⟩

/-- IDOT4's exact sum (R203). -/
def dotSum (az bz : Bool) (a b c : Word) : Int :=
  let byte (z : Bool) (x : Word) (k : Nat) : Int :=
    if z then ((x >>> (8 * k)).setWidth 8).toNat else ((x >>> (8 * k)).setWidth 8).toInt
  byte az a 0 * byte bz b 0 + byte az a 1 * byte bz b 1 + byte az a 2 * byte bz b 2 + byte az a 3 * byte bz b 3 + c.toInt

/-- The value of a comparison at a lane type (R150, R204). -/
def laneHolds (h : Hd) (t : LT) (cc : CC) (g : Tg) (i : Nat) (a b : Src) : Bool :=
  let x := laneInt h t g i a
  let y := laneInt h t g i b
  match cc with
  | .eq => x = y
  | .ne => x ≠ y
  | .lt => x < y
  | .le => x ≤ y
  | .gt => x > y
  | .ge => x ≥ y
  | .tst => if wideOf t then g.src64 h.lit i a &&& g.src64 h.lit i b != 0 else g.src32 h.lit i a &&& g.src32 h.lit i b != 0

/-- Whether a field of BFX or BFI lies in the type (R205). -/
def fieldFits (h : Hd) (t : LT) (b c : Src) (g : Tg) (i : Nat) : Bool :=
  decide ((g.src32 h.lit i b).toNat + (g.src32 h.lit i c).toNat ≤ bitsOf t) && decide ((g.src32 h.lit i b).toNat < bitsOf t)

/-- BFI's old destination value. -/
def oldValue (d : Dst) : Src :=
  match d with
  | .main n => .main n
  | .opnd n => .opnd n
  | .pred n => .pred n
  | .grp n => .grp n

/-- The integer instructions as R202 to R205 give them, in their full and compact forms. -/
def laneIntOp : Instr → Option LaneOp
  | .iadd h t sat d a b => some (laneExact (· + ·) h (hdLen h) t sat d a b)
  | .iaddCompact p n d a => some (laneExact (· + ·) (shortHd p n) 1 .s32 false (.main d) (.main a) .l0)
  | .isub h t sat d a b => some (laneExact (· - ·) h (hdLen h) t sat d a b)
  | .isubCompact p n d a => some (laneExact (· - ·) (shortHd p n) 1 .s32 false (.main d) (.main a) .l0)
  | .imul h t d a b => some (laneExact (· * ·) h (hdLen h) t false d a b)
  | .imulCompact p n d a => some (laneExact (· * ·) (shortHd p n) 1 .s32 false (.main d) (.main a) .l0)
  | .imad h t sat d a b c =>
    some ⟨h, hdLen h, wideOf t, d, fun g i =>
      laneOf t (laneSat t sat (laneInt h t g i a * laneInt h t g i b + laneInt h t g i c)), fun _ _ => true⟩
  | .imulh h t d a b => some (laneExact (fun x y => (x * y) / 2 ^ bitsOf t) h (hdLen h) t false d a b)
  | .idot4 h az bz sat d a b c =>
    some ⟨h, hdLen h, false, d, fun g i =>
      laneOf .s32 (laneSat .s32 sat (dotSum az bz (g.src32 h.lit i a) (g.src32 h.lit i b) (g.src32 h.lit i c))), fun _ _ => true⟩
  | .iabs h t sat d a =>
    some ⟨h, hdLen h, wideOf t, d, fun g i =>
      let x := laneInt h t g i a
      laneOf t (laneSat t sat (if x < 0 then -x else x)), fun _ _ => true⟩
  | .imin h t d a b => some (laneExact (fun x y => if x ≤ y then x else y) h (hdLen h) t false d a b)
  | .iminCompact p n d a => some (laneExact (fun x y => if x ≤ y then x else y) (shortHd p n) 1 .s32 false (.main d) (.main a) .l0)
  | .imax h t d a b => some (laneExact (fun x y => if x ≤ y then y else x) h (hdLen h) t false d a b)
  | .imaxCompact p n d a => some (laneExact (fun x y => if x ≤ y then y else x) (shortHd p n) 1 .s32 false (.main d) (.main a) .l0)
  | .and h t d a b => some (laneLogic (· &&& ·) (· &&& ·) h (hdLen h) t d a b)
  | .andCompact p n d a => some (laneLogic (· &&& ·) (· &&& ·) (shortHd p n) 1 .s32 (.main d) (.main a) .l0)
  | .or h t d a b => some (laneLogic (· ||| ·) (· ||| ·) h (hdLen h) t d a b)
  | .orCompact p n d a => some (laneLogic (· ||| ·) (· ||| ·) (shortHd p n) 1 .s32 (.main d) (.main a) .l0)
  | .xor h t d a b => some (laneLogic (· ^^^ ·) (· ^^^ ·) h (hdLen h) t d a b)
  | .xorCompact p n d a => some (laneLogic (· ^^^ ·) (· ^^^ ·) (shortHd p n) 1 .s32 (.main d) (.main a) .l0)
  | .andn h t d a b => some (laneLogic (fun x y => x &&& ~~~y) (fun x y => x &&& ~~~y) h (hdLen h) t d a b)
  | .andnCompact p n d a =>
    some (laneLogic (fun x y => x &&& ~~~y) (fun x y => x &&& ~~~y) (shortHd p n) 1 .s32 (.main d) (.main a) .l0)
  | .shl h t d a b => some (laneShift (· <<< ·) (· <<< ·) h (hdLen h) t d a b)
  | .shlCompact p n d a => some (laneShift (· <<< ·) (· <<< ·) (shortHd p n) 1 .s32 (.main d) (.main a) .l0)
  | .shr h t d a b => some (laneShift (· >>> ·) (· >>> ·) h (hdLen h) t d a b)
  | .shrCompact p n d a => some (laneShift (· >>> ·) (· >>> ·) (shortHd p n) 1 .s32 (.main d) (.main a) .l0)
  | .sar h t d a b => some (laneShift BitVec.sshiftRight BitVec.sshiftRight h (hdLen h) t d a b)
  | .sarCompact p n d a => some (laneShift BitVec.sshiftRight BitVec.sshiftRight (shortHd p n) 1 .s32 (.main d) (.main a) .l0)
  | .bfx h t d a b c =>
    some ⟨h, hdLen h, wideOf t, d, fun g i =>
      let pos := (g.src32 h.lit i b).toNat
      let len := (g.src32 h.lit i c).toNat
      let sg := match t with | .s32 | .s64 => true | .z32 | .z64 => false
      laneBits t (fieldOf sg (g.src64 h.lit i a) pos len) (fieldOf sg (g.src32 h.lit i a) pos len), fieldFits h t b c⟩
  | .bfi h t d a b c =>
    some ⟨h, hdLen h, wideOf t, d, fun g i =>
      let pos := (g.src32 h.lit i b).toNat
      let len := (g.src32 h.lit i c).toNat
      laneBits t (fieldPut (g.src64 h.lit i (oldValue d)) (g.src64 h.lit i a) pos len)
        (fieldPut (g.src32 h.lit i (oldValue d)) (g.src32 h.lit i a) pos len), fieldFits h t b c⟩
  | .popc h t d a =>
    some ⟨h, hdLen h, false, d, fun g i =>
      if wideOf t then (g.src64 h.lit i a).cpop else ((g.src32 h.lit i a).cpop).setWidth 64, fun _ _ => true⟩
  | .clz h t d a =>
    some ⟨h, hdLen h, false, d, fun g i =>
      if wideOf t then (g.src64 h.lit i a).clz else ((g.src32 h.lit i a).clz).setWidth 64, fun _ _ => true⟩
  | .brev h t d a =>
    some ⟨h, hdLen h, wideOf t, d, fun g i => laneBits t (g.src64 h.lit i a).reverse (g.src32 h.lit i a).reverse, fun _ _ => true⟩
  | .icmp h t cc d a b =>
    some ⟨h, hdLen h, false, d, fun g i => if laneHolds h t cc g i a b then 1 else 0, fun _ _ => true⟩
  | .sel h t d a b c =>
    some ⟨h, hdLen h, wideOf t, d, fun g i =>
      let x := if g.src32 h.lit i c = 0 then b else a
      laneBits t (g.src64 h.lit i x) (g.src32 h.lit i x), fun _ _ => true⟩
  | .mov h t d a => some (laneCopy h (hdLen h) t d a)
  | .movCompact p n d a => some (laneCopy (shortHd p n) 1 .s32 (.main d) (.main a))
  | .li h d a => some ⟨h, hdLen h, false, d, fun g i => (g.src32 h.lit i a).signExtend 64, fun _ _ => true⟩
  | _ => none

/-- The threads whose guard and operands an instruction uses: the contributing ones, or for a uniform instruction the lowest
active one if its guard holds (R72, R199). -/
def LaneOp.threads (o : LaneOp) (g : Tg) (arm : Bool) : Mask :=
  if o.h.u then (if g.leadGuard arm o.h.pred o.h.pn then 1#16 <<< g.lead arm else 0) else g.contrib arm o.h.pred o.h.pn

/-- The registers that a lane instruction leaves: a result per contributing thread, or one of the group (R77, R173, R198). -/
def LaneOp.regs (o : LaneOp) (g : Tg) (arm : Bool) (pos : Nat) : Tg :=
  if o.h.u then (if g.leadGuard arm o.h.pred o.h.pn then g.putUniform o.d (o.val g (g.lead arm)) else g)
  else g.putLanes o.wide pos (g.contrib arm o.h.pred o.h.pn) o.d (o.val g)

end Sys2Proof.Machine

/-- R201 to R205. Every lane integer instruction, uniform or not, compact or full, gives its destination in each contributing
thread the value its rule states, and the arm goes on at the next instruction; nothing else changes. -/
def Sys2Proof.Claims.LaneIntegerComputes : Prop :=
  ∀ (i : Instr) (o : LaneOp) (s : State) (c k : Nat) (arm : Bool),
    laneIntOp i = some o → TgTurn s c k arm →
    (∀ j < 16, (o.threads (s.tg c k) arm).getLsbD j = true → o.legal (s.tg c k) j = true) →
    ∃ t, exec i s = .next t ∧
      TgActs s t c k ((s.tg c k).past arm o.units (o.regs (s.tg c k) arm ((s.actor (tgActor c k)).pos + 1)))
        (s.actor (tgActor c k)).issued

/-- R189, R191, R205. BFX or BFI with a field outside the type in an executing thread takes ARITH: where the trap is not
delivered locally, the group parks on fault service with a frame that names the instruction and the cause, and no register is
written. -/
def Sys2Proof.Claims.FieldOutsideTypeTraps : Prop :=
  ∀ (i : Instr) (o : LaneOp) (s : State) (c k j : Nat) (arm : Bool),
    laneIntOp i = some o → TgTurn s c k arm → j < 16 → (o.threads (s.tg c k) arm).getLsbD j = true →
    o.legal (s.tg c k) j = false →
    s.busy (tgActor c k) = false → (s.tg c k).late = [] → (s.tg c k).svc = none →
    ((s.tg c k).frame.isSome = true ∨ (s.core c).csr.delivers 0x0D = false) →
    ∃ t f, exec i s = .next t ∧ (t.tg c k).svc = some f ∧ f.cause = 0x0D ∧ f.fpc = (s.tg c k).armPc arm ∧
      f.pc = (s.tg c k).armPc arm ∧ f.late = false ∧
      (t.tg c k).v = (s.tg c k).v ∧ (t.tg c k).o = (s.tg c k).o ∧ (t.tg c k).l0 = (s.tg c k).l0 ∧
      (t.tg c k).p = (s.tg c k).p ∧ (t.tg c k).g = (s.tg c k).g ∧ (∀ a, t.actor a = s.actor a)

/-- The frame of the lane integer instructions that trap in no thread: the other main, operand and group registers and the
other predicates keep their values in every thread, and a thread that does not contribute keeps all of its registers; the
group's FPCTL, the other groups, the Spur, the control registers and every byte of memory stay as they were. `l0` of a
contributing thread is written too (R175). -/
def Sys2Proof.Claims.LaneIntegerFrame : Prop :=
  ∀ (i : Instr) (o : LaneOp) (s t : State) (c k : Nat) (arm : Bool),
    laneIntOp i = some o → TgTurn s c k arm →
    (∀ j < 16, (o.threads (s.tg c k) arm).getLsbD j = true → o.legal (s.tg c k) j = true) →
    exec i s = .next t →
    (∀ n j, j < 16 → (∀ m : BitVec 8, o.d = .main m → n ≠ m.toNat ∧ (o.wide = true → n ≠ m.toNat + 1)) →
      (t.tg c k).vreg n j = (s.tg c k).vreg n j) ∧
    (∀ n j, j < 16 → (∀ m : BitVec 3, o.d = .opnd m → n ≠ m.toNat) → (t.tg c k).oreg n j = (s.tg c k).oreg n j) ∧
    (∀ n j, j < 16 → (∀ m : Fin 7, o.d = .pred m → n ≠ m.val) → (t.tg c k).preg n j = (s.tg c k).preg n j) ∧
    (∀ n, (∀ m : BitVec 5, o.d = .grp m → n ≠ m.toNat) → (t.tg c k).greg n = (s.tg c k).greg n) ∧
    (o.h.u = false → ∀ n j, j < 16 → ((s.tg c k).contrib arm o.h.pred o.h.pn).getLsbD j = false →
      (t.tg c k).vreg n j = (s.tg c k).vreg n j ∧ (t.tg c k).oreg n j = (s.tg c k).oreg n j ∧
      (t.tg c k).preg n j = (s.tg c k).preg n j ∧ (t.tg c k).l0reg j = (s.tg c k).l0reg j) ∧
    (t.tg c k).fpctl = (s.tg c k).fpctl ∧ (t.tg c k).live = (s.tg c k).live ∧
    (∀ j, j ≠ k → t.tg c j = s.tg c j) ∧ (t.core c).spur = (s.core c).spur ∧ (t.core c).csr = (s.core c).csr ∧
    KeepsOtherCores s t c ∧ KeepsBytes s t

/-- R201 to R205. Every lane integer instruction gives its destination the value of its rule; a field outside the type takes
ARITH. -/
def Obligations.LaneIntegerInstructionsCompute : Prop :=
  Claims.LaneIntegerComputes ∧ Claims.FieldOutsideTypeTraps
/-! ## Lane float instructions -/

namespace Sys2Proof.Machine

/-- A lane float instruction: header, length, width, destination, whether a rounding mode makes it round stochastically, the
discard word of an element of a thread (R62), and the value and flags of a thread from sys.fpctl and the neighbour hash of each of
its elements. -/
structure FloatOp where
  h : Hd
  units : Nat
  d : Dst
  val : DWord → Tg → (Nat → Nat) → Nat → DWord × FFlags
  wide : Bool := false
  sr : DWord → Bool := fun _ => false
  disc : DWord → Tg → Nat → Nat → Nat := fun _ _ _ _ => 0

/-- Whether sys.fpctl's mode is SR. -/
def stochastic (fp : DWord) : Bool := fp.extractLsb' 0 3 == 4

/-- A scalar operation with one rounding into a format. -/
def roundedOp (fm : Fmt) (op : DWord → Tg → Nat → FV × FFlags) (h : Hd) (u : Nat) (d : Dst) : FloatOp :=
  { h, units := u, d, sr := stochastic, disc := fun fp g _ i => fm.discard (op fp g i).1
    val := fun fp g mix i =>
      (BitVec.ofNat 64 (fm.round (fpCtl fp (mix 0)) (op fp g i).1).1, (op fp g i).2 ||| (fm.round (fpCtl fp (mix 0)) (op fp g i).1).2) }

/-- A packed operation with one rounding for each half. -/
def packedOp (fm : Fmt) (op : DWord → Tg → Nat → Nat → FV × FFlags) (h : Hd) (u : Nat) (d : Dst) : FloatOp :=
  { h, units := u, d, sr := stochastic, disc := fun fp g e i => fm.discard (op fp g e i).1
    val := fun fp g mix i =>
      let half (e : Nat) := fm.round (fpCtl fp (mix e)) (op fp g e i).1
      (BitVec.ofNat 64 ((half 1).1 * 65536 + (half 0).1), (op fp g 0 i).2 ||| (half 0).2 ||| ((op fp g 1 i).2 ||| (half 1).2)) }

/-- A sum, difference or product of two sources, read and rounded in a scalar format (R208). -/
def twoOp (f : Bool → FV → FV → FV × FFlags) (h : Hd) (u : Nat) (ft : Ft) (d : Dst) (a b : Src) : FloatOp :=
  roundedOp (ftFmt ft) (fun fp g i => f (fpRdn fp) (fRead h (ftFmt ft) fp g i a) (fRead h (ftFmt ft) fp g i b)) h u d

/-- The same for the halves of packed sources (R213). -/
def twoPacked (f : Bool → FV → FV → FV × FFlags) (h : Hd) (u : Nat) (pf : Pf) (d : Dst) (a b : Src) : FloatOp :=
  packedOp (pfFmt pf) (fun fp g e i => f (fpRdn fp) (pRead h (pfFmt pf) fp g i e a) (pRead h (pfFmt pf) fp g i e b)) h u d

/-- FMIN and FMAX (R209). -/
def minMaxOp (mx : Bool) (h : Hd) (u : Nat) (ft : Ft) (d : Dst) (a b : Src) : FloatOp :=
  { h, units := u, d
    val := fun fp g _ i =>
      let x := fRead h (ftFmt ft) fp g i a
      let y := fRead h (ftFmt ft) fp g i b
      (BitVec.ofNat 64 ((ftFmt ft).exact (FV.minMax mx x y)), x.sigFlag ||| y.sigFlag) }

/-- A special function (R214, R215): RCP and SQRT round under the sampled mode. -/
def specialOp (k : SfKind) (h : Hd) (u : Nat) (d : Dst) (a : Src) : FloatOp :=
  { h, units := u, d, sr := fun fp => stochastic fp && (k = .rcp || k = .sqrt)
    disc := fun fp g _ i => sfDiscard k (g.src32 h.lit i a) (fpDaz fp)
    val := fun fp g mix i =>
      (BitVec.ofNat 64 (sfEval k (fpCtl fp (mix 0)) (g.src32 h.lit i a) (fpDaz fp)).1,
        (sfEval k (fpCtl fp (mix 0)) (g.src32 h.lit i a) (fpDaz fp)).2) }

/-- The exact value and flags of FDOT2 (R213). -/
def dotValue (h : Hd) (pf : Pf) (a b c : Src) (fp : DWord) (g : Tg) (i : Nat) : FV × FFlags :=
  let p0 := (pRead h (pfFmt pf) fp g i 0 a).mul (pRead h (pfFmt pf) fp g i 0 b)
  let p1 := (pRead h (pfFmt pf) fp g i 1 a).mul (pRead h (pfFmt pf) fp g i 1 b)
  let r := FV.sum (fpRdn fp) [p0.1, p1.1, fRead h fp32 fp g i c]
  (r.1, p0.2 ||| p1.2 ||| r.2)

/-- The float instructions as R208 to R221 give them, in their full and compact forms. -/
def laneFloatOp : Instr → Option FloatOp
  | .fadd h ft d a b => some (twoOp FV.add h (hdLen h) ft d a b)
  | .faddCompact p n d a => some (twoOp FV.add (shortHd p n) 1 .f32 (.main d) (.main a) .l0)
  | .fsub h ft d a b => some (twoOp (fun r x y => FV.add r x y.negate) h (hdLen h) ft d a b)
  | .fsubCompact p n d a => some (twoOp (fun r x y => FV.add r x y.negate) (shortHd p n) 1 .f32 (.main d) (.main a) .l0)
  | .fmul h ft d a b => some (twoOp (fun _ x y => x.mul y) h (hdLen h) ft d a b)
  | .fmulCompact p n d a => some (twoOp (fun _ x y => x.mul y) (shortHd p n) 1 .f32 (.main d) (.main a) .l0)
  | .ffma h ft d a b c =>
    some (roundedOp (ftFmt ft) (fun fp g i =>
      FV.fma (fpRdn fp) (fRead h (ftFmt ft) fp g i a) (fRead h (ftFmt ft) fp g i b) (fRead h (ftFmt ft) fp g i c)) h (hdLen h) d)
  | .fmin h ft d a b => some (minMaxOp false h (hdLen h) ft d a b)
  | .fminCompact p n d a => some (minMaxOp false (shortHd p n) 1 .f32 (.main d) (.main a) .l0)
  | .fmax h ft d a b => some (minMaxOp true h (hdLen h) ft d a b)
  | .fmaxCompact p n d a => some (minMaxOp true (shortHd p n) 1 .f32 (.main d) (.main a) .l0)
  | .fcmp h ft fc d a b =>
    some { h, units := hdLen h, d
           val := fun fp g _ i =>
            let x := fRead h (ftFmt ft) fp g i a
            let y := fRead h (ftFmt ft) fp g i b
            (if fcHolds fc x y then 1 else 0, x.sigFlag ||| y.sigFlag) }
  | .frnd h ft rms d a =>
    some { h, units := hdLen h, d, sr := fun fp => rmsMode rms fp = .sr
           disc := fun fp g _ i => intDiscard (fRead h (ftFmt ft) fp g i a)
           val := fun fp g mix i =>
            let x := fRead h (ftFmt ft) fp g i a
            (BitVec.ofNat 64 ((ftFmt ft).exact (x.integral { mode := rmsMode rms fp, t := mix 0 })), x.sigFlag) }
  | .fclass h ft d a =>
    some { h, units := hdLen h, d, val := fun _ g _ i => (BitVec.ofNat 64 ((ftFmt ft).classMask (fBits h (ftFmt ft) g i a)), 0) }
  | .f2add h pf d a b => some (twoPacked FV.add h (hdLen h) pf d a b)
  | .f2addCompact p n d a => some (twoPacked FV.add (shortHd p n) 1 .f16x2 (.main d) (.main a) .l0)
  | .f2mul h pf d a b => some (twoPacked (fun _ x y => x.mul y) h (hdLen h) pf d a b)
  | .f2mulCompact p n d a => some (twoPacked (fun _ x y => x.mul y) (shortHd p n) 1 .f16x2 (.main d) (.main a) .l0)
  | .f2fma h pf d a b c =>
    some (packedOp (pfFmt pf) (fun fp g e i =>
      FV.fma (fpRdn fp) (pRead h (pfFmt pf) fp g i e a) (pRead h (pfFmt pf) fp g i e b) (pRead h (pfFmt pf) fp g i e c)) h (hdLen h) d)
  | .fdot2 h pf d a b c => some (roundedOp fp32 (dotValue h pf a b c) h (hdLen h) d)
  | .rcp h d a => some (specialOp .rcp h (hdLen h) d a)
  | .rcpCompact p n d a => some (specialOp .rcp (shortHd p n) 1 (.main d) (.main a))
  | .rsq h d a => some (specialOp .rsq h (hdLen h) d a)
  | .rsqCompact p n d a => some (specialOp .rsq (shortHd p n) 1 (.main d) (.main a))
  | .sqrt h d a => some (specialOp .sqrt h (hdLen h) d a)
  | .sqrtCompact p n d a => some (specialOp .sqrt (shortHd p n) 1 (.main d) (.main a))
  | .exp2 h d a => some (specialOp .exp2 h (hdLen h) d a)
  | .exp2Compact p n d a => some (specialOp .exp2 (shortHd p n) 1 (.main d) (.main a))
  | .log2 h d a => some (specialOp .log2 h (hdLen h) d a)
  | .log2Compact p n d a => some (specialOp .log2 (shortHd p n) 1 (.main d) (.main a))
  | .sin h d a => some (specialOp .sin h (hdLen h) d a)
  | .sinCompact p n d a => some (specialOp .sin (shortHd p n) 1 (.main d) (.main a))
  | .cos h d a => some (specialOp .cos h (hdLen h) d a)
  | .cosCompact p n d a => some (specialOp .cos (shortHd p n) 1 (.main d) (.main a))
  | .tanh h d a => some (specialOp .tanh h (hdLen h) d a)
  | .tanhCompact p n d a => some (specialOp .tanh (shortHd p n) 1 (.main d) (.main a))
  | .cvt h dt st sat sr d a =>
    some { h, units := hdLen h, d, sr := fun fp => sr || stochastic fp
           disc := fun fp g _ i => cvtDiscard dt (cvtRead st (fpDaz fp) (g.src32 h.lit i a))
           val := fun fp g mix i => cvtEval dt st (cvtCtl sat sr fp (mix 0)) (cvtRead st (fpDaz fp) (g.src32 h.lit i a)) }
  | .qpack h qf d a b =>
    some { h, units := hdLen h, d, sr := stochastic
           disc := fun fp g e i => quantDiscard (scaleByte h g i b / 64) (scaleByte h g i b % 64) (qfRead h qf fp g i e a)
           val := fun fp g mix i =>
            let q (e : Nat) := quantise (scaleByte h g i b / 64) (scaleByte h g i b % 64) (fpCtl fp (mix e)) (qfRead h qf fp g i e a)
            (BitVec.ofNat 64 ((q 1).1 * 16 + (q 0).1), (q 0).2 ||| (q 1).2) }
  | .qunpk h qf d a b =>
    some { h, units := hdLen h, d, wide := qf = .f32
           val := fun _ g _ i =>
            let v (e : Nat) : FV := blockValue (scaleByte h g i b / 64) ((g.src32 h.lit i a).toNat / 16 ^ e % 16) (scaleByte h g i b % 64)
            (BitVec.ofNat 64 (match qf with
              | .f32 => fp32.exact (v 1) * 4294967296 + fp32.exact (v 0)
              | .bf16x2 => bf16.exact (v 1) * 65536 + bf16.exact (v 0)), 0) }
  | _ => none

/-- The neighbour hash of an element of a thread: the discard words of the threads beside it, those that do not contribute
counting as 0 (R63, R64). -/
def FloatOp.mix (o : FloatOp) (g : Tg) (m : Mask) (i e : Nat) : Nat :=
  let w (j : Nat) : Nat := if m.getLsbD j then o.disc g.fpctl g e j else 0
  srMix (w ((i + 15) % 16)) (w ((i + 1) % 16))

/-- The value and flags of a thread. -/
def FloatOp.at (o : FloatOp) (g : Tg) (m : Mask) (i : Nat) : DWord × FFlags := o.val g.fpctl g (o.mix g m i) i

/-- The group as a float instruction leaves its registers: a result per contributing thread, and the flags of all of them raised in
the group's sys.fpctl (R60, R65). -/
def FloatOp.regs (o : FloatOp) (g : Tg) (m : Mask) (pos : Nat) : Tg :=
  { g.putLanes o.wide pos m o.d (fun i => (o.at g m i).1) with
    fpctl := fpRaise g.fpctl ((lanesOf m).foldl (fun x i => x ||| (o.at g m i).2) 0) }

end Sys2Proof.Machine

/-- R60 to R65, R208 to R221. Every lane float instruction, compact or full, gives its destination in each contributing thread the
rounded value of its rule and raises the union of the threads' flags, and the arm goes on at the next instruction; nothing else
changes. An instruction that rounds stochastically asks for a device with the unit (R4). -/
def Sys2Proof.Claims.LaneFloatComputes : Prop :=
  ∀ (i : Instr) (o : FloatOp) (s : State) (c k : Nat) (arm : Bool),
    laneFloatOp i = some o → TgTurn s c k arm → (o.sr (s.tg c k).fpctl = true → s.hasSrnd = true) →
    ∃ t, exec i s = .next t ∧
      TgActs s t c k
        ((s.tg c k).past arm o.units
          (o.regs (s.tg c k) ((s.tg c k).contrib arm o.h.pred o.h.pn) ((s.actor (tgActor c k)).pos + 1)))
        (s.actor (tgActor c k)).issued

/-- The frame of the lane float instructions on a device that has their unit: other registers, other threads' registers, the
other groups, the Spur, the control registers and every byte of memory keep their values; sys.fpctl keeps its control fields. -/
def Sys2Proof.Claims.LaneFloatFrame : Prop :=
  ∀ (i : Instr) (o : FloatOp) (s t : State) (c k : Nat) (arm : Bool),
    laneFloatOp i = some o → TgTurn s c k arm → (o.sr (s.tg c k).fpctl = true → s.hasSrnd = true) → exec i s = .next t →
    (∀ n j, j < 16 → (∀ m : BitVec 8, o.d = .main m → n ≠ m.toNat ∧ (o.wide = true → n ≠ m.toNat + 1)) →
      (t.tg c k).vreg n j = (s.tg c k).vreg n j) ∧
    (∀ n j, j < 16 → (∀ m : BitVec 3, o.d = .opnd m → n ≠ m.toNat) → (t.tg c k).oreg n j = (s.tg c k).oreg n j) ∧
    (∀ n j, j < 16 → (∀ m : Fin 7, o.d = .pred m → n ≠ m.val) → (t.tg c k).preg n j = (s.tg c k).preg n j) ∧
    (∀ n, (∀ m : BitVec 5, o.d = .grp m → n ≠ m.toNat) → (t.tg c k).greg n = (s.tg c k).greg n) ∧
    (∀ n j, j < 16 → ((s.tg c k).contrib arm o.h.pred o.h.pn).getLsbD j = false →
      (t.tg c k).vreg n j = (s.tg c k).vreg n j ∧ (t.tg c k).oreg n j = (s.tg c k).oreg n j ∧
      (t.tg c k).preg n j = (s.tg c k).preg n j ∧ (t.tg c k).l0reg j = (s.tg c k).l0reg j) ∧
    (t.tg c k).fpctl.extractLsb' 0 8 = (s.tg c k).fpctl.extractLsb' 0 8 ∧
    (t.tg c k).fpctl.extractLsb' 13 51 = (s.tg c k).fpctl.extractLsb' 13 51 ∧
    (∀ j, j ≠ k → t.tg c j = s.tg c j) ∧ (t.core c).spur = (s.core c).spur ∧ (t.core c).csr = (s.core c).csr ∧
    KeepsOtherCores s t c ∧ KeepsBytes s t

/-- R219. QSCALE gives one scale byte, of the largest magnitude of the contributing threads' elements, to its destination, and the
arm goes on at the next instruction. -/
def Sys2Proof.Claims.QscaleGivesOneByte : Prop :=
  ∀ (h : Hd) (qf : Qf) (bt : Bt) (d : Dst) (a : Src) (s : State) (c k : Nat) (arm : Bool),
    TgTurn s c k arm →
    ∃ t, exec (.qscale h qf bt d a) s = .next t ∧
      TgActs s t c k
        ((s.tg c k).past arm (hdLen h)
          (let g := s.tg c k
           let m := g.contrib arm h.pred h.pn
           let most := ((lanesOf m).flatMap fun i => [fvMag (qfRead h qf g.fpctl g i 0 a), fvMag (qfRead h qf g.fpctl g i 1 a)]).foldl fvMax .zero
           if m = 0 then g
           else g.putTg false ((s.actor (tgActor c k)).pos + 1) m d
            (BitVec.ofNat 64 (qscaleByte (match bt with | .uint => 0 | .e2m1 => 1 | .pow2 => 2 | .hyb => 3) most))))
        (s.actor (tgActor c k)).issued

/-- R61. Rounding a finite value or an infinity of a format into that format gives its own pattern and raises no flag, under every
mode, when results are not flushed and no infinity saturates. -/
def Sys2Proof.Claims.RoundKeepsRepresentable : Prop :=
  ∀ (f : Fmt), f ∈ [fp32, fp16, bf16, e4m3, e5m2] → ∀ (c : RCtl) (b : Nat),
    c.ftz = false → b < 2 ^ (1 + f.eb + f.fb) → (FV.ofBits f false b).isNan = false →
    (c.sat = true → (FV.ofBits f false b).isInf = false) →
    f.round c (FV.ofBits f false b) = (b, 0)

/-- R208. A sum and a product of two values do not depend on the order of the operands. -/
def Sys2Proof.Claims.FloatSumAndProductCommute : Prop :=
  ∀ (rdn : Bool) (a b : FV), FV.add rdn a b = FV.add rdn b a ∧ a.mul b = b.mul a

namespace Sys2Proof.Machine

/-- The class of a raw pattern, as R212 numbers the classes. -/
def classOf (f : Fmt) (b : Nat) : Nat :=
  let neg := 2 ^ (f.eb + f.fb) ≤ b
  let ex := b / 2 ^ f.fb % 2 ^ f.eb
  let fr := b % 2 ^ f.fb
  if ex = 2 ^ f.eb - 1 then
    (if fr = 0 then (if neg then 0 else 7) else if fr < 2 ^ (f.fb - 1) then 8 else 9)
  else if ex = 0 then (if fr = 0 then (if neg then 3 else 4) else (if neg then 2 else 5))
  else (if neg then 1 else 6)

end Sys2Proof.Machine

/-- R212. FCLASS gives its destination in each contributing thread the mask with exactly one bit set, the one of the class of the raw
input's sign, exponent and fraction; no flag is raised and nothing else changes. -/
def Obligations.FclassSetsOneBit : Prop :=
  ∀ (h : Hd) (ft : Ft) (d : Dst) (a : Src) (s : State) (c k : Nat) (arm : Bool),
    TgTurn s c k arm →
    let g := s.tg c k
    ∃ t, exec (.fclass h ft d a) s = .next t ∧
      TgActs s t c k
        (g.past arm (hdLen h)
          (g.putLanes false ((s.actor (tgActor c k)).pos + 1) (g.contrib arm h.pred h.pn) d fun i =>
            BitVec.ofNat 64 (2 ^ classOf (ftFmt ft) (fBits h (ftFmt ft) g i a))))
        (s.actor (tgActor c k)).issued

/-- R60 to R65, R208 to R221. Every lane float instruction gives its destination the rounded value of its rule, and QSCALE one
scale byte. -/
def Obligations.LaneFloatInstructionsCompute : Prop :=
  Claims.LaneFloatComputes ∧ Claims.QscaleGivesOneByte

/-- The frames of the lane integer and the lane float instructions: nothing changes but what each writes. -/
def Obligations.LaneFrames : Prop :=
  Claims.LaneIntegerFrame ∧ Claims.LaneFloatFrame

/-- R61, R208. Rounding keeps a value that its format holds, and sums and products do not depend on the order of the operands. -/
def Obligations.FloatArithmeticLaws : Prop :=
  Claims.RoundKeepsRepresentable ∧ Claims.FloatSumAndProductCommute
/-! ## Cross-lane instructions, control flow and barriers -/

namespace Sys2Proof.Machine

/-- The thread whose A a thread of a SHFL reads (R199, R223): the one its mode names, or itself where that is not active. -/
def shuffleFrom (sm : Sm) (act : Mask) (i b : Nat) : Nat :=
  let j := match sm with
    | .idx => b
    | .up => if i < b then i else i - b
    | .down => if 15 < i + b then i else i + b
    | .xor => i ^^^ (b % 16)
  if act.getLsbD j then j else i

/-- VOTE's value over the contributing threads (R224). -/
def voteValue (vm : Vm) (m : Mask) (holds : Nat → Bool) : DWord :=
  let votes : Mask := maskOf fun i => m.getLsbD i && holds i
  match vm with
  | .all => if votes = m then 1 else 0
  | .any => if votes = 0 then 0 else 1
  | .eq => if votes = m ∨ votes = 0 then 1 else 0
  | .ballot => votes.setWidth 64

/-- The four bytes that PRMT picks out of B:A by the nibbles of C, or their sign bytes (R226). -/
def permuted (a b c : Word) : Word :=
  let byte (k : Nat) : Byte :=
    let n := c.extractLsb' (4 * k) 4
    let x := ((b ++ a : DWord) >>> (8 * (n.toNat % 8))).setWidth 8
    if n.getLsbD 3 then (if x.getLsbD 7 then 0xFF else 0) else x
  byte 3 ++ byte 2 ++ byte 1 ++ byte 0

/-- The registers that a cross-lane instruction leaves (R223 to R226), with its header. REDUX and SCAN combine the values of A of
the contributing threads, or of those up to a thread, in ascending order. -/
def crossRegs (g : Tg) (arm : Bool) (pos : Nat) : Instr → Option (Hd × Tg)
  | .shfl h sm d a b =>
    some (h, g.putLanes false pos (g.contrib arm h.pred h.pn) d fun i =>
      (g.src32 h.lit (shuffleFrom sm (g.active arm) i (g.src32 h.lit i b).toNat) a).setWidth 64)
  | .vote h vm d a =>
    let m := g.contrib arm h.pred h.pn
    some (h, if m = 0 then g else g.putTg false pos m d (voteValue vm m fun i => g.src32 h.lit i a != 0))
  | .redux h rop d a =>
    let m := g.contrib arm h.pred h.pn
    let r := ropEval rop h g.fpctl g a (lanesOf m) (srMix 0 0)
    some (h, if m = 0 then g else { g.putTg false pos m d r.1 with fpctl := fpRaise g.fpctl r.2 })
  | .scan h rop ex d a =>
    let m := g.contrib arm h.pred h.pn
    let upTo (i : Nat) : List Nat := (lanesOf m).filter fun j => if ex then j < i else j ≤ i
    let word (i : Nat) : Nat :=
      if m.getLsbD i then fp32.discard (fvTotal g.fpctl ((upTo i).map fun j => fRead h fp32 g.fpctl g j a)).1 else 0
    let r (i : Nat) := ropEval rop h g.fpctl g a (upTo i) (srMix (word ((i + 15) % 16)) (word ((i + 1) % 16)))
    some (h, { g.putLanes false pos m d (fun i => (r i).1) with
      fpctl := fpRaise g.fpctl ((lanesOf m).foldl (fun x i => x ||| (r i).2) 0) })
  | .prmt h d a b c =>
    let op : LaneOp := ⟨h, hdLen h, false, d, fun g i =>
      (permuted (g.src32 h.lit i a) (g.src32 h.lit i b) (g.src32 h.lit i c)).setWidth 64, fun _ _ => true⟩
    some (h, op.regs g arm pos)
  | _ => none

/-- What the cross-lane instructions ask of their operands: SHFL by index names a thread, and a stochastic float sum has its
unit. -/
def CrossLegal (s : State) (g : Tg) (arm : Bool) : Instr → Prop
  | .shfl h sm _ _ b => sm = .idx → ∀ i < 16, (g.contrib arm h.pred h.pn).getLsbD i = true → (g.src32 h.lit i b).toNat ≤ 15
  | .redux _ rop _ _ | .scan _ rop _ _ _ => rop = .fadd → stochastic g.fpctl = true → s.hasSrnd = true
  | _ => True

/-- The target of a BRA. -/
def braTarget (g : Tg) (arm : Bool) (h : Hd) (off : BitVec 20) : DWord :=
  g.armPc arm + BitVec.ofNat 64 (4 * hdLen h) + 4 * off.signExtend 64

/-- The threads that take a BRA, or that act on a whole-group instruction's guard. -/
def branching (g : Tg) (arm : Bool) (h : Hd) : Mask :=
  if h.u then (if g.leadGuard arm h.pred h.pn then 1#16 <<< g.lead arm else 0) else g.contrib arm h.pred h.pn

/-- A step of a group that changes nothing but the group and its actor: the group as it was but for what `q` says. -/
def GroupGoes (s t : State) (c k : Nat) (g : Tg) : Prop := TgActs s t c k g (s.actor (tgActor c k)).issued

end Sys2Proof.Machine

/-- R199, R222 to R226. SHFL, VOTE, REDUX, SCAN and PRMT leave the registers that their rules give, all sources read before any
destination is written, and the arm goes on at the next instruction; nothing else changes. -/
def Obligations.CrossLaneComputes : Prop :=
  ∀ (i : Instr) (h : Hd) (u : Tg) (s : State) (c k : Nat) (arm : Bool),
    crossRegs (s.tg c k) arm ((s.actor (tgActor c k)).pos + 1) i = some (h, u) → TgTurn s c k arm →
    CrossLegal s (s.tg c k) arm i →
    ∃ t, exec i s = .next t ∧ GroupGoes s t c k ((s.tg c k).past arm (hdLen h) u)

/-- R228. BRA: a uniform branch, or one that every active thread takes, goes to its target; one that no thread takes goes on at the
next instruction; one that some threads take from an idle entry splits the arm, the taking threads at the target and the others at
the next instruction, with the reconvergence PC that its operand gives. -/
def Sys2Proof.Claims.BraTakesItsPaths : Prop :=
  ∀ (h : Hd) (r : Option Src) (off : BitVec 20) (s : State) (c k : Nat) (arm : Bool),
    TgTurn s c k arm →
    let g := s.tg c k
    let m := branching g arm h
    let next := g.armPc arm + BitVec.ofNat 64 (4 * hdLen h)
    (m = 0 → ∃ t, exec (.bra h r off) s = .next t ∧ GroupGoes s t c k (g.goesTo arm next)) ∧
    (m ≠ 0 → (h.u = true ∨ m = g.active arm) → (braTarget g arm h off).extractLsb' 56 8 = 0 →
      ∃ t, exec (.bra h r off) s = .next t ∧ GroupGoes s t c k (g.goesTo arm (braTarget g arm h off))) ∧
    (∀ x, m ≠ 0 → h.u = false → m ≠ g.active arm → r = some x → g.div = none →
      (braTarget g arm h off).extractLsb' 56 8 = 0 → (next + (recDist h x <<< 2)).extractLsb' 56 8 = 0 →
      ∃ t, exec (.bra h r off) s = .next t ∧
        GroupGoes s t c k
          { g with
            div := some ⟨⟨m, braTarget g arm h off, false, .ready⟩, ⟨g.active arm &&& ~~~m, next, false, .ready⟩,
              next + (recDist h x <<< 2)⟩
            replaying := false })

/-- R228, R182. A divergent BRA takes BAD_OPERAND where it has no reconvergence operand or one outside the global addresses, and
DIVERGENCE_DEPTH where it has a legal one and the group's entry is busy: no register changes, and the threads, PCs and WAIT
bits of the arms stay as they were. -/
def Sys2Proof.Claims.BraDepthTraps : Prop :=
  ∀ (h : Hd) (r : Option Src) (off : BitVec 20) (s : State) (c k cause : Nat) (arm : Bool),
    TgTurn s c k arm → h.u = false →
    branching (s.tg c k) arm h ≠ 0 → branching (s.tg c k) arm h ≠ (s.tg c k).active arm →
    (match r with
      | none => cause = 0x07
      | some x =>
        if ((s.tg c k).armPc arm + BitVec.ofNat 64 (4 * hdLen h) + (recDist h x <<< 2)).extractLsb' 56 8 = 0 then
          (s.tg c k).div.isSome = true ∧ cause = 0x10
        else cause = 0x07) →
    s.busy (tgActor c k) = false → (s.tg c k).late = [] → (s.tg c k).svc = none →
    ((s.tg c k).frame.isSome = true ∨ (s.core c).csr.delivers cause = false) →
    ∃ t f, exec (.bra h r off) s = .next t ∧ (t.tg c k).svc = some f ∧ f.cause = cause ∧
      f.fpc = (s.tg c k).armPc arm ∧ f.pc = (s.tg c k).armPc arm ∧ (t.tg c k).armPark arm = .fault ∧
      (t.tg c k).v = (s.tg c k).v ∧ (t.tg c k).o = (s.tg c k).o ∧ (t.tg c k).p = (s.tg c k).p ∧
      (t.tg c k).g = (s.tg c k).g ∧ (t.tg c k).l0 = (s.tg c k).l0 ∧ (t.tg c k).live = (s.tg c k).live ∧
      (t.tg c k).path = (s.tg c k).path ∧ (t.tg c k).pc = (s.tg c k).pc ∧
      spillDiv (t.tg c k).div arm = spillDiv (s.tg c k).div arm ∧
      (t.tg c k).armPc arm = (s.tg c k).armPc arm ∧ (∀ a, t.actor a = s.actor a)

/-- R230. RECONV at the reconvergence PC of a busy entry sets the arm's WAIT bit; when the other arm waits too, or has no live
thread, the entry becomes idle and the live threads of both arms go on behind the RECONV. Anywhere else it is a NOP. -/
def Sys2Proof.Claims.ReconvJoinsTheArms : Prop :=
  ∀ (h : Hd) (s : State) (c k : Nat) (arm : Bool),
    TgTurn s c k arm →
    let g := s.tg c k
    (g.div = none → ∃ t, exec (.reconv h) s = .next t ∧ GroupGoes s t c k (g.past arm (hdLen h) g)) ∧
    (∀ d, g.div = some d → (g.armPc arm ≠ d.rpc ∨ branching g arm h = 0) →
      ∃ t, exec (.reconv h) s = .next t ∧ GroupGoes s t c k (g.past arm (hdLen h) g)) ∧
    (∀ d, g.div = some d → g.armPc arm = d.rpc → branching g arm h ≠ 0 →
      let other := if arm then d.f else d.t
      if other.wait = true ∨ other.mask &&& g.live = 0 then
        ∃ t, exec (.reconv h) s = .next t ∧
          GroupGoes s t c k { g with div := none, path := (d.t.mask ||| d.f.mask) &&& g.live, pc := d.rpc + 8, park := .ready, replaying := false }
      else
        ∃ t, exec (.reconv h) s = .next t ∧
          GroupGoes s t c k
            { g with
              div := some (if arm then { d with t := { d.t with wait := true } } else { d with f := { d.f with wait := true } })
              replaying := false })

/-- R231. FUSE of a group outside a gang, or of a diverged one, is a NOP; where it is the last of its gang to reach the FUSE, every
live member goes on behind it. -/
def Sys2Proof.Claims.FuseReleasesTheGang : Prop :=
  ∀ (h : Hd) (s : State) (c k : Nat) (arm : Bool),
    TgTurn s c k arm →
    ((s.tg c k).width = 1 ∨ (s.tg c k).div.isSome = true ∨ branching (s.tg c k) arm h = 0 →
      ∃ t, exec (.fuse h) s = .next t ∧ GroupGoes s t c k ((s.tg c k).past arm (hdLen h) (s.tg c k))) ∧
    ((s.tg c k).width ≠ 1 → (s.tg c k).div = none → branching (s.tg c k) arm h ≠ 0 → k ∈ (s.core c).liveGang (s.tg c k) →
      (∀ j ∈ (s.core c).liveGang (s.tg c k), j ≠ k →
        (s.tg c j).fuseAt.isSome = true ∧ (s.tg c j).div = none ∧ (s.tg c j).pc = (s.tg c k).pc) →
      ∃ t, exec (.fuse h) s = .next t ∧
        ∀ j ∈ (s.core c).liveGang (s.tg c k),
          (t.tg c j).fuseAt = none ∧ (t.tg c j).pc = (s.tg c k).pc + BitVec.ofNat 64 (4 * hdLen h) ∧ (t.tg c j).v = (s.tg c j).v)

/-- R181, R182, R232. DPUSH writes the spilled form of the divergence entry to three group registers and makes the entry idle, with
the pushing arm's threads on the path; with an idle entry it writes zeros. That the spilled masks hold live threads only is the
model's reading (log 19). -/
def Sys2Proof.Claims.DpushSpillsTheEntry : Prop :=
  ∀ (h : Hd) (r : BitVec 5) (s : State) (c k : Nat) (arm : Bool),
    TgTurn s c k arm → (s.tg c k).leadGuard arm h.pred h.pn = true →
    let g := s.tg c k
    let words : DWord × DWord × DWord := match g.div with
      | none => (0, 0, 0)
      | some d =>
        let own := if arm then d.t else d.f
        let other := if arm then d.f else d.t
        ((own.mask &&& g.live) ++ (other.mask &&& g.live) ++ (0#29 ++ BitVec.ofBool other.wait ++ 1#2), d.rpc, other.pc)
    ∃ t, exec (.dpush h r) s = .next t ∧
      t.tg c k = { ((g.setG r.toNat words.1).setG (r.toNat + 1) words.2.1).setG (r.toNat + 2) words.2.2 with
        div := none, path := if g.div.isSome then g.active arm else g.path
        pc := g.armPc arm + BitVec.ofNat 64 (4 * hdLen h), park := .ready, replaying := false } ∧
      KeepsDevice { s with retries := t.retries } t ∧ KeepsOtherCores s t c ∧ KeepsOtherActors s t (tgActor c k) ∧ (∀ j, j ≠ k → t.tg c j = s.tg c j)

/-- R181, R182, R232, R241. DPOP of a well-formed spilled entry, by an arm of an idle entry whose threads are the entry's first mask,
makes the entry busy again: the popping arm at the next instruction, the held arm at its own PC with its WAIT bit, or behind the
instruction there that firmware has skipped for it meanwhile; a spilled idle entry is a NOP, whatever its masks (log 21). -/
def Sys2Proof.Claims.DpopRestoresTheEntry : Prop :=
  ∀ (h : Hd) (r : BitVec 5) (s : State) (c k : Nat) (arm : Bool),
    TgTurn s c k arm → (s.tg c k).leadGuard arm h.pred h.pn = true → (s.tg c k).div = none →
    let g := s.tg c k
    let w := g.greg r.toNat
    let rpc := g.greg (r.toNat + 1)
    let bpc := g.greg (r.toNat + 2)
    w.extractLsb' 1 1 = 0 → w.extractLsb' 3 29 = 0 → w.extractLsb' 48 16 &&& w.extractLsb' 32 16 = 0 →
    legalTarget rpc → legalTarget bpc →
    (w.getLsbD 0 = false → ∃ t, exec (.dpop h r) s = .next t ∧ GroupGoes s t c k (g.past arm (hdLen h) g)) ∧
    (w.getLsbD 0 = true → w.extractLsb' 48 16 &&& g.live = g.active arm →
      ∃ t, exec (.dpop h r) s = .next t ∧
        GroupGoes s t c k
          { g with
            div := some ⟨⟨w.extractLsb' 48 16 &&& g.live, g.pc + BitVec.ofNat 64 (4 * hdLen h), false, .ready⟩,
              ⟨w.extractLsb' 32 16 &&& g.live,
                match g.skipOf (w.extractLsb' 32 16 &&& g.live) bpc with | some y => y.next | none => bpc,
                w.getLsbD 2, .ready⟩, rpc⟩
            skips := match g.skipOf (w.extractLsb' 32 16 &&& g.live) bpc with | some y => g.skips.erase y | none => g.skips
            replaying := false })

/-- R22, R115, R233. DQPOP takes the oldest decision word into its group register when no earlier group waits and no group with a
higher number has taken one in the same local cycle; on an empty queue it parks, and on an empty queue that the Spur has closed it
takes DQ_CLOSED. -/
def Sys2Proof.Claims.DqpopTakesTheOldestWord : Prop :=
  ∀ (h : Hd) (r : BitVec 5) (s : State) (c k : Nat) (arm : Bool),
    TgTurn s c k arm → (s.tg c k).leadGuard arm h.pred h.pn = true →
    (∀ x l, (s.core c).dq = x :: l → s.mayTake c { ring := none, slot := k, arm } = true →
      ∃ t, exec (.dqpop h r) s = .next t ∧ (t.core c).dq = l ∧
        t.tg c k = (s.tg c k).past arm (hdLen h) ((s.tg c k).setG r.toNat x.word) ∧
        KeepsDevice s t ∧ KeepsOtherCores s t c ∧ KeepsOtherActors s t (tgActor c k) ∧ (∀ j, j ≠ k → t.tg c j = s.tg c j)) ∧
    ((s.core c).dq = [] → (s.core c).spur.run ≠ .done →
      ∃ t, exec (.dqpop h r) s = .next t ∧ (t.tg c k).armPc arm = (s.tg c k).armPc arm ∧ (t.tg c k).armPark arm = .dq ∧
        (t.tg c k).g = (s.tg c k).g ∧ (t.core c).dq = [] ∧ KeepsDevice s t) ∧
    ((s.core c).dq = [] → (s.core c).spur.run = .done → s.busy (tgActor c k) = false → (s.tg c k).late = [] → (s.tg c k).svc = none →
      ((s.tg c k).frame.isSome = true ∨ (s.core c).csr.delivers 0x15 = false) →
      ∃ t f, exec (.dqpop h r) s = .next t ∧ (t.tg c k).svc = some f ∧ f.cause = 0x15 ∧ f.fpc = (s.tg c k).armPc arm ∧
        (t.tg c k).armPark arm = .fault ∧ (t.tg c k).g = (s.tg c k).g ∧ (t.core c).dq = [] ∧ (∀ a, t.actor a = s.actor a))

/-- R171, R234. EXIT clears the live bits of the threads it ends; a group with threads left and an idle entry goes on at the next
instruction, and a group without any has an idle entry and an empty path. -/
def Obligations.ExitEndsItsThreads : Prop :=
  ∀ (h : Hd) (s : State) (c k : Nat) (arm : Bool),
    TgTurn s c k arm → (s.tg c k).frame = none → (s.tg c k).handler = none → (s.tg c k).div = none →
    let g := s.tg c k
    let m := branching g arm h
    (m = 0 → ∃ t, exec (.exit h) s = .next t ∧ GroupGoes s t c k (g.past arm (hdLen h) g)) ∧
    (m ≠ 0 → g.live &&& ~~~m ≠ 0 →
      ∃ t, exec (.exit h) s = .next t ∧ GroupGoes s t c k (g.past arm (hdLen h) { g with live := g.live &&& ~~~m })) ∧
    (m ≠ 0 → g.live &&& ~~~m = 0 →
      ∃ t, exec (.exit h) s = .next t ∧ (t.tg c k).live = 0 ∧ (t.tg c k).path = 0 ∧ (t.tg c k).div = none ∧
        (t.tg c k).used = true ∧ (t.core c).spur = (s.core c).spur.memberDone (.tg k) 0 (t.pubEntry (tgActor c k)) ∧
        KeepsDevice s t ∧ KeepsOtherCores s t c)

/-- R184, R237. ARRIVE counts one arrival of its group at the barrier: an arrival at lag 0 counts toward the current phase and one at
lag 1 toward the next; where the current count reaches EXP the phase completes, the bit flips and the next count becomes the current
one, which may complete at once. The group goes on at the next instruction, and its clock rises. -/
def Sys2Proof.Claims.ArriveCountsTowardItsPhase : Prop :=
  ∀ (h : Hd) (a b : Src) (s : State) (c k : Nat) (arm : Bool),
    TgTurn s c k arm →
    let g := s.tg c k
    let n := (g.src32 h.lit (g.lead arm) a).toNat
    let e := (g.src32 h.lit (g.lead arm) b).toNat
    let x := (s.core c).bar n
    let lag := g.lagAt n
    g.leadGuard arm h.pred h.pn = true → g.div = none → n ≤ 15 → 1 ≤ e → e ≤ 128 →
    s.releaseReady (tgActor c k) ((s.actor (tgActor c k)).pos + 1) .core = true →
    (x.cur = 0 ∧ x.next = 0 ∨ e = x.exp) → lag ≤ 1 →
    let cur := if lag = 0 then x.cur + 1 else x.cur
    let nxt := if lag = 0 then x.next else x.next + 1
    ∃ t, exec (.arrive h a b) s = .next t ∧
      ((t.core c).bar n).exp = e ∧
      (cur ≠ e → ((t.core c).bar n).cur = cur ∧ ((t.core c).bar n).next = nxt ∧ ((t.core c).bar n).phase = x.phase ∧
        (t.tg c k).lagAt n = lag + 1) ∧
      (cur = e → nxt ≠ e → ((t.core c).bar n).cur = nxt ∧ ((t.core c).bar n).next = 0 ∧ ((t.core c).bar n).phase = !x.phase) ∧
      (cur = e → nxt = e → ((t.core c).bar n).cur = 0 ∧ ((t.core c).bar n).next = 0 ∧ ((t.core c).bar n).phase = x.phase) ∧
      (t.tg c k).pc = g.pc + BitVec.ofNat 64 (4 * hdLen h) ∧ (t.tg c k).v = g.v ∧
      (t.actor (tgActor c k)).clk = (s.actor (tgActor c k)).clk + 1 ∧ KeepsDevice s t ∧ KeepsOtherCores s t c

/-- R237. AWAIT passes when the group's lag at the barrier is 0 and parks at its own PC otherwise; a BAR whose arrival has been made
does the same. -/
def Sys2Proof.Claims.AwaitPassesAtLagZero : Prop :=
  ∀ (i : Instr) (h : Hd) (a : Src) (s : State) (c k : Nat) (arm : Bool),
    (i = .await h a ∨ ∃ b, i = .bar h a b ∧ (s.tg c k).arrived = true ∧
      1 ≤ ((s.tg c k).src32 h.lit ((s.tg c k).lead arm) b).toNat ∧ ((s.tg c k).src32 h.lit ((s.tg c k).lead arm) b).toNat ≤ 128) →
    TgTurn s c k arm → (s.tg c k).leadGuard arm h.pred h.pn = true → (s.tg c k).div = none →
    ((s.tg c k).src32 h.lit ((s.tg c k).lead arm) a).toNat ≤ 15 →
    let lag := (s.tg c k).lagAt ((s.tg c k).src32 h.lit ((s.tg c k).lead arm) a).toNat
    ∃ t g x, exec i s = .next t ∧ TgActs s t c k g x ∧ g.v = (s.tg c k).v ∧
      (lag = 0 → g.pc = (s.tg c k).pc + BitVec.ofNat 64 (4 * hdLen h) ∧ g.park = .ready ∧ g.arrived = false ∧
        x.pos = (s.actor (tgActor c k)).pos + 1) ∧
      (lag ≠ 0 → g.pc = (s.tg c k).pc ∧ g.park = .barrier ∧ x = s.actor (tgActor c k))

/-- R237. A BAR that has not arrived makes its arrival and stays at its PC: where the arrival does not complete the phase, the group
parks with its lag raised. -/
def Sys2Proof.Claims.BarArrivesThenWaits : Prop :=
  ∀ (h : Hd) (a b : Src) (s : State) (c k : Nat) (arm : Bool),
    TgTurn s c k arm →
    let g := s.tg c k
    let n := (g.src32 h.lit (g.lead arm) a).toNat
    let e := (g.src32 h.lit (g.lead arm) b).toNat
    let x := (s.core c).bar n
    g.leadGuard arm h.pred h.pn = true → g.div = none → n ≤ 15 → 1 ≤ e → e ≤ 128 → g.arrived = false →
    s.releaseReady (tgActor c k) ((s.actor (tgActor c k)).pos + 1) .core = true →
    (x.cur = 0 ∧ x.next = 0 ∨ e = x.exp) → g.lagAt n = 0 → x.cur + 1 ≠ e →
    ∃ t, exec (.bar h a b) s = .next t ∧ ((t.core c).bar n).cur = x.cur + 1 ∧ ((t.core c).bar n).exp = e ∧
      (t.tg c k).lagAt n = 1 ∧ (t.tg c k).arrived = true ∧ (t.tg c k).pc = g.pc ∧ (t.tg c k).park = .barrier ∧
      (t.tg c k).v = g.v ∧ KeepsDevice s t

/-- R187, R239, R304. SBAR: an arrival whose cumulative fence has completed is counted, and the group parks; once the round has
ended, the group goes on with its index one further. -/
def Sys2Proof.Claims.SbarArrivesAndIsReleased : Prop :=
  ∀ (h : Hd) (sc : Sc) (a : Src) (s : State) (c k : Nat) (arm : Bool),
    TgTurn s c k arm → (s.tg c k).leadGuard arm h.pred h.pn = true →
    let g := s.tg c k
    let e := (g.src32 h.lit (g.lead arm) a).toNat
    let x := s.sbar (scCode sc) (scInst sc c) (s.asidOf c)
    (g.sbWait = none → g.div = none → 1 ≤ e → e ≤ 131072 →
      s.fenceDone (tgActor c k) ⟨(s.actor (tgActor c k)).pos + 1, .cum, scScope sc⟩ = true →
      (x.members = [] ∨ x.exp = e) →
      ∃ t, exec (.sbar h sc a) s = .next t ∧ (t.tg c k).sbWait = some x.rounds ∧ (t.tg c k).park = .barrier ∧
        (t.tg c k).pc = g.pc ∧ KeepsOtherCores s t c ∧
        (let y := t.sbar (scCode sc) (scInst sc c) (s.asidOf c)
         if x.members.length + 1 = e then y.members = [] ∧ y.rounds = x.rounds + 1
         else y.members = x.members ++ [tgActor c k] ∧ y.rounds = x.rounds ∧ y.exp = e)) ∧
    (∀ r, g.sbWait = some r → x.rounds ≠ r →
      ∃ t, exec (.sbar h sc a) s = .next t ∧ (t.tg c k).sbWait = none ∧
        (t.tg c k).armPc arm = g.armPc arm + BitVec.ofNat 64 (4 * hdLen h) ∧
        (match sc with
          | .core => (t.actor (tgActor c k)).bc = BitVec.ofNat 6 (r + 1)
          | .clu => (t.actor (tgActor c k)).bl = BitVec.ofNat 6 (r + 1)
          | .dev => (t.actor (tgActor c k)).bd = BitVec.ofNat 6 (r + 1)) ∧
        KeepsDevice s t ∧ KeepsOtherCores s t c)

/-- A group's BARM may join the rendezvous of its gang at its PC under a mask: no rendezvous of its own is open, every executing thread
gives the mask, the mask is legal there, whoever has joined gave the same, and its release condition holds (R186, R238). -/
def Sys2Proof.Machine.BarmJoins (s : State) (c k : Nat) (arm : Bool) (h : Hd) (a : Src) (w : DWord) : Prop :=
  let g := s.tg c k
  g.barm = none ∧ g.outer.barm = none ∧ g.div = none ∧ g.base ≤ k ∧ k < g.base + g.width ∧ branching g arm h ≠ 0 ∧
  (∀ i < 16, (branching g arm h).getLsbD i = true → g.src64 h.lit i a = w) ∧
  (s.core c).barmBad g (k - g.base) (branching g arm h) w = false ∧
  (∀ j ∈ (s.core c).barmJoined g g.pc, ∀ b, ((s.core c).tg j).barmAt g.pc = some b → b.mask = w) ∧
  s.releaseReady (tgActor c k) ((s.actor (tgActor c k)).pos + 1) .core = true

/-- R186, R238. BARM joins the rendezvous of its gang at its PC with its mask, publishes and parks; while a member that the mask
names has not joined, it waits there. With the last arrival the rendezvous is complete: every member that the mask names is
released, and goes on at its next turn. A group that joins alone is such a case. -/
def Sys2Proof.Claims.BarmMeetsAndGoesOn : Prop :=
  ∀ (h : Hd) (a : Src) (s : State) (c k : Nat) (arm : Bool),
    TgTurn s c k arm →
    let g := s.tg c k
    let m := branching g arm h
    (∀ w j, BarmJoins s c k arm h a w → j < g.width → g.base + j ≠ k → memberBits w j ≠ 0 →
      (s.tg c (g.base + j)).barmAt g.pc = none →
      ∃ t, exec (.barm h a) s = .next t ∧ (t.tg c k).barm = some ⟨g.pc, w, m, false, []⟩ ∧ (t.tg c k).park = .barrier ∧
        (t.tg c k).pc = g.pc ∧ (t.tg c k).v = g.v ∧ (t.actor (tgActor c k)).clk = (s.actor (tgActor c k)).clk + 1 ∧
        KeepsDevice s t ∧ KeepsOtherCores s t c ∧ KeepsOtherActors s t (tgActor c k)) ∧
    (∀ w, BarmJoins s c k arm h a w → memberBits w (k - g.base) = m →
      (∀ j < g.width, g.base + j ≠ k → memberBits w j ≠ 0 → g.mate (s.tg c (g.base + j)) = true ∧
        ∃ b, (s.tg c (g.base + j)).barm = some b ∧ b.pc = g.pc ∧ b.done = false ∧ b.fail = [] ∧
          memberBits w j &&& ~~~b.threads = 0) →
      ∃ t, exec (.barm h a) s = .next t ∧ (t.tg c k).barm = some ⟨g.pc, w, m, true, []⟩ ∧
        (∀ j < g.width, g.base + j ≠ k → memberBits w j ≠ 0 → ∀ b, (s.tg c (g.base + j)).barm = some b →
          (t.tg c (g.base + j)).barm = some { b with done := true } ∧ (t.tg c (g.base + j)).pc = (s.tg c (g.base + j)).pc) ∧
        (t.tg c k).pc = g.pc ∧ (t.tg c k).v = g.v ∧ (t.actor (tgActor c k)).clk = (s.actor (tgActor c k)).clk + 1 ∧
        KeepsDevice s t ∧ KeepsOtherCores s t c ∧ KeepsOtherActors s t (tgActor c k)) ∧
    (∀ b, g.barm = some b → b.fail = [] → b.done = true →
      ∃ t, exec (.barm h a) s = .next t ∧ (t.tg c k).barm = none ∧
        (t.tg c k).armPc arm = g.armPc arm + BitVec.ofNat 64 (4 * hdLen h) ∧ (t.tg c k).v = g.v ∧ KeepsDevice s t)

/-- R228. BRA: a uniform branch, or one that every active thread takes, goes to its target; one that no thread takes goes on at
the next instruction; one that some threads take from an idle entry splits the arm, the taking threads at the target and the
others at the next instruction, with the reconvergence PC that its operand gives. A divergent BRA without a legal reconvergence
operand takes BAD_OPERAND, and one of a group whose entry is busy DIVERGENCE_DEPTH: no register changes, and the threads, PCs and
WAIT bits of the arms stay. -/
def Obligations.BranchesAndTheirDepth : Prop :=
  Claims.BraTakesItsPaths ∧ Claims.BraDepthTraps

/-- R230. RECONV at the reconvergence PC of a busy entry sets the arm's WAIT bit; when the other arm waits too, or has no live
thread, the entry becomes idle and the live threads of both arms go on behind the RECONV. Anywhere else it is a NOP. R231. FUSE of
a group outside a gang, or of a diverged one, is a NOP; where it is the last of its gang to reach the FUSE, every live member
goes on behind it. Two parts are the model's readings: the path after the join is the live threads of the two arms (log 22), and any
active thread's guard makes the instruction act (log 17). -/
def Obligations.RejoiningInstructions : Prop :=
  Claims.ReconvJoinsTheArms ∧ Claims.FuseReleasesTheGang

/-- R181, R182, R232. DPUSH writes the spilled form of the divergence entry to three group registers and makes the entry idle,
with the pushing arm's threads on the path; with an idle entry it writes zeros. R181, R182, R232. DPOP of a well-formed
spilled entry, by an arm of an idle entry whose threads are the entry's first mask, makes the entry busy again: the popping
arm at the next instruction, the held arm at its own PC with its WAIT bit, or behind the instruction that firmware has skipped for it
(R241); a spilled idle entry is a NOP. Two parts are the model's readings: the spilled masks hold live threads only (log 19), and
the masks of a spilled idle entry are not looked at (log 21). -/
def Obligations.DivergenceStackMoves : Prop :=
  Claims.DpushSpillsTheEntry ∧ Claims.DpopRestoresTheEntry

/-- R184, R237. ARRIVE counts one arrival of its group at the barrier: an arrival at lag 0 counts toward the current phase and one
at lag 1 toward the next; where the current count reaches EXP the phase completes, the bit flips and the next count becomes
the current one, which may complete at once. The group goes on at the next instruction, and its clock rises. R237. AWAIT
passes when the group's lag at the barrier is 0 and parks at its own PC otherwise; a BAR whose arrival has been made does the
same. R237. A BAR that has not arrived makes its arrival and stays at its PC: where the arrival does not complete the phase,
the group parks with its lag raised. -/
def Obligations.CoreBarriersCount : Prop :=
  Claims.ArriveCountsTowardItsPhase ∧ Claims.AwaitPassesAtLagZero ∧ Claims.BarArrivesThenWaits

/-- R187, R239, R304. SBAR: an arrival whose cumulative fence has completed is counted, and the group parks; once the round has
ended, the group goes on with its index one further; that the index is the number of rounds ended there is the model's reading (log
35). R186, R238. BARM joins the rendezvous of its gang at its PC with its mask and parks; with the last arrival every member that the
mask names is released, and goes on at its next turn. -/
def Obligations.WideBarriersMeet : Prop :=
  Claims.SbarArrivesAndIsReleased ∧ Claims.BarmMeetsAndGoesOn
/-! ## Lane memory, ordering instructions and ring links -/

namespace Sys2Proof.Machine

/-- The address of a lane access with what it names: a 64-bit address, or with `scr` a 32-bit scratch address (R269). -/
def laneEa (s : State) (c : Nat) (scr : Bool) (h : Hd) (a b : Src) (g : Tg) (i : Nat) : DWord × EaAns :=
  if scr then ((g.src32 h.lit i a + g.src32 h.lit i b).setWidth 64, decodeSa c (g.src32 h.lit i a + g.src32 h.lit i b))
  else
    (g.src64 h.lit i a + (g.src32 h.lit i b).signExtend 64,
      decodeEa c (s.asidOf c) (g.src64 h.lit i a + (g.src32 h.lit i b).signExtend 64))

/-- The address of a lane atomic: the source A alone (R276, R277). -/
def atomEa (s : State) (c : Nat) (scr : Bool) (h : Hd) (a : Src) (g : Tg) (i : Nat) : DWord × EaAns :=
  if scr then ((g.src32 h.lit i a).setWidth 64, decodeSa c (g.src32 h.lit i a))
  else (g.src64 h.lit i a, decodeEa c (s.asidOf c) (g.src64 h.lit i a))

/-- Every thread of a mask has an aligned address that names its place, with no wait on a scratch line's presence bit, and in the
domain window only on a device with peer links (R23, R271). -/
def LanesReach (s : State) (c size : Nat) (m : Mask) (ad : Nat → DWord × EaAns) (f : Nat → Place) : Prop :=
  ∀ i < 16, m.getLsbD i = true →
    (ad i).2 = .ok (f i) ∧ (ad i).1.toNat % size = 0 ∧ s.bitWaits c (f i) = false ∧ (s.hasPeer = true ∨ ∀ x v, f i ≠ .win x v)

/-- Bytes of a lane access (R270). -/
def laneSize (sz : LSz) : Nat :=
  match sz with
  | .s8 | .z8 => 1
  | .s16 | .z16 => 2
  | .b32 => 4
  | .b64 => 8
  | .b128 => 16

/-- The bytes that a thread stores: the low ones of its source registers, lowest first (R274). -/
def stored (g : Tg) (sz : LSz) (i : Nat) (d : Dst) : List Byte :=
  match d with
  | .main n => leBytes (laneSize sz)
      (g.vreg (n.toNat + 3) i ++ g.vreg (n.toNat + 2) i ++ g.vreg (n.toNat + 1) i ++ g.vreg n.toNat i : BitVec 128).toNat
  | .opnd n => leBytes (laneSize sz) (g.oreg n.toNat i).toNat
  | _ => []

/-- The wait of a store's ordering kind is met (R41). -/
def OrdMet (s : State) (c k : Nat) (o : Ord) : Prop :=
  ∀ sc, o = .sync sc → s.releaseReady (tgActor c k) ((s.actor (tgActor c k)).pos + 1) sc = true

/-- A lane atomic (R275 to R277). -/
structure LaneAtomic where
  h : Hd
  scr : Bool
  size : Nat
  sc : Scope
  a : Src
  /-- the operations on a word: each with its offset in the word and its bytes -/
  parts : List (AtOp × Nat × Nat)
  val : Tg → Nat → DWord
  cmp : Tg → Nat → DWord := fun _ _ => 0
  /-- whether the form needs the stochastic unit -/
  srnd : Tg → Bool := fun _ => false

/-- An operand of an atomic at its width. -/
def operandBy (w64 : Bool) (h : Hd) (b : Src) (g : Tg) (i : Nat) : DWord :=
  if w64 then g.src64 h.lit i b else (g.src32 h.lit i b).setWidth 64

/-- The lane atomics. -/
def laneAtomic : Instr → Option LaneAtomic
  | .atom h op w64 sc _ a b =>
    some { h, scr := false, size := if w64 then 8 else 4, sc, a, parts := [(.int op, 0, if w64 then 8 else 4)]
           val := operandBy w64 h b }
  | .atoms h op w64 sc _ a b =>
    some { h, scr := true, size := if w64 then 8 else 4, sc, a, parts := [(.int op, 0, if w64 then 8 else 4)]
           val := operandBy w64 h b }
  | .cas h w64 sc _ a b cc =>
    some { h, scr := false, size := if w64 then 8 else 4, sc, a, parts := [(.cas, 0, if w64 then 8 else 4)]
           val := operandBy w64 h b, cmp := operandBy w64 h cc }
  | .atomf h op ft sc _ a b =>
    some { h, scr := false, size := 4, sc, a
           parts := match ft with
             | .f32 => [(.flt op 0 0, 0, 4)]
             | .f16x2 => [(.flt op 1 0, 0, 2), (.flt op 1 0, 2, 2)]
             | .bf16x2 => [(.flt op 2 0, 0, 2), (.flt op 2 0, 2, 2)]
           val := operandBy false h b
           srnd := fun g => decide (op = .add) && stochastic g.fpctl }
  | _ => none

/-- An operation of an atomic's table carries the rounding mode that the group has at the issue (R277). -/
def AtOp.under (o : AtOp) (fp : DWord) : AtOp :=
  match o with
  | .flt op k _ => .flt op k (fp.extractLsb' 0 3).toNat
  | o => o

end Sys2Proof.Machine

/-- R173, R270, R273. LD and LDS join the group's pending loads as one load of the acting threads, each at its own place, and the
arm goes on; no register changes at the issue. Without an acting thread they are NOPs. -/
def Obligations.LaneLoadsJoinThePendingLoads : Prop :=
  ∀ (scr : Bool) (h : Hd) (sz : LSz) (ord : Ord) (d : Dst) (a b : Src) (s : State) (c k : Nat) (arm : Bool) (f : Nat → Place),
    TgTurn s c k arm → OrdPresent s ord →
    let g := s.tg c k
    let i : Instr := if scr then .lds h sz ord d a b else .ld h sz ord d a b
    let m := branching g arm h
    LanesReach s c (laneSize sz) m (laneEa s c scr h a b g) f →
    (m = 0 → ∃ t, exec i s = .next t ∧ GroupGoes s t c k (g.past arm (hdLen h) g)) ∧
    (m ≠ 0 → ∃ t l, exec i s = .next t ∧
      TgActs s t c k
        (g.past arm (hdLen h) g) ((s.actor (tgActor c k)).withLoad l) ∧
      l.bytes = laneSize sz ∧ l.lanes = (lanesOf m).map (fun j => ⟨j, f j⟩) ∧
      l.dest = ⟨d, if h.u then .uniform sz else .ld sz⟩ ∧ l.acc.actor = tgActor c k ∧
      l.acc.pos = (s.actor (tgActor c k)).pos + 1 ∧ l.acc.ipc = g.armPc arm ∧ (l.acc.acq = true ↔ ord ≠ .plain))

/-- R41, R274. ST and STS whose wait is met put one store for each contributing thread, in ascending order, at the tail of the
group's store queue: the low bytes of the thread's register at the thread's place. The arm goes on, a releasing store publishes,
and no byte of memory changes at the issue. -/
def Sys2Proof.Claims.LaneStoresJoinTheQueue : Prop :=
  ∀ (scr : Bool) (h : Hd) (sz : LSz) (ord : Ord) (d : Dst) (a b : Src) (s : State) (c k : Nat) (arm : Bool) (f : Nat → Place),
    TgTurn s c k arm → OrdPresent s ord → OrdMet s c k ord → h.u = false →
    let g := s.tg c k
    let x := s.actor (tgActor c k)
    let m := g.contrib arm h.pred h.pn
    LanesReach s c (laneSize sz) m (laneEa s c scr h a b g) f → m ≠ 0 →
    ∃ t es, exec (if scr then .sts h sz ord d a b else .st h sz ord d a b) s = .next t ∧
      t.actor (tgActor c k) = { x with
        pos := x.pos + 1, storeQ := x.storeQ ++ es, unacked := x.unacked + es.length
        clk := if ord = .plain then x.clk else x.clk + 1 } ∧
      es.map Entry.place = (lanesOf m).map f ∧
      es.map Entry.eff = (lanesOf m).map (fun j => .store (stored g sz j d)) ∧
      (∀ e ∈ es, e.acc.actor = tgActor c k ∧ e.acc.pos = x.pos + 1 ∧ (e.acc.rel = true ↔ ord ≠ .plain) ∧ e.dest = some ⟨d, .data⟩) ∧
      t.tg c k = g.past arm (hdLen h) g ∧ (∀ j, j ≠ k → t.tg c j = s.tg c j) ∧ (t.core c).spur = (s.core c).spur ∧
      KeepsOtherCores s t c ∧ KeepsOtherActors s t (tgActor c k) ∧ KeepsBytes s t

/-- R41, R275 to R277. ATOM, ATOMS, CAS and ATOMF whose wait is met put atomics at the tail of the group's store queue that name
each contributing thread with its operands, at the thread's own word, once for each part of the word; no other thread and no other
place is named, and no byte of memory changes at the issue. -/
def Sys2Proof.Claims.LaneAtomicsJoinTheQueue : Prop :=
  ∀ (i : Instr) (o : LaneAtomic) (s : State) (c k : Nat) (arm : Bool) (f : Nat → Place),
    laneAtomic i = some o → TgTurn s c k arm → (o.sc = .dom → s.hasPeer = true) → o.h.u = false →
    (o.srnd (s.tg c k) = true → s.hasSrnd = true) →
    (o.sc = .tg ∨ s.releaseReady (tgActor c k) ((s.actor (tgActor c k)).pos + 1) o.sc = true) →
    let g := s.tg c k
    let x := s.actor (tgActor c k)
    let m := g.contrib arm o.h.pred o.h.pn
    LanesReach s c o.size m (atomEa s c o.scr o.h o.a g) f → (o.scr = false → ∀ j n off, f j ≠ .scr n off) → m ≠ 0 →
    ∃ t es, exec i s = .next t ∧
      t.actor (tgActor c k) = { x with
        pos := x.pos + 1, storeQ := x.storeQ ++ es, unacked := x.unacked + es.length
        clk := if o.sc = .tg then x.clk else x.clk + 1 } ∧
      (∀ p ∈ o.parts, ∀ j < 16, m.getLsbD j = true → ∃ e ∈ es, e.place = (f j).plus p.2.1 ∧
        ∃ ls, e.eff = .rmw (p.1.under g.fpctl) p.2.2 ls ∧ ⟨j, o.val g j >>> (8 * p.2.1), o.cmp g j⟩ ∈ ls) ∧
      (∀ e ∈ es, e.acc.actor = tgActor c k ∧ e.acc.pos = x.pos + 1 ∧ ∃ p ∈ o.parts, ∃ ls, e.eff = .rmw (p.1.under g.fpctl) p.2.2 ls ∧
        ls ≠ [] ∧ ∀ l ∈ ls, l.lane < 16 ∧ m.getLsbD l.lane = true ∧ e.place = (f l.lane).plus p.2.1) ∧
      t.tg c k = g.past arm (hdLen o.h) g ∧ (∀ j, j ≠ k → t.tg c j = s.tg c j) ∧
      (t.core c).spur = (s.core c).spur ∧ KeepsOtherCores s t c ∧ KeepsOtherActors s t (tgActor c k) ∧ KeepsBytes s t

/-- R43, R279 to R281, R287. FENCE whose older accesses have come as far as its kind asks opens a fence of its actor and, unless it only
acquires, publishes; WAITST with nothing
outstanding goes on; PREF `.l2` goes on, and PREF leaves every register and every byte; CAIRN gives its destination the mode the
actor had and sets the new one. Each holds in a group, and FENCE and CAIRN in the Spur too. -/
def Sys2Proof.Claims.OrderingInstructionsComplete : Prop :=
  ∀ (h : Hd) (s : State) (c k : Nat) (arm : Bool),
    (TgTurn s c k arm →
      let g := s.tg c k
      let x := s.actor (tgActor c k)
      (∀ fk sc, g.leadGuard arm h.pred h.pn = true → (sc = .dom → s.hasPeer = true) →
        s.fenceReady (tgActor c k) ⟨x.pos + 1, fk, sc⟩ = true →
        ∃ t, exec (.fence h fk sc) s = .next t ∧
          TgActs s t c k (g.past arm (hdLen h) g) { x with
            pos := x.pos + 1, fences := x.fences ++ [⟨x.pos + 1, fk, sc⟩], clk := if fk = .acq then x.clk else x.clk + 1 }) ∧
      (s.unsettled (tgActor c k) = false → ∃ t, exec (.waitst h) s = .next t ∧ GroupGoes s t c k (g.past arm (hdLen h) g)) ∧
      (∀ a b, ∃ t, exec (.pref h true a b) s = .next t ∧ GroupGoes s t c k (g.past arm (hdLen h) g)) ∧
      (∀ a b, ∃ t, exec (.pref h false a b) s = .next t ∧ t.tg c k = g.past arm (hdLen h) g ∧
        t.actor (tgActor c k) = x.issued ∧ KeepsOtherCores s t c ∧ KeepsOtherActors s t (tgActor c k) ∧ KeepsBytes s t) ∧
      (∀ cm d, branching g arm h ≠ 0 →
        ∃ t, exec (.cairn h cm d) s = .next t ∧
          TgActs s t c k
            (g.past arm (hdLen h) (g.putTg false (x.pos + 1) (branching g arm h) d (BitVec.ofNat 64 x.ovr)))
            { x with pos := x.pos + 1, ovr := cmCode cm, spent := false })) ∧
    (SpurTurn s c → (s.core c).spur.guard h = true →
      let p := (s.core c).spur
      let x := s.actor (spurActor c)
      (∀ fk sc, (sc = .dom → s.hasPeer = true) → s.fenceReady (spurActor c) ⟨x.pos + 1, fk, sc⟩ = true →
        ∃ t, exec (.fence h fk sc) s = .next t ∧
          SpurActs s t c (p.past (hdLen h) p) { x with
            pos := x.pos + 1, fences := x.fences ++ [⟨x.pos + 1, fk, sc⟩], clk := if fk = .acq then x.clk else x.clk + 1 }) ∧
      (∀ cm d, ∃ t, exec (.cairn h cm d) s = .next t ∧
        SpurActs s t c (p.wrote h d (BitVec.ofNat 64 x.ovr)) { x with pos := x.pos + 1, ovr := cmCode cm, spent := false }))

/-- R288, R299. CSCRUB with nothing outstanding, in a group or in the Spur, takes its range line by line, a step for each: the step
of a line that may be written makes a Cairn line's sidecar two empty stamps, changes no other byte of memory and stays at the
instruction with the next line to come. Behind the last line the core's Cairn copies of the range are dropped, and the actor goes on;
of an empty range that is the first step. -/
def Sys2Proof.Claims.CscrubEmptiesTheSidecar : Prop :=
  ∀ (h : Hd) (a b : Src) (s : State) (c k : Nat) (arm : Bool) (va len line : Nat),
    va < 0x00FF000000000000 → va % 128 = 0 → len % 128 = 0 → (s.hasPeer = true ∨ va + len ≤ 0x00FF000000000000) →
    let g := s.tg c k
    let i := (lowest (branching g arm h)).getD 0
    let q := (s.core c).spur
    let inGroup := TgTurn s c k arm ∧ branching g arm h ≠ 0 ∧ s.unsettled (tgActor c k) = false ∧
      line = (g.scrub.map Prod.snd).getD va ∧ va = (g.src64 h.lit i a).toNat ∧ len = (g.src32 h.lit i b).toNat
    let inSpur := SpurTurn s c ∧ q.guard h = true ∧ s.busy (spurActor c) = false ∧ line = q.scrub.getD va ∧
      va = (q.src h.lit a).toNat ∧ len = (q.src h.lit b).toNat % 2 ^ 32
    (inGroup ∨ inSpur) →
    (va + len ≤ line → ∃ t, exec (.cscrub h a b) s = .next t ∧ KeepsDevice s t ∧
      (∀ x ∈ (t.core c).copies, x.asid = s.asidOf c → va / 128 ≤ x.line → x.line < va / 128 + len / 128 → x.k = false) ∧
      (inGroup → t.tg c k = g.past arm (hdLen h) { g with scrubbing := false, scrub := none }) ∧
      (inSpur → (t.core c).spur = q.past (hdLen h) { q with scrubbing := false, scrub := none })) ∧
    (∀ p, line < va + len → line < 0x00FF000000000000 → s.locGlob .wr (s.asidOf c) line = .ok (.phys p) →
      s.dramHeld (.phys p) = false →
      ∃ t, exec (.cscrub h a b) s = .next t ∧
        t.mem = (if p.k then
            mwrite 0 s.mem (sidecarAddr p.phys) (leBytes 8 Stamp.empty.word.toNat ++ leBytes 8 Stamp.empty.word.toNat)
          else s.mem) ∧
        (inGroup → t.tg c k = { g with scrubbing := true, scrub := some (arm, line + 128) }) ∧
        (inSpur → (t.core c).spur = { q with scrubbing := true, scrub := some (line + 128) }) ∧ ∀ x, t.actor x = s.actor x)

/-- R265, R266, R282 to R286. A ring instruction that may go on, no group with a higher number having taken in the local cycle: RRES
takes the slot at HEAD and lowers CNT, RGET takes the slot at HEAD, raises CNT, acquires and gains what the publication carried,
each giving the slot's address to its destination; RPUB of the slot at TAIL raises TAIL on both sides, RREL of the oldest held slot
lowers its own CNT and raises the producer's; both publish. -/
def Obligations.RingInstructionsMoveTheirSlots : Prop :=
  ∀ (h : Hd) (d : Dst) (a b : Src) (s : State) (c k n : Nat) (arm : Bool),
    TgTurn s c k arm →
    let g := s.tg c k
    let ac := tgActor c k
    let m := branching g arm h
    let i := (lowest m).getD 0
    let r := (s.core c).ring n
    let peer := (s.core r.peer).ring r.pring
    let w : Waiter := { ring := some n, slot := k, arm }
    m ≠ 0 → n = (g.src32 h.lit i a).toNat → n ≤ 15 → r.en = true → r.n ≠ 1 →
    (r.role = false → 1 < r.cnt → s.mayTake c w = true →
      ∃ t, exec (.rres h d a) s = .next t ∧ (t.core c).ring n = r.setPos (r.cnt - 1) r.tail ((r.head + 1) % r.n) ∧
        t.tg c k = g.past arm (hdLen h) (g.putTg true ((s.actor ac).pos + 1) m d (r.slot (r.head % r.n))) ∧
        KeepsDevice s t ∧ KeepsOtherCores s t c ∧ KeepsOtherActors s t ac) ∧
    (r.role = true → r.tail ≠ r.head → s.mayTake c w = true →
      ∃ t, exec (.rget h d a) s = .next t ∧
        (t.core c).ring n = { r.setPos (r.cnt + 1) r.tail ((r.head + 1) % r.n) with pubs := r.pubs.drop 1 } ∧
        t.tg c k = g.past arm (hdLen h) (g.putTg true ((s.actor ac).pos + 1) m d (r.slot (r.head % r.n))) ∧
        (∀ p, r.pubs.head? = some p → t.actor ac = ((s.gain ac p).actor ac).issued) ∧
        (r.pubs = [] → t.actor ac = (s.actor ac).issued) ∧ (t.core c).copies = [] ∧ KeepsDevice s t ∧ KeepsOtherCores s t c ∧ KeepsOtherActors s t ac) ∧
    (ringMatch c n (s.asidOf c) r r.peer r.pring (s.asidOf r.peer) peer = true → (s.core r.peer).launch.isSome = true →
      s.releaseReady ac ((s.actor ac).pos + 1) .dev = true →
      (r.role = false → r.tail < r.n → r.head < r.n → r.tail ≠ r.head → g.src64 h.lit i b = r.slot r.tail →
        ∃ t, exec (.rpub h a b) s = .next t ∧ (t.core c).ring n = r.setPos r.cnt ((r.tail + 1) % r.n) r.head ∧
          (t.core r.peer).ring r.pring =
            { peer.setPos peer.cnt ((peer.tail + 1) % peer.n) peer.head with pubs := peer.pubs ++ [s.pubEntry ac] } ∧
          t.tg c k = g.past arm (hdLen h) g ∧ (t.actor ac).clk = (s.actor ac).clk + 1 ∧
          KeepsDevice s t ∧ KeepsOtherActors s t ac) ∧
      (r.role = true → r.cnt ≠ 0 → r.cnt < r.n → r.head < r.n → g.src64 h.lit i b = r.slot ((r.head + r.n - r.cnt) % r.n) →
        ∃ t, exec (.rrel h a b) s = .next t ∧ (t.core c).ring n = r.setPos (r.cnt - 1) r.tail r.head ∧
          (t.core r.peer).ring r.pring = peer.setPos (peer.cnt + 1) peer.tail peer.head ∧
          t.tg c k = g.past arm (hdLen h) g ∧ (t.actor ac).clk = (s.actor ac).clk + 1 ∧
          KeepsDevice s t ∧ KeepsOtherActors s t ac))

/-- R41, R274 to R277. Lane stores and lane atomics put their entries at the tail of their group's store queue. -/
def Obligations.LaneStoresAndAtomicsJoinTheQueue : Prop :=
  Claims.LaneStoresJoinTheQueue ∧ Claims.LaneAtomicsJoinTheQueue

/-- R43, R279 to R281, R287, R288, R299. FENCE, WAITST, PREF, CAIRN and CSCRUB complete as their rules say. Two parts are the model's
readings: when a FENCE is ready and that its issue raises the clock (log 29), and that any active thread's guard makes CAIRN act
(log 17). -/
def Obligations.OrderingAndSidecars : Prop :=
  Claims.OrderingInstructionsComplete ∧ Claims.CscrubEmptiesTheSidecar
/-! ## Spur engine -/

namespace Sys2Proof.Machine

/-- A fork set of a Spur. -/
def Spur.hasSet (p : Spur) (f : ForkSet) : Prop := p.sets.find? (fun x => x.num = f.num) = some f

/-- The core whose own queue a LAUNCH posts to (R118); `none` is the cluster's queue. -/
def cardCore (c : Nat) (tgt : Tgt) : Option Nat :=
  match tgt with
  | .self => some c
  | .next => some (ringNext c)
  | .prev => some (ringPrev c)
  | .cluster => none

/-- The launch of a core with its next command number taken (R462). -/
def Core.tookSeq (c : Core) : Option Launch := c.launch.map fun l => { l with nextSeq := l.nextSeq + 1 }

end Sys2Proof.Machine

/-- R22, R115, R161. DQPUT whose stores have reached the core puts its word at the tail of the decision queue and publishes; with 64
words queued the Spur parks in PARK_DQ at the DQPUT. -/
def Sys2Proof.Claims.DqputQueuesItsWord : Prop :=
  ∀ (h : Hd) (a : Src) (s : State) (c : Nat),
    SpurTurn s c → (s.core c).spur.guard h = true →
    let p := (s.core c).spur
    let ac := spurActor c
    s.releaseReady ac ((s.actor ac).pos + 1) .core = true →
    ((s.core c).dq.length < 64 → ∃ t, exec (.dqput h a) s = .next t ∧
      t.core c = { s.core c with
        dq := (s.core c).dq ++ [⟨p.src h.lit a, s.pubEntry ac⟩], spur := p.past (hdLen h) p } ∧
      t.actor ac = { s.actor ac with pos := (s.actor ac).pos + 1, clk := (s.actor ac).clk + 1 } ∧
      KeepsDevice s t ∧ KeepsOtherCores s t c ∧ KeepsOtherActors s t ac) ∧
    (64 ≤ (s.core c).dq.length → ∃ t, exec (.dqput h a) s = .next t ∧
      t.core c = { s.core c with spur := { p with run := .parkDq } } ∧ KeepsDevice s t ∧ KeepsOtherCores s t c ∧
      ∀ x, t.actor x = s.actor x)

/-- R137, R168, R169. YIELD with no request raised goes on, and with one the Spur is YIELDED behind it and a cooperative save begins;
TRAP takes TRAP with its 16-bit code as the frame's address; SDONE of a launch ends the Spur behind itself. -/
def Obligations.YieldTrapAndSdone : Prop :=
  ∀ (h : Hd) (a : Src) (s : State) (c : Nat),
    SpurTurn s c → (s.core c).spur.guard h = true →
    let p := (s.core c).spur
    ((s.core c).csr.preq.getLsbD 0 = false → ∃ t, exec (.yield h) s = .next t ∧
      SpurActs s t c (p.past (hdLen h) p) (s.actor (spurActor c)).issued) ∧
    ((s.core c).csr.preq.getLsbD 0 = true → (s.core c).launch.isSome = true → ∃ t, exec (.yield h) s = .next t ∧
      (t.core c).spur.run = .yielded ∧ (t.core c).spur.pc = p.follow h ∧
      (t.core c).saving = some ⟨1, false, false, s.cyclesOf c⟩) ∧
    (∃ t, exec (.trap h a) s = .next t ∧ (t.core c).spur.run = .parkFault ∧
      (t.core c).spur.frame = some ⟨p.pc, 0x0F, ((p.src h.lit a).extractLsb' 0 16).setWidth 64, none, p.pc⟩ ∧
      (t.core c).spur.s = p.s ∧ (t.core c).spur.pc = p.pc) ∧
    ((s.core c).launch.isSome = true → ∃ t, exec (.sdone h) s = .next t ∧
      SpurActs s t c { p with run := .done, pc := p.follow h } (s.actor (spurActor c)).issued)

/-- R158, R159. WSPAWN of a legal PC and partition: where a gang can be placed, its groups start with all 16 threads at the PC, the
argument and their strand in g0 and g1, and D is 1; where none can, D is 0 and no group changes. -/
def Sys2Proof.Claims.WspawnStartsAGang : Prop :=
  ∀ (h : Hd) (wid : Wid) (d : Dst) (a b x : Src) (s : State) (c : Nat),
    SpurTurn s c → (s.core c).spur.guard h = true → legalTarget ((s.core c).spur.src h.lit a) →
    ((s.core c).spur.src h.lit x).toInt < 8 →
    let p := (s.core c).spur
    let n := match wid with | .w16 => 1 | .w32 => 2 | .w64 => 4
    let part := if (p.src h.lit x).toInt < 0 then none else some (p.src h.lit x).toNat
    (∀ base, s.findGang c n part = some base → ∃ t, exec (.wspawn h wid d a b x) s = .next t ∧
      (∀ i < n, (t.tg c (base + i)).used = true ∧ (t.tg c (base + i)).live = 0xFFFF ∧ (t.tg c (base + i)).path = 0xFFFF ∧
        (t.tg c (base + i)).pc = p.src h.lit a ∧ (t.tg c (base + i)).div = none ∧
        (t.tg c (base + i)).greg 0 = p.src h.lit b ∧ (t.tg c (base + i)).greg 1 = BitVec.ofNat 64 i ∧
        (t.tg c (base + i)).width = n ∧ (t.tg c (base + i)).base = base ∧ (t.tg c (base + i)).v = [] ∧
        (t.tg c (base + i)).fpctl = p.fpctl &&& 0x1F) ∧
      (∀ j, (j < base ∨ base + n ≤ j) → t.tg c j = s.tg c j) ∧
      (t.core c).spur = p.wrote h d 1 ∧ KeepsDevice s t ∧ KeepsOtherCores s t c) ∧
    (s.findGang c n part = none → ∃ t, exec (.wspawn h wid d a b x) s = .next t ∧
      (t.core c).spur = p.wrote h d 0 ∧ (t.core c).tgs = (s.core c).tgs ∧ KeepsDevice s t ∧ KeepsOtherCores s t c)

/-- R156, R157. FORK of a well-formed descriptor, whose Traverse member, if it has one, has been decided: where a set number, the
queues, a context and the gangs' places are free, the set is formed with its members, its queues run their programs, its walk is
taken by the context, its groups are started, and D is the set's number. Where anything is missing, nothing starts, and D says what: bit
63, with bit 0 for the set number, bit 1 for the contexts, bits 5 to 2 for the queues and bit 6 for the gangs. -/
def Sys2Proof.Claims.ForkStartsItsMembers : Prop :=
  ∀ (h : Hd) (d : BitVec 8) (a : Src) (s r u : State) (c rep : Nat) (walk : Option (Nat × Prob × List Nat)) (bs : List Byte)
    (f : ForkDesc),
    SpurTurn s c → (s.core c).spur.guard h = true →
    let p := (s.core c).spur
    let va := p.src h.lit a
    let taken (q : Nat) : Prop := (s.queue c q).run = true ∨ (s.queue c q).fset.isSome = true
    let v := ((u.takeSeq c).1.publish (spurActor c)).placeGangs c p.pc (u.takeSeq c).2 (u.pubEntry (spurActor c)) f.gangs
    va.toNat < 0x00FF000000000000 → va.toNat % 64 = 0 → (s.hasPeer = true ∨ va.toNat + 320 ≤ 0x00FF000000000000) →
    s.reached (spurActor c) ((s.actor (spurActor c)).pos + 1) .core = true →
    s.spurBytes c p.pc 4 va.toNat 320 = .ok bs r → ForkDesc.ofBytes c (s.asidOf c) bs = some f →
    r.forkWalk c p.pc f = .ok rep walk u →
    (∀ k, rep = 0 → p.freeSet = some k → (∀ q < 4, f.qmask.testBit q = true → ¬ taken q) → v.isSome = true →
      ∃ t ms, exec (.fork h d a) s = .next t ∧ (t.core c).spur.sets = p.sets ++ [⟨k, ms, ms, 0, []⟩] ∧
        (t.core c).spur.s = (p.wrote h (.main d) (BitVec.ofNat 64 k)).s ∧ (t.core c).spur.pc = p.follow h ∧
        (∀ q < 4, (Member.queue q ∈ ms ↔ f.qmask.testBit q = true)) ∧
        (∀ q < 4, f.qmask.testBit q = true → (t.queue c q).run = true ∧ (t.queue c q).fset = some k ∧
          (t.queue c q).recva = f.progs.getD q 0) ∧
        (∀ j, Member.tg j ∈ ms → (t.tg c j).used = true ∧ (t.tg c j).live = 0xFFFF) ∧
        (∀ i, Member.walk i ∈ ms ↔ ∃ q offs, walk = some (i, q, offs)) ∧
        (∀ i q offs, walk = some (i, q, offs) → ∃ w : State, t.ctx c i = (w.walkGo c i).ctx c i ∧
          w.ctx c i = { state := 1, prob := q, recva := f.prec, cseq := (u.takeSeq c).2, spc := p.pc, offs, fp := p.fpctl
                        fset := some k, pub := u.pubEntry (spurActor c) })) ∧
    ((rep ≠ 0 ∨ p.freeSet = none ∨ (∃ q < 4, f.qmask.testBit q = true ∧ taken q) ∨ v = none) →
      ∃ t, exec (.fork h d a) s = .next t ∧ (t.core c).spur.sets = p.sets ∧ (t.core c).tgs = (s.core c).tgs ∧
        (t.core c).queues = (s.core c).queues ∧ (t.core c).ctxs = (s.core c).ctxs ∧ (t.core c).spur.pc = p.follow h ∧
        (d.toNat ≠ 0 → let x := (t.core c).spur.reg d.toNat
          x.getLsbD 63 = true ∧ (x.getLsbD 0 = true ↔ p.freeSet = none) ∧
          (x.getLsbD 1 = true ↔ f.trv = true ∧ (s.core c).idleCtx = none) ∧
          (∀ q < 4, x.getLsbD (2 + q) = true ↔ f.qmask.testBit q = true ∧ taken q) ∧ (x.getLsbD 6 = true ↔ v = none)))

/-- R20, R160. RDZV of an outstanding set: while a member runs, the Spur parks in PARK_RDZV; when every member has ended and is quiet,
the set is gone and D is its status. -/
def Sys2Proof.Claims.RdzvCollectsItsSet : Prop :=
  ∀ (h : Hd) (d : Dst) (a : Src) (s : State) (c : Nat) (f : ForkSet),
    SpurTurn s c → (s.core c).spur.guard h = true → (s.core c).spur.hasSet f →
    f.num = ((s.core c).spur.src h.lit a).toNat →
    let p := (s.core c).spur
    (f.running ≠ [] → ∃ t, exec (.rdzv h d a) s = .next t ∧
      t.core c = { s.core c with spur := { p with run := .parkRdzv } } ∧ KeepsDevice s t ∧ KeepsOtherCores s t c) ∧
    (f.running = [] → f.members.all (s.memberQuiet c) = true → ∃ t, exec (.rdzv h d a) s = .next t ∧
      (t.core c).spur = { p.wrote h d f.status with sets := p.sets.filter fun g => g.num != f.num } ∧
      KeepsDevice s t ∧ KeepsOtherCores s t c)

/-- R117 to R119, R162. LAUNCH of a well-formed record that it has read, now or before it parked, where no Spur of a higher core
number has posted to the queue in the same local cycle, posts one job card with the record's image, arguments and
counters at the tail of its target's queue, where that has room; `.try` writes 1. A full queue parks the Spur in PARK_LAUNCH, or
with `.try` writes 0 and posts nothing. -/
def Sys2Proof.Claims.LaunchPostsItsCard : Prop :=
  ∀ (h : Hd) (tgt : Tgt) (try_ : Option Dst) (a : Src) (s u : State) (c : Nat) (bs : List Byte) (x : Card),
    SpurTurn s c → (s.core c).spur.guard h = true →
    let p := (s.core c).spur
    let va := p.src h.lit a
    let done (v : DWord) : Spur := { (match try_ with | some d => p.wrote h d v | none => p.past (hdLen h) p) with record := [] }
    (p.record = [] ∧ va.toNat < 0x00FF000000000000 ∧ va.toNat % 64 = 0 ∧
        s.releaseReady (spurActor c) ((s.actor (spurActor c)).pos + 1) .clu = true ∧ s.spurRead c p.pc va.toNat 64 = .ok bs u ∨
      p.record = bs ∧ bs ≠ [] ∧ u = s) →
    u.cardOf c bs = some x → u.postLate c tgt = false →
    (∀ k, cardCore c tgt = some k → (u.core k).pend.length < 4 →
      ∃ t, exec (.launch h tgt try_ a) s = .next t ∧ (t.core k).pend = (s.core k).pend ++ [x] ∧ (t.core c).spur = done 1) ∧
    (cardCore c tgt = none → (u.clq.filter fun e => e.1 = clusterOf c).length < 64 →
      ∃ t, exec (.launch h tgt try_ a) s = .next t ∧ t.clq = s.clq ++ [(clusterOf c, x)] ∧ (t.core c).spur = done 1) ∧
    (∀ k, cardCore c tgt = some k → 4 ≤ (u.core k).pend.length →
      ∃ t, exec (.launch h tgt try_ a) s = .next t ∧ (t.core k).pend = (s.core k).pend ∧
        (try_.isSome = true → (t.core c).spur = done 0) ∧
        (try_ = none → (t.core c).spur = { p with run := .parkLaunch, record := bs })) ∧
    (cardCore c tgt = none → 64 ≤ (u.clq.filter fun e => e.1 = clusterOf c).length →
      ∃ t, exec (.launch h tgt try_ a) s = .next t ∧ t.clq = s.clq ∧
        (try_.isSome = true → (t.core c).spur = done 0) ∧
        (try_ = none → (t.core c).spur = { p with run := .parkLaunch, record := bs }))

/-- R122, R163. LJOIN of a readable counter that its actor has no access outstanding to: at or above the target, or where an Apply
step has met the target since it parked, the Spur goes on and drops its view; below it parks in PARK_LJOIN with the counter
watched. -/
def Sys2Proof.Claims.LjoinWaitsForItsCounter : Prop :=
  ∀ (h : Hd) (a b : Src) (s : State) (c : Nat) (g : Page),
    SpurTurn s c → (s.core c).spur.guard h = true →
    let p := (s.core c).spur
    let va := p.src h.lit a
    let target := p.src h.lit b
    va.toNat < 0x00FF000000000000 → va.toNat % 8 = 0 → s.busy (spurActor c) = false → (s.actor (spurActor c)).fences = [] →
    s.locGlob .rd (s.asidOf c) va.toNat = .ok (.phys g) → g.k = false → s.damaged (.phys g) = false →
    s.owners = [] → s.dramHeld (.phys g) = false →
    (target.toNat ≤ leNat (s.locBytes (.phys g) 8) ∨ p.met = true → ∃ t, exec (.ljoin h a b) s = .next t ∧
      t.core c = { s.core c with spur := { p.past (hdLen h) p with watch := none, met := false }, copies := [] } ∧
      KeepsDevice s t ∧ KeepsOtherCores s t c) ∧
    (leNat (s.locBytes (.phys g) 8) < target.toNat → p.met = false → ∃ t, exec (.ljoin h a b) s = .next t ∧
      t.core c = { s.core c with spur := { p with run := .parkLjoin, watch := some (va, target) } } ∧
      KeepsDevice s t ∧ KeepsOtherCores s t c)

/-- R164. CPROG of a free queue starts it on the program at A, its status word at C, and D is 1; of a queue that runs, or that a fork
set holds, it starts nothing, and D is 0. -/
def Sys2Proof.Claims.CprogStartsItsQueue : Prop :=
  ∀ (h : Hd) (d : Dst) (a b x : Src) (s : State) (c : Nat),
    SpurTurn s c → (s.core c).spur.guard h = true → (s.actor (spurActor c)).fences = [] →
    let p := (s.core c).spur
    let q := (p.src h.lit b).toNat
    (p.src h.lit a).toNat < 0x00FF000000000000 → (p.src h.lit a).toNat % 16 = 0 →
    (p.src h.lit x).toNat < 0x00FF000000000000 → (p.src h.lit x).toNat % 8 = 0 → q ≤ 3 →
    ((s.queue c q).run = false → (s.queue c q).fset = none → ∃ t, exec (.cprog h d a b x) s = .next t ∧
      (t.queue c q).run = true ∧ (t.queue c q).prog = p.src h.lit a ∧ (t.queue c q).recva = p.src h.lit a ∧
      (t.queue c q).stva = p.src h.lit x ∧ (t.queue c q).ridx = 0 ∧ (∀ k, k ≠ q → t.queue c k = s.queue c k) ∧
      (t.core c).spur = p.wrote h d 1 ∧ (t.core c).launch = (s.core c).tookSeq ∧ KeepsDevice s t ∧ KeepsOtherCores s t c) ∧
    ((s.queue c q).run = true ∨ (s.queue c q).fset.isSome = true → ∃ t, exec (.cprog h d a b x) s = .next t ∧
      (t.core c).queues = (s.core c).queues ∧ (t.core c).spur = p.wrote h d 0 ∧ KeepsDevice s t ∧ KeepsOtherCores s t c)

/-- R22, R115, R161, R169, R233. DQPUT puts a word at the tail of its core's decision queue and DQPOP takes the oldest one. -/
def Obligations.DecisionWordsPass : Prop :=
  Claims.DqpopTakesTheOldestWord ∧ Claims.DqputQueuesItsWord

/-- R20, R156 to R160. WSPAWN starts a gang, FORK the members of a set, and RDZV collects a set that has ended. -/
def Obligations.ForkSetsAndGangs : Prop :=
  Claims.WspawnStartsAGang ∧ Claims.ForkStartsItsMembers ∧ Claims.RdzvCollectsItsSet

/-- R117 to R119, R122, R162 to R164. LAUNCH posts its card, LJOIN waits for its counter, and CPROG starts its queue. -/
def Obligations.LaunchesAndPrograms : Prop :=
  Claims.LaunchPostsItsCard ∧ Claims.LjoinWaitsForItsCounter ∧ Claims.CprogStartsItsQueue
/-! ## The Traverse -/

namespace Sys2Proof.Machine

/-- A context command that answers 1: the Spur's registers and PC as a result of 1 leaves them. -/
def Answered (s t : State) (c : Nat) (h : Hd) (d : Dst) (v : DWord) : Prop :=
  (t.core c).spur.s = ((s.core c).spur.wrote h d v).s ∧ (t.core c).spur.q = ((s.core c).spur.wrote h d v).q ∧
  (t.core c).spur.pc = (s.core c).spur.follow h ∧ (t.core c).spur.run = .run

/-- The descriptor items of R359. -/
def itemOf (x : Ctx) (u : Upcall) (n : Nat) : DWord :=
  let consumer := u.kind = 2
  if n = 0 then (if u.kind = 1 then 0 else BitVec.ofNat 64 u.tile.row0)
  else if n = 1 then
    (if consumer then BitVec.ofNat 64 (x.prob.tw * u.tile.tj)
     else if u.kind = 1 then BitVec.ofNat 64 (x.prob.stored true * u.tile.tj) else 0)
  else if n = 2 then BitVec.ofNat 64 ((if consumer then u.tile.rows else x.prob.storedMask (u.kind = 1) u.tile) / 2 ^ 64)
  else if n = 3 then (if consumer then BitVec.ofNat 64 (u.tile.cols / 2 ^ 64) else 0)
  else if n = 4 then x.spc
  else if n = 5 then x.cseq
  else if n = 6 then x.recva
  else if n = 7 then (if consumer then 0 else BitVec.ofNat 64 (32 * 2 ^ x.prob.kt * u.kk))
  else if n = 8 then
    (if x.prob.grouped then BitVec.ofNat 64 (x.offs.getD u.tile.group 0 + 2 ^ 32 * x.offs.getD (u.tile.group + 1) 0) else 0)
  else x.fp &&& 0x1F

/-- Every member group of an instance that has not ended stands at the HRET of one of them and may end: no divergence, no
service, no late fault, its release met. -/
def InstanceMeets (s : State) (c k : Nat) (n : Inst) : Prop :=
  ∀ j ∈ (s.core c).members n,
    (s.tg c j).div = none ∧ (s.tg c j).svc = none ∧ (s.tg c j).late = [] ∧ (s.tg c j).pc = (s.tg c k).pc ∧ (j = k ∨ (s.tg c j).arrived = true) ∧
    s.releaseReady (tgActor c j) ((s.actor (tgActor c j)).pos + 1) .core = true

end Sys2Proof.Machine

/-- R354. WALK with a context idle and the Spur's accesses acknowledged: a record that passes the checks is taken by the
lowest-numbered idle context, which walks from there, and D names it in bits 15 to 8 with status 0; a record that is refused, and a
Traverse with no idle context, give D the status and leave every context. -/
def Obligations.WalkTakesAContext : Prop :=
  ∀ (h : Hd) (d : BitVec 8) (a : Src) (s u : State) (c i : Nat) (q : Prob) (offs : List Nat),
    SpurTurn s c → (s.core c).spur.guard h = true →
    let p := (s.core c).spur
    let va := p.src h.lit a
    va.toNat < 0x00FF000000000000 → va.toNat % 256 = 0 →
    ((s.core c).idleCtx = some i → s.busy (spurActor c) = false → s.walkRead c i p.pc va.toNat = .ok q offs u →
      ∃ (t v : State), exec (.walk h d a) s = .next t ∧ t = v.walkGo c i ∧
        v.ctx c i = { state := 1, prob := q, recva := va, cseq := (u.takeSeq c).2, spc := p.pc, offs, fp := p.fpctl
                      fset := none, pub := u.pubEntry (spurActor c) } ∧
        Answered s v c h (.main d) (BitVec.ofNat 64 (256 * i))) ∧
    (∀ code, (s.core c).idleCtx = some i → s.busy (spurActor c) = false → s.walkRead c i p.pc va.toNat = .refused code u →
      ∃ t, exec (.walk h d a) s = .next t ∧ (t.core c).ctxs = (s.core c).ctxs ∧
        Answered s t c h (.main d) (BitVec.ofNat 64 code)) ∧
    ((s.core c).idleCtx = none → ∃ t, exec (.walk h d a) s = .next t ∧ (t.core c).ctxs = (s.core c).ctxs ∧
      (t.core c).launch = (s.core c).tookSeq ∧ Answered s t c h (.main d) 1)

/-- R355, R356. WSTAT of context 0 or 1 gives its destination the item and changes nothing else, in the Spur and once for a group.
WPAUSE of a walking context leaves it PAUSING or PAUSED, WRESUME of a paused or pausing one lets it walk again, and WCANCEL of any but
an idle one leaves it CANCELLING or idle with status 0x11; each then answers 1. On a context in another state they answer 0. The
cancel of a paused walk waits while a store or atomic of its handlers has not been acknowledged (R353). -/
def Obligations.ContextCommandsAnswer : Prop :=
  ∀ (h : Hd) (d : Dst) (a : Src) (s : State) (c k i : Nat) (arm : Bool) (item : Wi), i ≤ 1 →
    let p := (s.core c).spur
    let g := s.tg c k
    let x := s.ctx c i
    (TgTurn s c k arm → g.leadGuard arm h.pred h.pn = true → (g.src32 h.lit (g.lead arm) a).toNat = i →
      ∃ t, exec (.wstat h item d a) s = .next t ∧ GroupGoes s t c k
        (g.past arm (hdLen h) (g.putTg true ((s.actor (tgActor c k)).pos + 1) (g.contrib arm h.pred h.pn) d (s.walkStat c i item)))) ∧
    (SpurTurn s c → p.guard h = true → (p.src h.lit a).toNat = i →
      (∃ t, exec (.wstat h item d a) s = .next t ∧
        SpurActs s t c (p.wrote h d (s.walkStat c i item)) (s.actor (spurActor c)).issued) ∧
      (s.walkStat c i .state).extractLsb' 0 3 = BitVec.ofNat 3 x.state ∧
      (x.state = 1 → ∃ t, exec (.wpause h d a) s = .next t ∧ ((t.ctx c i).state = 2 ∨ (t.ctx c i).state = 3) ∧
        Answered s t c h d 1) ∧
      (x.state = 2 ∨ x.state = 3 → ∃ (t v : State), exec (.wresume h d a) s = .next t ∧ v.ctx c i = { x with state := 1 } ∧
        t = (v.walkGo c i).spurResult c h d 1) ∧
      (x.state = 3 → s.handlerBusy c i = true → exec (.wcancel h d a) s = .next s) ∧
      (x.state ∈ [1, 2, 3] → (x.state = 3 → s.handlerBusy c i = false) →
        ∃ t, exec (.wcancel h d a) s = .next t ∧ Answered s t c h d 1 ∧
        ((t.ctx c i).state = 4 ∧ (t.ctx c i).endAs = 0x11 ∨ (t.ctx c i).state = 0 ∧ (t.ctx c i).status = 0x11)) ∧
      (∀ j, (j = .wpause h d a ∧ x.state ≠ 1 ∨ j = .wresume h d a ∧ x.state ≠ 2 ∧ x.state ≠ 3 ∨
          j = .wcancel h d a ∧ x.state ∉ [1, 2, 3]) →
        ∃ t, exec j s = .next t ∧ SpurActs s t c (p.wrote h d 0) (s.actor (spurActor c)).issued))

/-- R351, R352. HREG of a legal entry that no walk and no instance uses and that the pool can hold writes the table's entry: the PC, the
width, the registers rounded up to eights, and the most instances; HUNREG empties an entry that is not used. -/
def Sys2Proof.Claims.HandlersAreRegistered : Prop :=
  ∀ (h : Hd) (wid : Wid) (a b x : Src) (s : State) (c : Nat),
    SpurTurn s c → (s.core c).spur.guard h = true →
    let p := (s.core c).spur
    let id := (p.src h.lit a).toNat
    let cfg := p.src h.lit x
    let regs := (cfg.extractLsb' 0 9).toNat
    let maxi := (cfg.extractLsb' 16 5).toNat
    let e : Handler := ⟨p.src h.lit b, match wid with | .w16 => 1 | .w32 => 2 | .w64 => 4, (regs + 7) / 8 * 8, maxi⟩
    id ≤ 15 → (s.core c).handlerInUse id = false →
    (cfg &&& ~~~(0x1F01FF#64) = 0 → 1 ≤ regs → regs ≤ 256 → 1 ≤ maxi → maxi ≤ 16 →
      poolHolds (s.core c).csr.poolSlots (s.core c).csr.hregs e = true → legalTarget (p.src h.lit b) →
      ∃ t, exec (.hreg h wid a b x) s = .next t ∧
        t.core c = { s.core c with handlers := mset none (s.core c).handlers id (some e), spur := p.past (hdLen h) p } ∧
        (t.core c).handlerAt id = some e ∧ KeepsDevice s t ∧ KeepsOtherCores s t c) ∧
    (∃ t, exec (.hunreg h a) s = .next t ∧
      t.core c = { s.core c with handlers := mset none (s.core c).handlers id none, spur := p.past (hdLen h) p } ∧
      KeepsDevice s t ∧ KeepsOtherCores s t c)

/-- R359, R360. In a group of an upcall instance, HDESC gives its destination the item that its table names, and ACLD in a consumer
gives each contributing thread the words of its row and columns in the instance's bank. That HDESC answers in a producer too is the
model's reading of R359 against a row of R367 (log 90). -/
def Sys2Proof.Claims.HandlerReadsItsUpcall : Prop :=
  ∀ (h : Hd) (nw : Nw) (d : Dst) (a b : Src) (s : State) (c k : Nat) (arm : Bool) (n : Inst),
    TgTurn s c k arm → (s.tg c k).leadGuard arm h.pred h.pn = true → (s.core c).instFor (s.tg c k) = some n →
    let g := s.tg c k
    let x := s.ctx c n.up.ctx
    let m := g.contrib arm h.pred h.pn
    let pos := (s.actor (tgActor c k)).pos + 1
    let w := match nw with | .x1 => 1 | .x2 => 2 | .x4 => 4
    let row (i : Nat) : Nat := (g.src32 h.lit i a).toNat
    let col (i : Nat) : Nat := (g.src32 h.lit i b).toNat
    ((g.src32 h.lit (g.lead arm) a).toNat ≤ 9 → ∃ t, exec (.hdesc h d a) s = .next t ∧
      GroupGoes s t c k
        (g.past arm (hdLen h) (g.putTg true pos m d (itemOf x n.up (g.src32 h.lit (g.lead arm) a).toNat)))) ∧
    (n.up.kind = 2 → (∀ i < 16, m.getLsbD i = true → row i < x.prob.th ∧ col i % w = 0 ∧ col i + w ≤ x.prob.tw) →
      ∃ t, exec (.acld h nw d a b) s = .next t ∧
        GroupGoes s t c k (g.past arm (hdLen h) ((lanesOf m).foldl (fun u i => u.putWords pos i d
          ((List.range w).map fun j => mget 0 (x.bank n.up.slot).words (x.prob.bankWord n.up.sub (row i) (col i + j)))) g)))

/-- R361. HRET of the last live group of an instance to arrive, its format words in order, ends the instance: every live group of it
has no live thread, and the instance is gone from the core's table. Before every live group has arrived, it only marks its
arrival. -/
def Sys2Proof.Claims.HretEndsTheInstance : Prop :=
  ∀ (h : Hd) (a : Src) (s : State) (c k : Nat) (arm : Bool) (n : Inst),
    TgTurn s c k arm → (s.tg c k).leadGuard arm h.pred h.pn = true → (s.tg c k).frame = none → (s.tg c k).div = none →
    (s.core c).instFor (s.tg c k) = some n → k ∈ n.slots →
    let live := (s.core c).members n
    let words := live.flatMap fun j => ((s.tg c j).votes h a).map Prod.snd
    (InstanceMeets s c k n → (n.up.kind = 2 ∨ s.voteCause words (n.up.kind = 0) (s.ctx c n.up.ctx).prob.cplx = 0) →
      ∃ t, exec (.hret h a) s = .next t ∧ (∀ j ∈ live, (t.tg c j).live = 0 ∧ (t.tg c j).path = 0) ∧
        (t.core c).insts = (s.core c).insts.filter (fun x => x.id != n.id)) ∧
    ((∃ j ∈ live, j ≠ k ∧ (s.tg c j).arrived = false) →
      ∃ t, exec (.hret h a) s = .next t ∧ t.tg c k = { s.tg c k with arrived := true } ∧ KeepsDevice s t ∧
        (∀ j, j ≠ k → t.tg c j = s.tg c j) ∧ ∀ x, t.actor x = s.actor x)

/-- R351, R352. HREG of a legal entry that no walk and no instance uses and that the pool can hold writes the table's entry: the
PC, the width, the registers rounded up to eights, and the most instances; HUNREG empties an entry that is not used. R359,
R360. In a group of an upcall instance, HDESC gives its destination the item that its table names, and ACLD in a consumer
gives each contributing thread the words of its row and columns in the instance's bank. R361. HRET of the last live group of
an instance to arrive, its format words in order, ends the instance: every live group of it has no live thread, and the
instance is gone from the core's table. Before every live group has arrived, it only marks its arrival. That HDESC answers in a
producer too is the model's reading (log 90). -/
def Obligations.HandlersTakeUpcalls : Prop :=
  Claims.HandlersAreRegistered ∧ Claims.HandlerReadsItsUpcall ∧ Claims.HretEndsTheInstance
/-! ## Control registers, time, traps and debug -/

namespace Sys2Proof.Machine

/-- A write of a control register: its header, number and source. sys.trrd has a statement of its own. -/
def csrWriteOf : Instr → Option (Hd × Nat × Src)
  | .csrw h n a => some (h, n.toNat, a)
  | .csrwRaceidx h a => some (h, 0x82, a)
  | .csrwTrctl h a => some (h, 0x91, a)
  | .csrwHpool h a => some (h, 0x25, a)
  | .csrwRlgeom h n a => some (h, 0x41 + 4 * n.toNat, a)
  | .csrwRlpos h n a => some (h, 0x42 + 4 * n.toNat, a)
  | .csrwHshare h a => some (h, 0x20, a)
  | .csrwMreqcap h a => some (h, 0x9A, a)
  | .csrwDbgctl h a => some (h, 0xA0, a)
  | _ => none

/-- A read index written, and with OVF the overflow cleared (R317). -/
def indexAfter (old v : DWord) : DWord :=
  let r := (old &&& ~~~0x3FFFE0000) ||| (v &&& 0x3FFFE0000)
  if v.getLsbD 63 then r &&& 0x3FFFFFFFF else r

/-- A core's own registers after a write (R125, R130, R131, R192, R317, R351, R463, R464). -/
def csrsAfter (r : Csrs) (n : Nat) (v : DWord) : Csrs :=
  match n with
  | 0x20 => { r with hshare := v }
  | 0x22 => { r with pdeadline := if v.toNat < 1024 then 1024 else v }
  | 0x23 => { r with swapwait := v }
  | 0x25 => { r with hpool := v }
  | 0x30 => { r with tvec := v }
  | 0x31 => { r with tdeleg := v }
  | 0x32 => { r with tframe := v }
  | 0x81 => { r with racebase := v }
  | 0x82 => { r with raceidx := indexAfter r.raceidx v }
  | 0xA0 => { r with dbgctl := v }
  | 0xA1 => { r with trcbase := v }
  | 0xA2 => { r with trcidx := indexAfter r.trcidx v }
  | _ => r

/-- The numbers of a core's own registers that software writes. -/
def csrOwn : List Nat := [0x20, 0x22, 0x23, 0x25, 0x30, 0x31, 0x32, 0x81, 0x82, 0xA0, 0xA1, 0xA2]

/-- A write that its register's field map allows (R166). -/
def CsrAllows (s : State) (u : CsrUser) (n : Nat) (v : DWord) : Prop :=
  ∃ f, csrFields u n = some f ∧ v &&& ~~~(f.1 ||| f.2) = 0 ∧ s.csrLegal u n v = true

/-- An instruction that reads a value once: its header, its destination, and the value for a core. -/
def readsValue (s : State) (c : Nat) : Instr → Option (Hd × Dst × DWord)
  | .time h d => some (h, d, BitVec.ofNat 64 s.refTime)
  | .cyc h d => some (h, d, BitVec.ofNat 64 (mget 0 s.cycles (c / 192)))
  | _ => none

/-- The time and the information of a calendar entry (R429, R430, R433). -/
def calendarEntry (k : Calendar) (info : Bool) (i : Nat) : DWord :=
  let n := k.next + i
  if info then
    k.gen ++ 0#16 ++ BitVec.ofNat 16 n ++ BitVec.ofNat 12 (saddleLen n) ++ 0#7 ++ BitVec.ofBool (n % 65536 = 0) ++
      BitVec.ofBool (n % 4096 = 0) ++ BitVec.ofBool (n % 256 = 0) ++ BitVec.ofBool (n % 16 = 0) ++ 1#1
  else BitVec.ofNat 64 (4096 * n + k.shift)

/-- The home of the next trace record, where the ring has room for one (R464). -/
def TraceRoom (s : State) (c : Nat) (x : Page) : Prop :=
  let r := (s.core c).csr
  let n := (r.trcbase.extractLsb' 0 5).toNat
  let w := (r.trcidx.extractLsb' 0 17).toNat
  n ≠ 0 ∧ (w + 131072 - (r.trcidx.extractLsb' 17 17).toNat) % 131072 ≠ 2 ^ n ∧
  s.ringPage (s.asidOf c) ((r.trcbase.extractLsb' 12 44).toNat * 4096 + 64 * (w % 2 ^ n)) = some x

end Sys2Proof.Machine

/-- R29, R30, R165 to R168. NOP, full or compact, goes on in either engine; TIME and CYC give their destination the reference time
and the cluster's cycles, and CSRR a register that its reader may read; nothing else changes. -/
def Obligations.NopAndReadsComplete : Prop :=
  ∀ (i : Instr) (h : Hd) (d : Dst) (v : DWord) (s : State) (c k : Nat) (arm : Bool),
    (TgTurn s c k arm →
      (∃ t, exec (.nop h) s = .next t ∧ GroupGoes s t c k ((s.tg c k).past arm (hdLen h) (s.tg c k))) ∧
      (∀ p n, ∃ t, exec (.nopCompact p n) s = .next t ∧ GroupGoes s t c k ((s.tg c k).past arm 1 (s.tg c k))) ∧
      ((readsValue s c i = some (h, d, v) ∨ ∃ n : BitVec 8, i = .csrr h d n ∧ s.csrRead (s.tgUser c k) n.toNat = some v) →
        branching (s.tg c k) arm h ≠ 0 → ∃ t, exec i s = .next t ∧ GroupGoes s t c k
          ((s.tg c k).past arm (hdLen h)
            ((s.tg c k).putTg true ((s.actor (tgActor c k)).pos + 1) (branching (s.tg c k) arm h) d v)))) ∧
    (SpurTurn s c →
      (∃ t, exec (.nop h) s = .next t ∧
        SpurActs s t c ((s.core c).spur.past (hdLen h) (s.core c).spur) (s.actor (spurActor c)).issued) ∧
      (∀ p n, ∃ t, exec (.nopCompact p n) s = .next t ∧
        SpurActs s t c ((s.core c).spur.past 1 (s.core c).spur) (s.actor (spurActor c)).issued) ∧
      ((readsValue s c i = some (h, d, v) ∨ ∃ n : BitVec 8, i = .csrr h d n ∧ s.csrRead (s.spurUser c) n.toNat = some v) →
        (s.core c).spur.guard h = true → ∃ t, exec i s = .next t ∧
          SpurActs s t c ((s.core c).spur.wrote h d v) (s.actor (spurActor c)).issued) ∧
      ((s.core c).spur.guard h = true → c % 192 = 191 → ∃ t, exec (.csrrTrctl h d) s = .next t ∧
        t.core c = { s.core c with spur := (s.core c).spur.wrote h d s.ring.ctl, copies := [] } ∧
        KeepsDevice s t ∧ KeepsOtherCores s t c))

/-- R166. A read of a control register that the reader may not read takes CSR_ACCESS, and so does a write of one that the writer may not
write; a write that sets another bit than the register's writable ones, or that its field map forbids, takes CSR_VALUE. In the
Spur the destination, the control registers and the PC stay as they were. -/
def Sys2Proof.Claims.ControlRegisterTraps : Prop :=
  ∀ (i : Instr) (h : Hd) (n : Nat) (a : Src) (d : Dst) (r : BitVec 8) (s : State) (c : Nat),
    SpurTurn s c → (s.core c).spur.guard h = true →
    let u := s.spurUser c
    (s.csrRead u r.toNat = none → ∃ t, exec (.csrr h d r) s = .next t ∧ (t.core c).spur.run = .parkFault ∧
      (t.core c).spur.frame = some ⟨(s.core c).spur.pc, 0x05, 0, none, (s.core c).spur.pc⟩ ∧ (t.core c).spur.s = (s.core c).spur.s) ∧
    (csrWriteOf i = some (h, n, a) → csrFields u n = none → ∃ t, exec i s = .next t ∧ (t.core c).spur.run = .parkFault ∧
      (t.core c).spur.frame = some ⟨(s.core c).spur.pc, 0x05, 0, none, (s.core c).spur.pc⟩) ∧
    (csrWriteOf i = some (h, n, a) → ∀ f, csrFields u n = some f → (s.core c).spur.src h.lit a &&& ~~~(f.1 ||| f.2) ≠ 0 →
      ∃ t, exec i s = .next t ∧ (t.core c).spur.run = .parkFault ∧
        (t.core c).spur.frame = some ⟨(s.core c).spur.pc, 0x06, 0, none, (s.core c).spur.pc⟩)

/-- R59, R125, R131, R166, R192, R265, R317, R351, R412, R454, R463, R464. A write of a control register that is allowed changes that
register as its field map says, and the Spur goes on: a register of its own core, a ring-link register, sys.mreqcap, the trap
ring's OVF, or sys.trrd, and sys.fpctl in a group too. -/
def Sys2Proof.Claims.ControlRegisterWrites : Prop :=
  ∀ (i : Instr) (h : Hd) (n : Nat) (a : Src) (s : State) (c k : Nat) (arm : Bool),
    (SpurTurn s c → (s.core c).spur.guard h = true → csrWriteOf i = some (h, n, a) →
      let p := (s.core c).spur
      let v := p.src h.lit a
      CsrAllows s (s.spurUser c) n v →
      ∃ t, exec i s = .next t ∧ (t.core c).spur.pc = p.follow h ∧ (t.core c).spur.s = p.s ∧ KeepsOtherCores s t c ∧
        (n ∈ csrOwn → t.core c = { s.core c with csr := csrsAfter (s.core c).csr n v, spur := p.past (hdLen h) p }) ∧
        (n = 0x10 → t.core c = { s.core c with spur := { p.past (hdLen h) p with fpctl := v } }) ∧
        (∀ j < 16, n = 0x41 + 4 * j →
          (t.core c).rings = mset {} (s.core c).rings j { (s.core c).ring j with geom := v }) ∧
        (∀ j < 16, n = 0x42 + 4 * j → (t.core c).rings = mset {} (s.core c).rings j { (s.core c).ring j with pos := v }) ∧
        (n = 0x9A → t.clusters = mset {} s.clusters (c / 192) { s.cluster (c / 192) with mreqcap := v }) ∧
        (n = 0x91 → t.ring = (if v.getLsbD 63 then { s.ring with ctl := s.ring.ctl &&& 0x7FFFFFFFFFFFFFFF } else s.ring)) ∧
        (n ∉ [0x91, 0x98, 0x99, 0x9A, 0x9B, 0x90, 0x92] → KeepsDevice s t)) ∧
    (SpurTurn s c → (s.core c).spur.guard h = true → c % 192 = 191 → (s.core c).spur.src h.lit a &&& ~~~0x1FFFF = 0 →
      s.ring.marked = [] → s.ring.lost = [] →
      ∃ t, exec (.csrwTrrd h a) s = .next t ∧ t.ring = { s.ring with rd := (s.core c).spur.src h.lit a } ∧
        t.core c = { s.core c with spur := (s.core c).spur.past (hdLen h) (s.core c).spur } ∧ KeepsOtherCores s t c) ∧
    (k < 128 → TgTurn s c k arm → branching (s.tg c k) arm h ≠ 0 → i = .csrw h 0x10 a →
      fpLegal ((s.tg c k).src64 h.lit ((s.tg c k).lead arm) a) = true →
      ∃ t, exec i s = .next t ∧ GroupGoes s t c k
        ((s.tg c k).past arm (hdLen h) { s.tg c k with
          fpctl := (s.tg c k).src64 h.lit ((s.tg c k).lead arm) a, fpPos := (s.actor (tgActor c k)).pos + 1 }))

/-- R194. XRET in handler mode leaves it: the frame is gone, the divergence entry, the path and the PC are the frame's, with `.skip`
of a trap that is not late the PC stands behind the faulting instruction, and with nothing to replay no register changes. -/
def Obligations.XretReturns : Prop :=
  ∀ (h : Hd) (skip : Bool) (s : State) (c k : Nat) (arm : Bool) (f : Frame),
    TgTurn s c k arm → (s.tg c k).leadGuard arm h.pred h.pn = true → (s.tg c k).frame = some f →
    let pc := if skip = true ∧ f.late = false then f.fpc + BitVec.ofNat 64 (4 * f.units) else f.pc
    ∃ t, exec (.xret h skip) s = .next t ∧ (t.tg c k).frame = none ∧ (t.tg c k).armPc f.arm = pc ∧
      (f.entry = none → (t.tg c k).div = none ∧ (t.tg c k).path = f.pmask ∧ (t.tg c k).pc = pc) ∧
      (∀ e, f.entry = some e → ∃ e', (t.tg c k).div = some e' ∧ e'.t.mask = e.t.mask ∧ e'.f.mask = e.f.mask ∧ e'.rpc = e.rpc ∧
        (if f.arm then e'.f = e.f else e'.t = e.t)) ∧
      (f.replay = [] → (t.tg c k).v = (s.tg c k).v ∧ (t.tg c k).o = (s.tg c k).o ∧ (t.tg c k).p = (s.tg c k).p ∧
        (t.tg c k).g = (s.tg c k).g ∧ KeepsDevice s t ∧ KeepsOtherCores s t c)

/-- R429, R430, R432, R433, R440, R441. SADL of an entry from 0 to 63 gives its destination that entry of the calendar, in a group in
every thread that acts; SCLR of a length
that fits before the next saddle's start opens a window with a result of 1, and of one that does not leaves the window with a result
of 0; SCLE closes the window. Each holds in the Spur and in a group. -/
def Obligations.SaddleInstructionsComplete : Prop :=
  ∀ (h : Hd) (info : Bool) (d : Dst) (a : Src) (s : State) (c k i : Nat) (arm : Bool),
    (SpurTurn s c → (s.core c).spur.guard h = true → i = ((s.core c).spur.src h.lit a).toNat % 2 ^ 32 →
      let p := (s.core c).spur
      (i ≤ 63 → ∃ t, exec (.sadl h info d a) s = .next t ∧
        SpurActs s t c (p.wrote h d (calendarEntry s.calendar info i)) (s.actor (spurActor c)).issued) ∧
      (1 ≤ i → i ≤ 4096 → ∃ t, exec (.sclr h d a) s = .next t ∧
        SpurActs s t c
          (match s.windowFor i with
            | some n => { p.wrote h d 1 with window := some n, crossed := false }
            | none => p.wrote h d 0)
          (s.actor (spurActor c)).issued) ∧
      (∃ t, exec (.scle h) s = .next t ∧
        SpurActs s t c { p.past (hdLen h) p with window := none, crossed := false } (s.actor (spurActor c)).issued)) ∧
    (TgTurn s c k arm → branching (s.tg c k) arm h ≠ 0 → i = ((s.tg c k).src32 h.lit ((s.tg c k).lead arm) a).toNat → i ≤ 63 →
      ∃ t, exec (.sadl h info d a) s = .next t ∧
        GroupGoes s t c k ((s.tg c k).past arm (hdLen h) ((s.tg c k).putTg true ((s.actor (tgActor c k)).pos + 1)
          (branching (s.tg c k) arm h) d (calendarEntry s.calendar info i)))) ∧
    (TgTurn s c k arm → (s.tg c k).leadGuard arm h.pred h.pn = true → i = ((s.tg c k).src32 h.lit ((s.tg c k).lead arm) a).toNat →
      let g := s.tg c k
      let pos := (s.actor (tgActor c k)).pos + 1
      let put (u : Tg) (v : DWord) : Tg := if h.u then u.putUniform d v else u.putTg false pos (g.active arm) d v
      (1 ≤ i → i ≤ 4096 → ∃ t, exec (.sclr h d a) s = .next t ∧
        GroupGoes s t c k (g.past arm (hdLen h)
          (match s.windowFor i with
            | some n => put { g with window := some n, crossed := false } 1
            | none => put g 0))) ∧
      (∃ t, exec (.scle h) s = .next t ∧ GroupGoes s t c k (g.past arm (hdLen h) { g with window := none, crossed := false })))

/-- R464 to R467. In the Spur and in a group: MARK goes on, and where its kind is recorded and the ring has room it stores one record
with its value; TRIGW goes on and drives its line, a line that is enabled with the source for software being asserted by `.set` where
it is a level and deasserted by `.clr`; BKPT is a NOP where breakpoints are off, and where they are on it takes BREAKPOINT with the
PC at the next instruction and its own PC as the one that faulted. -/
def Obligations.DebugInstructionsComplete : Prop :=
  ∀ (h : Hd) (a : Src) (act : Act) (s : State) (c k n : Nat) (x : Page) (arm : Bool),
    let p := (s.core c).spur
    let g := s.tg c k
    let drives (t : State) : Prop := s.lineOn n = true → s.lineSrc n 0 = true →
      (act = .set → (s.route n).getLsbD 62 = true → n ∈ t.asserted) ∧ (act = .clr → n ∉ t.asserted)
    (SpurTurn s c → p.guard h = true → n = (p.src h.lit a).toNat % 2 ^ 32 →
      (s.records c 1 = false → ∃ t, exec (.mark h a) s = .next t ∧
        SpurActs s t c (p.past (hdLen h) p) (s.actor (spurActor c)).issued) ∧
      (s.records c 1 = true → TraceRoom s c x → ∃ t, exec (.mark h a) s = .next t ∧
        t.mem = (s.homeWrite x (traceBytes s.refTime (s.cyclesOf c) 1 (spurActor c) p.pc 0 n p.pc.toNat)).mem ∧
        (x.c = false → t.mem = mwrite 0 s.mem x.phys (traceBytes s.refTime (s.cyclesOf c) 1 (spurActor c) p.pc 0 n p.pc.toNat)) ∧
        (t.core c).spur = p.past (hdLen h) p) ∧
      (n ≤ 31 → ∃ t, exec (.trigw h act a) s = .next t ∧ (t.core c).spur.pc = p.follow h ∧ (t.core c).spur.s = p.s ∧ drives t) ∧
      ((s.core c).csr.dbgctl.getLsbD 1 = false → ∃ t, exec (.bkpt h a) s = .next t ∧
        SpurActs s t c (p.past (hdLen h) p) (s.actor (spurActor c)).issued) ∧
      ((s.core c).csr.dbgctl.getLsbD 1 = true → ∃ t, exec (.bkpt h a) s = .next t ∧ (t.core c).spur.run = .parkFault ∧
        (t.core c).spur.pc = p.follow h ∧
        (t.core c).spur.frame = some ⟨p.follow h, 0x19, BitVec.ofNat 64 (n % 65536), none, p.pc⟩)) ∧
    (TgTurn s c k arm → g.leadGuard arm h.pred h.pn = true → n = (g.src32 h.lit (g.lead arm) a).toNat →
      (s.records c 1 = false → ∃ t, exec (.mark h a) s = .next t ∧ GroupGoes s t c k (g.past arm (hdLen h) g)) ∧
      (n ≤ 31 → ∃ t, exec (.trigw h act a) s = .next t ∧
        (t.tg c k).armPc arm = g.armPc arm + BitVec.ofNat 64 (4 * hdLen h) ∧ (t.tg c k).v = g.v ∧ drives t) ∧
      ((s.core c).csr.dbgctl.getLsbD 1 = false → ∃ t, exec (.bkpt h a) s = .next t ∧
        GroupGoes s t c k (g.past arm (hdLen h) g)) ∧
      ((s.core c).csr.dbgctl.getLsbD 1 = true → s.busy (tgActor c k) = false → g.late = [] → g.svc = none →
        (g.frame.isSome = true ∨ (s.core c).csr.delivers 0x19 = false) →
        ∃ t f, exec (.bkpt h a) s = .next t ∧ (t.tg c k).svc = some f ∧ f.cause = 0x19 ∧ f.fpc = g.armPc arm ∧
          f.pc = g.armPc arm + BitVec.ofNat 64 (4 * hdLen h) ∧ (t.tg c k).v = g.v))

/-- R166. A control register that may not be read or written takes CSR_ACCESS, a value that its map forbids takes CSR_VALUE, and a write
that is allowed changes that register and lets the writer go on. That a bit of sys.trctl which no write may set takes CSR_VALUE is the
model's reading (log 69). -/
def Obligations.ControlRegistersAreWritten : Prop :=
  Claims.ControlRegisterTraps ∧ Claims.ControlRegisterWrites
/-! ## Couloir commands -/

namespace Sys2Proof.Machine

/-- It is the turn of a queue that runs a program (R377). -/
def QueueTurn (s : State) (c q : Nat) : Prop := s.who = .queue c q ∧ q ≤ 3 ∧ (s.queue c q).run = true

/-- A command with one row: its destination, the bytes it writes, and the source of the bytes from an offset on. -/
structure FlatCommand where
  dst : Place
  bytes : Nat
  src : Nat → CSrc
  conv : Conv := .none

/-- A global place of a command: a 64-bit address below the domain window, aligned, with room for some bytes. -/
def GlobEnd (s : State) (c al n : Nat) (ea : DWord) (p : Place) : Prop :=
  ea.toNat + n ≤ 0x00FF000000000000 ∧ ea.toNat % al = 0 ∧ p = .glob (s.asidOf c) ea.toNat

/-- A scratch place of a command: a 32-bit address that names a byte, aligned, with room for some bytes. -/
def ScrEnd (c al n : Nat) (w : Word) (p : Place) : Prop :=
  ∃ k off, decodeSa c w = .ok (.scr k off) ∧ off + n ≤ 524288 ∧ w.toNat % al = 0 ∧ p = .scr k off

/-- Bytes that a conversion leaves of some bytes of FP32 (R382). -/
def convertedBytes (cv : Conv) (n : Nat) : Nat :=
  match cv with
  | .none => n
  | .bf16 | .f16 => n / 2
  | .e4m3 => n / 4

/-- A conversion that a row of a length can take, its unit there (R4, R382). -/
def ConvFits (s : State) (c q : Nat) (cv : Conv) (n : Nat) : Prop :=
  n % (match cv with | .none => 16 | .bf16 | .f16 => 32 | .e4m3 => 64) = 0 ∧
  (cv ≠ .none → stochastic (s.queue c q).fp = true → s.hasSrnd = true)

/-- The source of a copied row from an offset of its destination on. -/
def copiedFrom (cv : Conv) (src : Place) (o : Nat) : CSrc :=
  match cv with
  | .none => .copy (src.at_ o)
  | .bf16 | .f16 => .conv (o / 2)
  | .e4m3 => .conv o

/-- The one-row commands that pass their checks, with what they do (R380, R382, R385, R386). -/
def FlatLegal (s : State) (c q : Nat) (f : FlatCommand) : Instr → Prop
  | .ccpy cv len glob scr =>
    ∃ g k, GlobEnd s c 16 (16 * (len.toNat + 1)) glob g ∧ ScrEnd c 16 (convertedBytes cv (16 * (len.toNat + 1))) scr k ∧
      ConvFits s c q cv (16 * (len.toNat + 1)) ∧
      f = ⟨k, convertedBytes cv (16 * (len.toNat + 1)), copiedFrom cv g, cv⟩
  | .ccpyG cv len glob scr =>
    ∃ g k, GlobEnd s c 16 (convertedBytes cv (16 * (len.toNat + 1))) glob g ∧ ScrEnd c 16 (16 * (len.toNat + 1)) scr k ∧
      ConvFits s c q cv (16 * (len.toNat + 1)) ∧
      f = ⟨g, convertedBytes cv (16 * (len.toNat + 1)), copiedFrom cv k, cv⟩
  | .cfil len pat scr =>
    ∃ k, ScrEnd c 16 (16 * (len.toNat + 1)) scr k ∧ f = ⟨k, 16 * (len.toNat + 1), fun o => .fill pat o, .none⟩
  | .cfilG len glob pat =>
    ∃ g, GlobEnd s c 16 (16 * (len.toNat + 1)) glob g ∧ f = ⟨g, 16 * (len.toNat + 1), fun o => .fill pat o, .none⟩
  | .cdec n src scr =>
    s.hasDecomp = true ∧ ∃ g k, GlobEnd s c 2048 (2048 * (n.toNat + 1)) src g ∧ ScrEnd c 128 (2048 * (n.toNat + 1)) scr k ∧
      f = ⟨k, 2048 * (n.toNat + 1), copiedFrom .none g, .none⟩
  | _ => False

/-- The descriptor of a descriptor command. -/
def descOf : Instr → Option DWord
  | .ccpyD2 _ d | .ccpyD3 _ d | .cgth _ d | .csct _ d => some d
  | _ => none

/-- The pieces of a descriptor command whose descriptor's bytes are known: the rows of the copy plan, or those that the indices
select; `none` where a check fails (R380, R383, R384). -/
def descPieces (s : State) (c q : Nat) (bs is : List Byte) : Instr → Option (List Piece)
  | .ccpyD2 cv _ =>
    let p := s.descPlan c (s.queue c q).fp cv false bs
    if p.code = 0 then some p.pieces else none
  | .ccpyD3 cv _ =>
    let p := s.descPlan c (s.queue c q).fp cv true bs
    if p.code = 0 then some p.pieces else none
  | .cgth i16 _ => indexPieces i16 false
  | .csct i16 _ => indexPieces i16 true
  | _ => none
where
  /-- The pieces of a gather or scatter: the rows of the table that the indices name, those of the other end in order. -/
  indexPieces (i16 scatter : Bool) : Option (List Piece) :=
    let w := if i16 then 2 else 4
    let len := fieldAt bs 28 4
    let tstr := fieldAt bs 36 4
    let none_ := 2 ^ (8 * w) - 1
    let base : DWord := BitVec.ofNat 64 (fieldAt bs (if scatter then 0 else 8) 8)
    let other : DWord := BitVec.ofNat 64 (fieldAt bs (if scatter then 8 else 0) 8)
    match decodeEa c (s.asidOf c) other with
    | .bad _ => none
    | .ok lin =>
      ((List.range (fieldAt bs 32 4)).mapM fun k =>
        let x := fieldAt is (w * k) w
        let here := lin.at_ (k * len)
        if x = none_ then some (if scatter then [] else cutRow here len fun o => .fill 0 o)
        else match s.pickRow c base x tstr len with
          | .ok p => some (if scatter then cutRow p len fun o => .copy (here.at_ o) else cutRow here len fun o => .copy (p.at_ o))
          | .error _ => none).map List.flatten

/-- A descriptor of a gather or scatter whose fields pass their checks (R380, R384): its number of index bytes. -/
def IndexLegal (s : State) (c : Nat) (i16 scatter : Bool) (bs : List Byte) (pi : Place) : Prop :=
  let w := if i16 then 2 else 4
  let len := fieldAt bs 28 4
  let n := fieldAt bs 32 4
  let ea (o : Nat) : DWord := BitVec.ofNat 64 (fieldAt bs o 8)
  fieldAt bs 24 4 = 0 ∧ (bs.drop 40).all (· == 0) = true ∧ 1 ≤ n ∧ n ≤ 65536 ∧ 16 ≤ len ∧ len ≤ 65536 ∧
  len % 16 = 0 ∧ fieldAt bs 36 4 % 16 = 0 ∧ (ea 16).toNat % w = 0 ∧ decodeEa c (s.asidOf c) (ea 16) = .ok pi ∧
  (∃ pd ps, decodeEa c (s.asidOf c) (ea 0) = .ok pd ∧ decodeEa c (s.asidOf c) (ea 8) = .ok ps ∧
    s.rowFar pd 1 = false ∧ s.rowFar ps 1 = false ∧ s.rowFar pi (n * w) = false ∧ rowOver pi (n * w) = false ∧
    s.rowFar (if scatter then ps else pd) (n * len) = false ∧ rowOver (if scatter then ps else pd) (n * len) = false)

/-- The parts of an index list, cut at lines. -/
def indexCuts (i16 : Bool) (bs : List Byte) (pi : Place) : List (Place × Nat) :=
  let n := fieldAt bs 32 4 * (if i16 then 2 else 4)
  cuts (n / 128 + 2) pi n

/-- A command that has issued: it is the queue's command with its pieces, its destination lines claimed (R381). -/
def Issued (s t : State) (c q : Nat) (i : Instr) (ps : List Piece) : Prop :=
  ∃ x, (t.queue c q).cmd = some x ∧ x.op = i ∧ x.pieces = ps ∧ x.lines = (ps.map fun p => p.dst.line).eraseDups ∧
    (t.queue c q).pend = none ∧ (t.queue c q).recva = (s.queue c q).recva ∧
    (∀ off, Place.scr c off ∈ x.lines → t.isAbsent c (off / 128) = true) ∧
    (∀ va g, Place.glob (s.asidOf c) va ∈ x.lines → s.locGlob .wr (s.asidOf c) va = .ok (.phys g) →
      ⟨g.phys / 128, queueActor c q⟩ ∈ t.owners) ∧
    (t.actor (queueActor c q)).pos = (s.actor (queueActor c q)).pos + 1 ∧ KeepsOtherActors s t (queueActor c q) ∧ KeepsBytes s t

/-- A queue past its record, with everything but its own progress as it was. -/
def QueueGoes (s t : State) (c q : Nat) (off : DWord) : Prop :=
  t.queue c q = { s.queue c q with
    pend := none, read := [], cmd := none, met := false, recva := (s.queue c q).recva + off } ∧
  (∀ k, k ≠ q → t.queue c k = s.queue c k) ∧ KeepsOtherCores s t c ∧ KeepsBytes s t

end Sys2Proof.Machine

/-- R381, R382, R385, R386. CCPY, CFIL and CDEC that pass their checks issue with the pieces of their one row, cut at the destination's
lines, each piece's bytes those at its place in the source or the pattern; their destination lines are claimed, and no byte
changes at the issue. No launch is being restored on the core of a scratch destination, where the access would wait (R245). -/
def Sys2Proof.Claims.FlatCommandsIssue : Prop :=
  ∀ (i : Instr) (f : FlatCommand) (s : State) (c q : Nat),
    QueueTurn s c q → FlatLegal s c q f i → s.restoring (queueActor c q) f.dst = false →
    ∃ t ps, exec i s = .next t ∧ Issued s t c q i ps ∧ (ps.map Piece.len).sum = f.bytes ∧
      (∀ p ∈ ps, ∃ o < f.bytes, p.dst = f.dst.at_ o ∧ p.src = f.src o ∧ p.dst.addr % 128 + p.len ≤ 128) ∧
      (t.queue c q).cmd.map Cmd.conv = some f.conv

/-- R380, R381, R383, R384. CCPY `.d2` and `.d3`, CGTH and CSCT whose descriptor and indices have been read, each once, and pass the
checks issue with the pieces of the rows that the descriptor or the indices select, no launch being restored on a destination's
core. -/
def Sys2Proof.Claims.DescriptorCommandsIssue : Prop :=
  ∀ (i : Instr) (d : DWord) (bs is : List Byte) (ps : List Piece) (pi : Place) (s u v : State) (c q : Nat),
    QueueTurn s c q → descOf i = some d → d.toNat < 0x00FF000000000000 → d.toNat % 64 = 0 →
    State.onceRead c q s (.glob (s.asidOf c) d.toNat) 64 = .ok bs u →
    (match i with
      | .cgth i16 _ => IndexLegal u c i16 false bs pi ∧
        queueBytes (State.onceRead c q) (indexCuts i16 bs pi) u = .ok is v
      | .csct i16 _ => IndexLegal u c i16 true bs pi ∧
        queueBytes (State.onceRead c q) (indexCuts i16 bs pi) u = .ok is v
      | _ => v = u) →
    descPieces v c q bs is i = some ps → (∀ p ∈ ps, v.restoring (queueActor c q) p.dst = false) →
    ∃ t, exec i s = .next t ∧ Issued v t c q i ps

/-- R184, R387, R388, R389. CSIG whose release is met puts an add of its value to its counter at the tail of the queue's stores and
publishes; CSIG `.arrive` counts its arrivals at the barrier and goes on; CWAT goes on where the counter that it reads is at its
target, or has been at an Apply step since it waits, and CWAT `.bar` at lag 0, each with the core's view dropped, and each waits
otherwise; CJMP goes to its record. -/
def Sys2Proof.Claims.QueueSignalsAndWaits : Prop :=
  ∀ (s : State) (c q : Nat), QueueTurn s c q →
    let a := queueActor c q
    let x := s.actor a
    (∀ (ctr : DWord) (val : Word), ctr.toNat < 0x00FF000000000000 → ctr.toNat % 8 = 0 → s.drained? = false →
      s.releaseReady a (x.pos + 1) .dev = true →
      ∃ t e, exec (.csig ctr val) s = .next t ∧
        t.actor a = { x with pos := x.pos + 1, storeQ := x.storeQ ++ [e], unacked := x.unacked + 1, clk := x.clk + 1 } ∧
        e.place = .glob (s.asidOf c) ctr.toNat ∧ e.eff = .rmw (.int .add) 8 [⟨0, val.setWidth 64, 0⟩] ∧ e.acc.actor = a ∧
        Issued s t c q (.csig ctr val) []) ∧
    (∀ (bar : BitVec 4) (cnt : BitVec 8), cnt.toNat ≤ 127 → s.releaseReady a (x.pos + 1) .dev = true →
      let b := (s.core c).bar bar.toNat
      let e := cnt.toNat + 1
      let lag := mget 0 (s.queue c q).lag bar.toNat
      (b.cur = 0 ∧ b.next = 0 ∨ e = b.exp) → lag ≤ 1 →
      ∃ t, exec (.csigArrive bar cnt) s = .next t ∧ (t.queue c q).recva = (s.queue c q).recva + 16 ∧
        (t.queue c q).pend = none ∧ ((t.core c).bar bar.toNat).exp = e ∧ (t.actor a).clk = x.clk + 1 ∧
        (lag = 0 → b.cur + 1 ≠ e → ((t.core c).bar bar.toNat).cur = b.cur + 1 ∧ ((t.core c).bar bar.toNat).phase = b.phase) ∧
        (lag = 0 → b.cur + 1 = e → b.next ≠ e → ((t.core c).bar bar.toNat).cur = b.next ∧
          ((t.core c).bar bar.toNat).phase = !b.phase) ∧
        (lag = 1 → b.cur ≠ e → ((t.core c).bar bar.toNat).next = b.next + 1) ∧ KeepsOtherCores s t c ∧ KeepsBytes s t) ∧
    (∀ (ctr : DWord) (target : Word) (bs : List Byte) (u : State), ctr.toNat < 0x00FF000000000000 → ctr.toNat % 8 = 0 →
      s.queueRead c q (.glob (s.asidOf c) ctr.toNat) 8 false 3 = .ok bs u →
      (target.toNat ≤ leNat bs ∨ (s.queue c q).met = true → ∃ t, exec (.cwat ctr target) s = .next t ∧
        t.queue c q = { u.queue c q with
          pend := none, read := [], cmd := none, met := false, recva := (u.queue c q).recva + 16 } ∧
        (t.core c).copies = [] ∧ (t.actor a).pos = (u.actor a).pos + 1) ∧
      (leNat bs < target.toNat → (s.queue c q).met = false → exec (.cwat ctr target) s = .next s)) ∧
    (∀ bar : BitVec 4,
      (mget 0 (s.queue c q).lag bar.toNat = 0 → ∃ t, exec (.cwatBar bar) s = .next t ∧ QueueGoes s t c q 16 ∧
        (t.core c).copies = []) ∧
      (mget 0 (s.queue c q).lag bar.toNat ≠ 0 → exec (.cwatBar bar) s = .next s)) ∧
    (∀ off : Word, ∃ t, exec (.cjmp off) s = .next t ∧ (t.queue c q).pend = none ∧
      (t.queue c q).recva = (s.queue c q).recva + 16 + 16 * off.signExtend 64 ∧ KeepsDevice s t ∧ KeepsOtherCores s t c)

/-- R164, R389, R390. CEND of a queue with nothing outstanding: with no status word the queue is IDLE with end code 0, and with one
the word 0 is on its way as a store to the status VA, outside a saddle and its drain; a queue with an access outstanding goes on
ending with code 0. -/
def Sys2Proof.Claims.CendEndsTheProgram : Prop :=
  ∀ (s : State) (c q : Nat), QueueTurn s c q →
    let a := queueActor c q
    let x := s.queue c q
    (s.busy a = true → ∃ t, exec .cend s = .next t ∧ (t.queue c q).ending = some 0 ∧ (t.queue c q).run = true) ∧
    (s.busy a = false → x.stva = 0 → ∃ t, exec .cend s = .next t ∧
      t.queue c q = { x with
        run := false, code := 0, ending := none, pend := none, read := [], cmd := none, faults := [], late := []
        statusSent := false, declined := none } ∧
      ∀ k, k ≠ q → t.queue c k = s.queue c k) ∧
    (s.busy a = false → s.drained? = false → x.stva ≠ 0 → x.stva.toNat < 0x00FF000000000000 → x.statusSent = false →
      ∃ t e, exec .cend s = .next t ∧ (t.actor a).storeQ = (s.actor a).storeQ ++ [e] ∧
        e.place = .glob (s.asidOf c) x.stva.toNat ∧ e.eff = .store (List.replicate 8 0) ∧ (t.queue c q).statusSent = true ∧
        (t.queue c q).ending = some 0)

/-- R380 to R386. CCPY, CFIL, CDEC, CGTH and CSCT that pass their checks issue with the pieces of their rows, where no launch is being
restored on the core of a scratch destination (R245). -/
def Obligations.CopyCommandsIssue : Prop :=
  Claims.FlatCommandsIssue ∧ Claims.DescriptorCommandsIssue

/-- R164, R184, R387 to R390. CSIG, CWAT, CJMP and CEND. -/
def Obligations.QueueControlCompletes : Prop :=
  Claims.QueueSignalsAndWaits ∧ Claims.CendEndsTheProgram
/-! ## Requests to FRS -/

namespace Sys2Proof.Machine

/-- The 32 bytes that answer a request: its tag, the status and two results (R418, R419). -/
def answerBytes (rq : Rq) (status r0 r1 : Nat) : List Byte :=
  leBytes 4 rq.tag.toNat ++ leBytes 4 status ++ leBytes 8 r0 ++ leBytes 8 r1 ++ List.replicate 8 0

/-- The answer goes back to the requester on the context that carried the request, with some bytes behind it; in a LINK saddle it
is kept for the saddle's end (R420, R437). -/
def AnswersDirectly (s t : State) (rq : Rq) (status r0 r1 : Nat) (out : List Byte) : Prop :=
  let m : Sent := .reply rq.vif rq.via (answerBytes rq status r0 r1 ++ out)
  if s.linkDown = true then t.unsent = s.unsent ++ [m] ∧ t.outbox = s.outbox else t.outbox = s.outbox ++ [m]

/-- The bytes of a store. -/
def Entry.storedBytes (e : Entry) : List Byte := match e.eff with | .store d => d | _ => []

/-- The answer is on its way to the reply VA as releasing stores of the port that carried the request, from the VA on (R418). -/
def AnswersAt (s t : State) (rq : Rq) (asid status r0 r1 : Nat) : Prop :=
  let a := portActor rq.via.port
  ∃ es, (t.actor a).storeQ = (s.actor a).storeQ ++ es ∧
    es.flatMap Entry.storedBytes = answerBytes rq status r0 r1 ∧
    es.head?.map Entry.place = some (vaPlace asid rq.reply.toNat) ∧ (∀ e ∈ es, e.acc.rel = true) ∧ t.outbox = s.outbox

/-- A request of the interface is served now, in an address space of its own. -/
def ServesSpace (s : State) (rq : Rq) (asid : BitVec 14) : Prop :=
  s.frsOpen rq = true ∧ (s.space asid.toNat).live = true ∧ (s.space asid.toNat).vif = rq.vif

/-- A launch of the device that a reset of an interface, or of one of its address spaces, takes. -/
def Taken (vif : Nat) (asid : Option Nat) (l : Launch) : Prop := match asid with | some a => l.asid = a | none => l.vif = vif

/-- The space that a request names. -/
def namedSpace : Instr → Option (Rq × BitVec 14)
  | .destroyAs rq a | .map rq a _ _ _ | .protect rq a _ _ _ | .unmap rq a _ _ | .place rq a _ | .loadImage rq a _ _
  | .start rq a _ _ _ _ _ | .setCairn rq a _ | .scrub rq a _ _ | .peerGrant rq _ _ a _ _ => some (rq, a)
  | _ => none

end Sys2Proof.Machine

/-- R312, R403, R418, R419, R426. CREATE_AS makes a live space of its interface under the lowest free ASID, with the Cairn mode OFF, and
answers with it; SET_CAIRN sets a space's mode; PEER_GRANT on a device with peer links holds the grant in place of one of the same
source; a request that names no space of its interface is answered with status 1, and so is one that is malformed, at its reply VA
where it names a space of its interface. Two parts are the model's choices: that the free ASID is the lowest (log 109), and how a
request that names no space of its interface is answered (log 52). -/
def Obligations.SpacesAreCreatedAndSet : Prop :=
  ∀ (i : Instr) (rq : Rq) (psalt : Word) (asid src : BitVec 14) (mode : BitVec 3) (dev : BitVec 8) (base limit : DWord)
    (a root : Nat) (s v : State),
    s.frsOpen rq = true →
    ((s.spacesOf rq.vif).length < 256 → s.freeAsid = some a → s.newTable = some (v, root) →
      ∃ t, exec (.createAs rq psalt) s = .next t ∧ AnswersDirectly s t rq 0 a 0 [] ∧
        t.space a = { vif := rq.vif, root, psalt, place := [], cairn := 1, live := true } ∧ (s.space a).live = false ∧
        (∀ b, b ≠ a → t.space b = s.space b)) ∧
    (256 ≤ (s.spacesOf rq.vif).length →
      ∃ t, exec (.createAs rq psalt) s = .next t ∧ AnswersDirectly s t rq 2 403 0 [] ∧ t.spaces = s.spaces) ∧
    (ServesSpace s rq asid → 1 ≤ mode.toNat → mode.toNat ≤ 4 →
      ∃ t, exec (.setCairn rq asid mode) s = .next t ∧ AnswersAt s t rq asid.toNat 0 0 0 ∧
        t.space asid.toNat = { s.space asid.toNat with cairn := mode.toNat } ∧ KeepsBytes s t) ∧
    (ServesSpace s rq asid → s.hasPeer = true → base.toNat < 2 ^ 56 → base.toNat + limit.toNat ≤ 0x00FF000000000000 →
      ∃ t, exec (.peerGrant rq dev src asid base limit) s = .next t ∧ AnswersAt s t rq asid.toNat 0 0 0 ∧
        t.grants.find? (fun g => g.dev = dev.toNat && g.srcAsid = src.toNat) =
          some ⟨dev.toNat, src.toNat, asid.toNat, base.toNat, limit.toNat⟩) ∧
    ((i = .badRequest ⟨rq, none⟩ ∨
        ∃ b, (i = .badRequest ⟨rq, some b⟩ ∨ namedSpace i = some (rq, b)) ∧ s.owns rq.vif b.toNat = false) →
      ∃ t, exec i s = .next t ∧ AnswersDirectly s t rq 1 0 0 [] ∧ t.spaces = s.spaces ∧ KeepsBytes s t) ∧
    (s.owns rq.vif asid.toNat = true → ∃ t, exec (.badRequest ⟨rq, some asid⟩) s = .next t ∧ AnswersAt s t rq asid.toNat 1 0 0 ∧
      t.spaces = s.spaces ∧ KeepsBytes s t)

/-- R251, R253, R257, R299, R407, R419. MAP of an unmapped range of whole pages, PROTECT of mapped pages of its size, UNMAP of whole
pages, and PLACE of a legal table change the space's pages in ascending order and answer 0, MAP, PROTECT and UNMAP with the number
of pages; a range that is not of whole pages is answered with status 1, and MAP of a mapped page with rule 419. PROTECT, UNMAP and
PLACE wait, changing nothing, while a store or atomic that has left its core is to land in a page that they change (R251); that the
request stays in FRS unanswered meanwhile is the model's reading (log 62). -/
def Obligations.MappingsChange : Prop :=
  ∀ (rq : Rq) (asid : BitVec 14) (va len tab : DWord) (attrs : BitVec 9) (s u v : State) (bs : List Byte),
    ServesSpace s rq asid →
    let a := asid.toNat
    let n := attrSize attrs
    let ps := stepsOf n va.toNat len.toNat
    let whole (size : Nat) : Prop := va.toNat % size = 0 ∧ len.toNat % size = 0 ∧ va.toNat + len.toNat ≤ 2 ^ 56
    let Same (t : State) : Prop := t.mem = v.mem ∧ t.frames = v.frames ∧ t.tables = v.tables ∧ t.damage = v.damage
    (whole n → attrs.extractLsb' 2 2 ≠ 3 → attrPx attrs = false → (len ≠ 0 → va.toNat + len.toNat ≤ 0x00FF000000000000) →
      (∀ x ∈ pagesOf va.toNat len.toNat, s.isMapped a x = false) →
      (attrSz attrs = true → ∀ x ∈ ps, bigFits (s.space a).place x = true) → s.mapRange a va.toNat len.toNat attrs = some v →
      ∃ t, exec (.map rq asid va len attrs) s = .next t ∧ AnswersAt s t rq a 0 (len.toNat / n) 0 ∧ Same t) ∧
    (whole n → attrs.extractLsb' 2 2 ≠ 3 → attrPx attrs = false → (len ≠ 0 → va.toNat + len.toNat ≤ 0x00FF000000000000) →
      (∃ x ∈ pagesOf va.toNat len.toNat, s.isMapped a x = true) →
      ∃ t, exec (.map rq asid va len attrs) s = .next t ∧ AnswersAt s t rq a 2 419 0 ∧ t.mem = s.mem) ∧
    (whole n → attrs.extractLsb' 2 2 ≠ 3 →
      (∀ x ∈ ps, (s.leafOf a x).getLsbD 63 = true ∧ attrSz (leafAttrs (s.leafOf a x)) = attrSz attrs) →
      (attrPx attrs = true → attrPw attrs = false ∧ ∀ x ∈ ps, attrPx (leafAttrs (s.leafOf a x)) = true) →
      (attrK attrs = true → ∀ x ∈ ps, leafPhys (s.leafOf a x) % 2 ^ 29 < 0x10000000) →
      (∀ x ∈ ps, s.aliasBad (s.leafOf a x) attrs = false ∧ s.inFlightAt (leafPhys (s.leafOf a x)) n = false) →
      ps.foldlM (fun s x => s.protectPage a x attrs) s = some v →
      ∃ t, exec (.protect rq asid va len attrs) s = .next t ∧ AnswersAt s t rq a 0 ps.length 0 ∧ Same t) ∧
    (whole n → attrs.extractLsb' 2 2 ≠ 3 →
      (∀ x ∈ ps, (s.leafOf a x).getLsbD 63 = true ∧ attrSz (leafAttrs (s.leafOf a x)) = attrSz attrs) → attrPx attrs = false →
      (attrK attrs = true → ∀ x ∈ ps, leafPhys (s.leafOf a x) % 2 ^ 29 < 0x10000000) →
      (∀ x ∈ ps, s.aliasBad (s.leafOf a x) attrs = false) → (∃ x ∈ ps, s.inFlightAt (leafPhys (s.leafOf a x)) n = true) →
      exec (.protect rq asid va len attrs) s = .next s) ∧
    (whole (2 ^ 16) → (∀ x ∈ pagesOf va.toNat len.toNat, s.isMapped a x = true →
        attrSz (leafAttrs (s.leafOf a x)) = false ∧ s.inFlightAt (leafPhys (s.leafOf a x)) (2 ^ 16) = false) →
      v = ((pagesOf va.toNat len.toNat).filter (s.isMapped a)).foldl (fun s x => s.unmapPage a x) s →
      ∃ t, exec (.unmap rq asid va len) s = .next t ∧ Same t ∧
        AnswersAt s t rq a 0 ((pagesOf va.toNat len.toNat).filter (s.isMapped a)).length 0) ∧
    (whole (2 ^ 16) → (∀ x ∈ pagesOf va.toNat len.toNat, s.isMapped a x = true → attrSz (leafAttrs (s.leafOf a x)) = false) →
      (∃ x ∈ pagesOf va.toNat len.toNat, s.isMapped a x = true ∧ s.inFlightAt (leafPhys (s.leafOf a x)) (2 ^ 16) = true) →
      exec (.unmap rq asid va len) s = .next s) ∧
    (s.frontBytes a 34 tab.toNat 4096 = .ok bs u →
      (∀ k < 256, u.placeBad (quadAt bs (16 * k)) (quadAt bs (16 * k + 8)) = false) →
      let l := ((List.range 256).map fun k => placeEnt (quadAt bs (16 * k)) (quadAt bs (16 * k + 8))).filter fun e => e.start ≤ e.limit
      (∀ p ∈ u.mappedPages a, (attrSz (leafAttrs p.2) = true → bigFits l p.1 = true) ∧
        u.inFlightAt (leafPhys p.2) (attrSize (leafAttrs p.2)) = false) →
      u.loadPlace a l = some v →
      ∃ t, exec (.place rq asid tab) s = .next t ∧ AnswersAt s t rq a 0 0 0 ∧ Same t ∧ t.spaces = v.spaces) ∧
    (s.frontBytes a 34 tab.toNat 4096 = .ok bs u →
      (∀ k < 256, u.placeBad (quadAt bs (16 * k)) (quadAt bs (16 * k + 8)) = false) →
      (∀ p ∈ u.mappedPages a, attrSz (leafAttrs p.2) = false) →
      (∃ p ∈ u.mappedPages a, u.inFlightAt (leafPhys p.2) (2 ^ 16) = true) → exec (.place rq asid tab) s = .next s) ∧
    (∀ i, (i = .map rq asid va len attrs ∧ ¬ whole n ∨ i = .protect rq asid va len attrs ∧ ¬ whole n ∨
        i = .unmap rq asid va len ∧ ¬ whole (2 ^ 16)) →
      ∃ t, exec i s = .next t ∧ AnswersAt s t rq a 1 0 0 ∧ t.mem = s.mem)

/-- R111, R407, R408, R416, R422, R423. LOAD_IMAGE of a file that passes its checks maps it and answers with the VA of its headers
and their number, and of one whose form fails them is answered with the status of BAD_TOF and rule 111; START of an image whose
header passes its checks puts it at the end of the images to start, its time running since it entered FRS (R471), and one that FRS
may not take yet waits there; SCRUB takes its list line by line, a step for each, and answers behind the last one with the time
since it began; ATTEST answers with the record that holds the nonce, and its signature under the device's identity key. Two parts
are the model's readings: which status a BAD_TOF has beside rule 111 (log 52), and that a held START waits in FRS (log 62). -/
def Obligations.ImagesAreLoadedAndStarted : Prop :=
  ∀ (rq : Rq) (asid : BitVec 14) (va len hdr st ctr : DWord) (core : BitVec 10) (inc : Word) (count : BitVec 13)
    (nonce : List Byte) (s u v : State) (bs : List Byte) (r0 r1 : Nat),
    (ServesSpace s rq asid → s.frontBytes asid.toNat (len.toNat / 128 + 2) va.toNat len.toNat = .ok bs u →
      (u.loadImage rq.vif asid.toNat bs = .ok v r0 r1 →
        ∃ t, exec (.loadImage rq asid va len) s = .next t ∧ AnswersAt s t rq asid.toNat 0 r0 r1 ∧ t.mem = v.mem ∧
          t.vifs = mset {} s.vifs rq.vif ((mget {} s.vifs rq.vif).load bs)) ∧
      (tofOk bs = false →
        ∃ t, exec (.loadImage rq asid va len) s = .next t ∧ AnswersAt s t rq asid.toNat (Config.loadStatus .badTof).toNat 111 0 ∧ t.mem = s.mem)) ∧
    (ServesSpace s rq asid → (core = 0x3FF ∨ s.computeCore core.toNat = true) → hdr.toNat % 64 = 0 → hdr.toNat < 2 ^ 56 →
      st.toNat % 8 = 0 → ctr.toNat % 8 = 0 → s.frontBytes asid.toNat 2 hdr.toNat 128 = .ok bs u →
      u.headerOk rq.vif asid.toNat bs = true →
      ∃ t x, exec (.start rq asid hdr core st ctr inc) s = .next t ∧ AnswersAt s t rq asid.toNat 0 0 0 ∧
        t.starts = s.starts ++ [x] ∧ x.vif = rq.vif ∧ x.asid = asid.toNat ∧ x.image = hdr ∧ x.args = [] ∧ x.staddr = st ∧
        x.ccaddr = ctr ∧ x.ccinc = inc.toNat ∧ x.core = (if core = 0x3FF then none else some core.toNat) ∧
        (∀ y, s.frsHeld.find? (fun y => y.1 = rq) = some y → x.acct = y.2) ∧
        (s.frsHeld.find? (fun y => y.1 = rq) = none → x.acct.submit = s.refTime)) ∧
    (s.frsOpen rq = false → rqOk rq = true →
      ∃ t, exec (.start rq asid hdr core st ctr inc) s = .next t ∧ (∃ y ∈ t.frsHeld, y.1 = rq) ∧ t.starts = s.starts ∧
        t.outbox = s.outbox ∧ KeepsBytes s t) ∧
    (ServesSpace s rq asid → count.toNat ≤ 4096 → va.toNat % 16 = 0 →
      let j := s.scrubJob rq
      (∀ y, s.scrubNext asid.toNat count.toNat va.toNat j.at_ = .more v y →
        exec (.scrub rq asid va count) s = .next { v with scrubJobs := v.otherScrubs rq ++ [{ j with at_ := y }] }) ∧
      (j.at_.1 = count.toNat →
        ∃ t, exec (.scrub rq asid va count) s = .next t ∧ AnswersAt s t rq asid.toNat 0 (s.refTime - j.since) 0 ∧
          t.mem = s.mem ∧ t.scrubJobs = s.otherScrubs rq)) ∧
    (s.frsOpen rq = true → nonce.length = 32 →
      ∃ t out, exec (.attest rq nonce) s = .next t ∧ AnswersDirectly s t rq 0 0 0 out ∧ out.length = 896 ∧
        out.take 4 = [0x41, 0x54, 0x53, 0x54] ∧ (out.drop 16).take 8 = leBytes 8 (mget {} s.vifs rq.vif).nimg ∧
        (out.drop 32).take 32 = nonce ∧ out.drop 512 = attestSignature (out.take 512) ∧ KeepsBytes s t)

/-- R411, R419. RESET_VIF, and DESTROY_AS of a space of its interface, with no other reset waiting: where no launch that it takes is
resident or still to complete, it ends at once, its queued images are gone, and it is answered; else it waits, with the pre-emption
request raised for reason 2 on every launch that it takes and that has none yet. -/
def Obligations.ResetsDiscard : Prop :=
  ∀ (i : Instr) (rq : Rq) (asid : Option (BitVec 14)) (s : State),
    (i = .resetVif rq ∧ asid = none ∨ ∃ a, i = .destroyAs rq a ∧ asid = some a ∧ s.owns rq.vif a.toNat = true) →
    s.frsOpen rq = true → s.resets = [] →
    let takes (l : Launch) : Prop := Taken rq.vif (asid.map BitVec.toNat) l
    let vif (x : Card) : Prop := match asid with | some a => x.asid = a.toNat | none => x.vif = rq.vif
    ((∀ p ∈ s.cores, ∀ l, p.2.launch = some l → ¬ takes l) → (∀ e ∈ s.endings, ¬ takes e.launch) →
      ∃ t, exec i s = .next t ∧ t.resets = [] ∧ (∀ x ∈ t.starts, ¬ vif x) ∧ (∀ e ∈ t.clq, ¬ vif e.2) ∧
        (∀ p ∈ t.cores, ∀ x ∈ p.2.pend, ¬ vif x) ∧
        (match asid with
          | none => AnswersDirectly s t rq 0 0 0 [] ∧ t.vifs = mset {} s.vifs rq.vif {}
          | some a => AnswersAt s t rq a.toNat 0 0 0)) ∧
    ((∃ p ∈ s.cores, ∃ l, p.2.launch = some l ∧ takes l) →
      ∃ t, exec i s = .next t ∧ t.resets = [⟨rq, asid.map BitVec.toNat⟩] ∧ t.outbox = s.outbox ∧
        (∀ x ∈ t.starts, ¬ vif x) ∧
        ∀ c l, (s.core c).launch = some l → takes l → l.killed = none → (s.core c).csr.req = false →
          (t.core c).csr.preq.getLsbD 0 = true ∧ (t.core c).csr.preq.extractLsb' 1 4 = 2)

/-- R195, R467 to R470. HALT stops its target, in handler mode at its return unless halts in handlers are on; RESUME of a halted agent
lets it go on; STEP of a halted agent lets it issue once and waits to be answered; INFLIGHT answers with the entries of the table
that fit and the numbers of those sent and left; ROUTE holds its line's entry; CTL writes sys.dbgctl as its core's Spur would. Each
but STEP answers at once, in a saddle too; a target that is no agent is answered with status 1. Two parts are the model's choices: that
status (log 54), and the order of INFLIGHT's entries (log 67). -/
def Obligations.DebugRequestsComplete : Prop :=
  ∀ (rq : Rq) (g : DbgTarget) (most val : DWord) (line : BitVec 5) (s : State),
    s.frsTakes rq = true →
    let c := g.core.toNat
    let k := g.low.toNat
    (s.corePresent c = true →
      (k = 0x80 → ∃ t, exec (.halt rq g) s = .next t ∧ AnswersDirectly s t rq 0 0 0 [] ∧ (t.core c).spur.halted = true ∧
        KeepsOtherCores s t c) ∧
      (k = 0xFF → ∃ t, exec (.halt rq g) s = .next t ∧ AnswersDirectly s t rq 0 0 0 [] ∧ (t.core c).spur.halted = true ∧
        (t.core c).haltAll = true ∧ KeepsOtherCores s t c) ∧
      (k < 0x80 → (s.tg c k).used = true → ∃ t, exec (.halt rq g) s = .next t ∧ AnswersDirectly s t rq 0 0 0 [] ∧
        t.tg c k = (if (s.tg c k).frame.isSome = true ∧ (s.core c).csr.dbgctl.getLsbD 2 = false
          then { s.tg c k with haltReq := true } else { s.tg c k with halted := true }) ∧ KeepsOtherCores s t c) ∧
      (k = 0x80 → (s.core c).spur.run = .run → (s.core c).spur.frame = none → ∃ t, exec (.resume rq g) s = .next t ∧
        AnswersDirectly s t rq 0 0 0 [] ∧
        t.core c = { s.core c with spur := { (s.core c).spur with halted := false, haltReq := false } }) ∧
      (k < 0x80 → (s.tg c k).used = true → (s.tg c k).svc = none → ∃ t, exec (.resume rq g) s = .next t ∧
        AnswersDirectly s t rq 0 0 0 [] ∧ t.tg c k = { s.tg c k with halted := false, haltReq := false }) ∧
      (k < 0x80 → (s.tg c k).used = true → (s.tg c k).halted = true → (s.tg c k).svc = none →
        ∃ t, exec (.step rq g) s = .next t ∧ t.tg c k = { s.tg c k with stepReq := true } ∧
          t.stepJobs = s.stepJobs ++ [⟨rq, c * 256 + k, s.cyclesOf c⟩] ∧ t.outbox = s.outbox) ∧
      (∃ t, exec (.inflight rq g most) s = .next t ∧
        AnswersDirectly s t rq 0 (min most.toNat (s.flights c).length) ((s.flights c).length - most.toNat)
          (((s.flights c).take most.toNat).flatMap Flight.bytes) ∧ KeepsBytes s t) ∧
      (val &&& ~~~0x3FE0F00C006 = 0 → val.extractLsb' 14 2 ≠ 3 → ∃ t, exec (.ctl rq g val) s = .next t ∧
        AnswersDirectly s t rq 0 0 0 [] ∧
        (t.cores = mset {} s.cores c { s.core c with csr := { (s.core c).csr with dbgctl := val } }))) ∧
    (val &&& 0x3FF0FFC0FFFFFE00 = 0 → ∃ t, exec (.route rq line val) s = .next t ∧ AnswersDirectly s t rq 0 0 0 [] ∧
      t.routes = mset 0 s.routes line.toNat val) ∧
    (s.corePresent c = false → ∀ i, (i = .halt rq g ∨ i = .resume rq g ∨ i = .step rq g ∨ i = .inflight rq g most ∨
        i = .ctl rq g val) →
      ∃ t, exec i s = .next t ∧ AnswersDirectly s t rq 1 0 0 [])
/-! ## The ordering machine -/

namespace Sys2Proof.Machine

/-- The byte that a load of a core's actor takes where its line is view-eligible: from the actor's own queue, the overlay, the
view's copy, or home memory, which a Fill takes first (R40). -/
def State.viewByte (s : State) (a asid va phys : Nat) : Byte :=
  match ownByte (s.actor a).storeQ (.glob asid va), overByte (s.core (coreOf a)).overlay asid va,
      (s.core (coreOf a)).copy asid (va / 128) with
  | some b, _, _ => b
  | none, some p, _ => p.1
  | none, none, some k => k.bytes.getD (va % 128) 0
  | none, none, none => s.byteAt phys

/-- The byte that a load takes of a scratch line: from its own queue or the scratchpad (R40). -/
def State.scratchByte (s : State) (a core off : Nat) : Byte :=
  (ownByte (s.actor a).storeQ (.scr core off)).getD (mget 0 (s.core core).scratch off)

/-- A group's actor that has issued, with its slot in use. -/
def GroupActor (s : State) (a : Nat) : Prop :=
  lowOf a < 0x80 ∧ isDevActor a = false ∧ (s.tg (coreOf a) (lowOf a)).used = true ∧ 0 < (s.actor a).pos

end Sys2Proof.Machine

/-- R39, R40. PERFORM of one thread of a group's plain load gives its register the bytes of the first source that holds each:
of a global line outside Cairn pages its own queue, the overlay, the view's copy, or home; of a scratch line its own queue or the
scratchpad. The thread leaves the pending load. A scratch line whose presence bit is clear and that its core serves to the actor lets
nothing perform. -/
def Obligations.LoadsTakeTheirBytes : Prop :=
  ∀ (a pos asid va k off : Nat) (m : Mask) (l : Load) (th : LoadLane) (p : Page) (s : State),
    GroupActor s a → (s.actor a).loads.find? (fun x => x.acc.pos = pos) = some l → l.named m = [th] → l.closed m = true →
    s.mayPerform l [th] = true → l.acc.actor = a → l.acc.acq = false →
    let Took (n : Nat) (t : State) : Prop :=
      t.tg (coreOf a) (lowOf a) = (s.tg (coreOf a) (lowOf a)).reply pos th.lane l.dest n ∧
      (t.actor a).loads = dropLanes m pos (s.actor a).loads ∧ (t.actor a).storeQ = (s.actor a).storeQ ∧
      KeepsBytes s t ∧ KeepsOtherActors s t a ∧ KeepsOtherCores s t (coreOf a)
    (th.place = .glob asid va → va % 128 + l.bytes ≤ 128 → s.locGlob .rd asid va = .ok (.phys p) → p.au = false → p.k = false →
      s.damaged (.phys p) = false → s.owner (p.phys / 128) = none → s.dramHeld (.phys p) = false →
      (∀ c, (s.core (coreOf a)).copy asid (va / 128) = some c → c.pr = true ∧ c.k = false) →
      ∃ t, exec (.perform a pos m) s = .next t ∧
        Took (leNat ((List.range l.bytes).map fun i => s.viewByte a asid (va + i) (p.phys + i))) t) ∧
    (th.place = .scr k off → s.isAbsent k (off / 128) = false → s.loc a .rd (.scr k off) = .ok (.scr k off) →
      s.damaged (.scr k off) = false →
      ∃ t, exec (.perform a pos m) s = .next t ∧
        Took (leNat ((List.range l.bytes).map fun i => s.scratchByte a k (off + i))) t) ∧
    (th.place = .scr k off → s.bitWaits (coreOf a) (.scr k off) = true → exec (.perform a pos m) s = .next s)

/-- R39. DRAIN takes an entry that may drain out of its queue, onto its path, a store to a view-eligible line into the overlay as
well, and an access of the domain window onto its peer link; FORWARD moves the oldest entry of a link onto its path, but in a LINK
saddle; FILL takes a copy of home memory, and EVICT drops one. -/
def Obligations.EntriesTravel : Prop :=
  ∀ (a uid dest core asid va line : Nat) (d : List Byte) (e : Entry) (p : Page) (s : State),
    ((s.actor a).storeQ.find? (fun x => x.uid = uid) = some e → 0 < (s.actor a).pos →
      let c := coreOf a
      let Left (t : State) : Prop :=
        (t.actor a).storeQ = (s.actor a).storeQ.filter (fun o => o.uid != uid) ∧ (t.actor a).loads = (s.actor a).loads ∧
        KeepsBytes s t ∧ KeepsOtherActors s t a
      (s.mayDrain a e = false → exec (.drain a uid) s = .next s) ∧
      (s.mayDrain a e = true →
        (e.place = .glob asid va → e.eff = .store d → s.eligible e.place = true → lowOf a ≤ 0x80 → isDevActor a = false →
          (∀ k, (s.core c).copy asid (va / 128) = some k → k.pw = true ∨ e.page.isSome = true) →
          ∃ t, exec (.drain a uid) s = .next t ∧ Left t ∧ t.path = s.path ++ [e] ∧ t.links = s.links ∧
            t.core c = { s.core c with overlay := (s.core c).overlay ++ [⟨uid, e.acc, asid, va, d⟩] }) ∧
        (e.place = .win asid va →
          ∃ t, exec (.drain a uid) s = .next t ∧ Left t ∧ t.path = s.path ∧ t.cores = s.cores ∧
            t.links = s.links ++ [(va / 2 ^ 40 % 256, e)]) ∧
        ((∀ x y, e.place ≠ .win x y) →
            (s.eligible e.place = false ∨ (∀ x, e.eff ≠ .store x) ∨ 0x80 < lowOf a ∨ isDevActor a = true) →
          ∃ t, exec (.drain a uid) s = .next t ∧ Left t ∧ t.path = s.path ++ [e] ∧ t.links = s.links ∧ t.cores = s.cores))) ∧
    (s.links.find? (fun x => x.1 = dest) = some (dest, e) →
      exec (.forward dest) s = .next
        (if s.linkDown = true then s else { s with links := s.links.erase (dest, e), path := s.path ++ [e] })) ∧
    (s.canFill asid line = true → s.page asid (line * 128) = some p →
      ∃ t k, exec (.fill core asid line) s = .next t ∧ (t.core core).copy asid line = some k ∧ k.pr = p.pr ∧ k.pw = p.pw ∧
        k.bytes = s.physBytes (p.phys / 128 * 128) 128 ∧ (t.core core).overlay = (s.core core).overlay ∧ KeepsBytes s t ∧
        KeepsOtherCores s t core ∧ t.actors = s.actors) ∧
    (s.canFill asid line = false → exec (.fill core asid line) s = .next s) ∧
    ((s.core core).launch.isSome = true →
      ∃ t, exec (.evict core asid line) s = .next t ∧ (t.core core).copy asid line = none ∧
        (t.core core).overlay = (s.core core).overlay ∧ KeepsBytes s t ∧ KeepsOtherCores s t core ∧ t.actors = s.actors)

namespace Sys2Proof.Machine

/-- An entry that may apply now at a home: its turn on its path has come, nobody else owns the line, and nothing holds
the home (R39). -/
def MayApply (s : State) (uid : Nat) (e : Entry) (loc : Loc) : Prop :=
  s.path.find? (fun x => x.uid = uid) = some e ∧ s.pathOpen e = true ∧ e.isRecord = false ∧ s.entryLoc e = .ok loc ∧
  (∀ i ∈ s.images, i.saved.wait.contains uid = false) ∧ s.restoring e.acc.actor e.place = false ∧ s.ownedByOther e.acc.actor loc = false ∧
  s.dramHeld loc = false ∧ s.bitWaits (coreOf e.acc.actor) e.place = false

/-- The bytes that an entry leaves where its home holds some bytes, with the replies and flags of its acknowledgement. -/
def Entry.leaves (e : Entry) (old : List Byte) : List Byte × List (Nat × DWord) × FFlags :=
  match e.eff with
  | .store d => (d, [], 0)
  | .rmw op n lanes => let r := rmwAll op n lanes (leNat old); (leBytes n r.1, r.2)
  | .readRec _ _ => ([], [], 0)

end Sys2Proof.Machine

/-- R39, R263, R308. APPLY of an entry at its home, memory outside Cairn pages or a scratchpad, writes the bytes that its effect
leaves there, and no other byte but a compressed block's descriptor, and the entry then waits for its acknowledgement; one that is
not first for its line stays. A read record that no write has overtaken leaves its stamp as its line's reader stamp; and a merge of
a dirty block writes the block's descriptor and leaves its lines clean. -/
def Obligations.EntriesTakeEffect : Prop :=
  ∀ (uid asid va k off : Nat) (e : Entry) (p : Page) (rd wr : Stamp) (n : Nat × Nat) (s : State),
    s.memOk = true → mwf {} s.cores = true →
    let Leaves (t : State) (r : List (Nat × DWord) × FFlags) : Prop :=
      t.path = s.path.filter (fun o => o.uid != uid) ∧ t.done = s.done ++ [⟨e, 0, r.1, r.2, .empty, []⟩]
    (MayApply s uid e (.phys p) → e.place = .glob asid va → p.k = false → s.entryBad e (.phys p) = false →
      let r := e.leaves (s.physBytes p.phys e.size)
      ∃ t, exec (.apply uid) s = .next t ∧ Leaves t r.2 ∧
        (∀ i < r.1.length, (p.c = true → p.au = true → p.phys + i ≠ descAddr p.phys) →
          t.byteAt (p.phys + i) = r.1.getD i 0) ∧
        (∀ x, ¬ (p.phys ≤ x ∧ x < p.phys + r.1.length) → (p.c = true → p.au = true → x ≠ descAddr p.phys) →
          t.byteAt x = s.byteAt x) ∧ t.peerMem = s.peerMem) ∧
    (MayApply s uid e (.scr k off) → e.place = .scr k off → s.entryBad e (.scr k off) = false →
      (s.core k).launch.isSome = true → mwf 0 (s.core k).scratch = true →
      let r := e.leaves (s.scrBytes k off e.size)
      ∃ t, exec (.apply uid) s = .next t ∧ Leaves t r.2 ∧ t.mem = s.mem ∧ t.peerMem = s.peerMem ∧
        (∀ i < r.1.length, mget 0 (t.core k).scratch (off + i) = r.1.getD i 0) ∧
        (∀ x, ¬ (off ≤ x ∧ x < off + r.1.length) → mget 0 (t.core k).scratch x = mget 0 (s.core k).scratch x) ∧
        ∀ c, c ≠ k → (t.core c).scratch = (s.core c).scratch) ∧
    (s.path.find? (fun x => x.uid = uid) = some e → s.pathOpen e = false → (∀ i ∈ s.images, i.saved.wait.contains uid = false) →
      exec (.apply uid) s = .next s) ∧
    (s.subj.1 = uid → s.path.find? (fun x => x.uid = uid) = some e → s.pathOpen e = true → e.eff = .readRec rd wr →
      e.place = .glob asid va → s.page asid va = some p → p.k = true → s.damage.contains (.sidecar (p.phys / 128)) = false →
      s.writerStamp p.phys = wr →
      ((s.readerStamp p.phys).sc = 7 ∨ (s.readerStamp p.phys).act = e.acc.actor) →
      exec .readRecord s = .next ({ s with path := s.path.filter (fun o => o.uid != uid) }.setSidecar p.phys wr rd)) ∧
    (s.dirty.find? (fun l => l.1 / 16 = s.subj.1) = some n → s.drained? = false → s.damage.contains (.block s.subj.1) = false →
      descOk (s.desc (2048 * s.subj.1)) = true →
      ∃ t, exec .compressionMerge s = .next t ∧ t.dirty = s.dirty.filter (fun l => l.1 / 16 != s.subj.1) ∧
        t.byteAt (descAddr (2048 * s.subj.1)) =
          BitVec.ofNat 8 (fbpEncode (2 ^ n.2) (s.physBytes (2048 * s.subj.1) 2048)).1 ∧
        ∀ x, x ≠ descAddr (2048 * s.subj.1) → t.byteAt x = s.byteAt x)

/-- R39, R40, R43. ACKNOWLEDGE of a group's applied entry takes it off the group's count and every observed set, moves the bytes of
a store from the overlay into a present copy, drops the copy of an atomic's line, and delivers an atomic's replies; and
FENCE_COMPLETE ends a fence whose condition holds, every kind but `.rel` at `.clu` or wider dropping the view's copies. -/
def Obligations.AcknowledgementsAndFences : Prop :=
  ∀ (a uid pos : Nat) (d : Done) (f : Fence) (s : State),
    GroupActor s a →
    let c := coreOf a
    let k := lowOf a
    (s.done.find? (fun x => x.e.uid = uid) = some d → d.e.acc.actor = a → d.e.acc.acq = false → d.cause = 0 →
      s.orphans.contains uid = false → (∀ i ∈ s.images, i.saved.wait.contains uid = false) →
      (∀ x y, d.e.place = .win x y → s.linkDown = false) → (s.ctx c 0).state = xIdle → (s.ctx c 1).state = xIdle →
      let g := s.tg c k
      let u := if d.e.acc.pos < g.fpPos then g else { g with fpctl := fpRaise g.fpctl d.flags }
      ∃ t, exec (.acknowledge uid) s = .next t ∧ t.done = s.done.filter (fun o => o.e.uid != uid) ∧
        (t.actor a).unacked = (s.actor a).unacked - 1 ∧ (∀ b, (t.actor b).observed.contains uid = false) ∧ KeepsBytes s t ∧
        t.tg c k = (match d.e.dest with
          | none => u
          | some b => d.reply.foldl (fun g v => g.reply d.e.acc.pos v.1 b v.2.toNat) u) ∧
        (t.core c).overlay = (s.core c).overlay.filter (fun o => o.uid != uid) ∧
        (∀ o w, d.e.eff = .store w → (s.core c).overlay.find? (fun o => o.uid = uid) = some o →
          (t.core c).copies = updFirst (fun y => y.asid = o.asid && y.line = o.va / 128) (·.absorb o d.stamp) (s.core c).copies) ∧
        (∀ op n l asid va, d.e.eff = .rmw op n l → d.e.place = .glob asid va → (t.core c).copy asid (va / 128) = none)) ∧
    ((s.actor a).fences.find? (fun x => x.pos = pos) = some f →
      (s.fenceDone a f = true →
        ∃ t, exec (.fenceComplete a pos) s = .next t ∧ (t.actor a).fences = (s.actor a).fences.filter (fun g => g.pos != pos) ∧
          (t.core c).copies = (if f.kind = .rel ∨ f.sc = .tg ∨ f.sc = .core then (s.core c).copies else []) ∧
          (t.core c).overlay = (s.core c).overlay ∧ KeepsBytes s t) ∧
      (s.fenceDone a f = false → exec (.fenceComplete a pos) s = .next s))
/-! ## Couloir and Traverse at work -/

namespace Sys2Proof.Machine

/-- A queue's command has one destination line left that one whole piece covers, and its source lines have been read. -/
def LineReady (s : State) (c q item : Nat) (m : Cmd) (pc : Piece) (ln : Place) : Prop :=
  q ≤ 3 ∧ (s.queue c q).run = true ∧ (s.queue c q).cmd = some m ∧ (s.queue c q).lineOf item = some ln ∧ ln.addr % 128 = 0 ∧
  m.at_ ln = [pc] ∧ pc.dst = ln ∧ pc.len = 128 ∧ m.missing (fpIsSr (s.queue c q).fp) ln = [] ∧
  (s.queue c q).pend = none ∧ (s.queue c q).declined = none ∧ (s.queue c q).faulted ln = false ∧ s.restoring (queueActor c q) ln = false ∧
  s.queueAcquiring c q = false ∧ ∀ d ∈ s.done, d.e.uid ≠ s.nextUid

/-- The command without the piece and the line. -/
def Cmd.without (m : Cmd) (ln : Place) : Cmd :=
  { m with pieces := m.pieces.filter fun p => p.dst.line != ln, lines := m.lines.erase ln }

end Sys2Proof.Machine

/-- R23, R39, R381, R395. LINE_LAND writes a whole scratch line of a command whose source lines have been read, and its queue no
longer holds the line absent; DISOWN writes a whole line of memory and its queue no longer owns it; COMMAND_COMPLETE moves a queue
whose command has no line left to its next record, its ownerships gone; COPY_FAULT of a line whose home refuses it makes it wait for
firmware, which ENGINE_FAULT_SERVICE answers: served, with the page that it maps in between or none, the line is tried again;
declined, the program ends with the code of its fault, at once where no line is in flight, and else once those are done. -/
def Obligations.QueueLinesFinish : Prop :=
  ∀ (c q item k off asid va cause : Nat) (m : Cmd) (pc : Piece) (p : Page) (f : Nat × Nat) (s : State),
    let a := queueActor c q
    let x := s.queue c q
    let data := (m.data x.fp pc).1
    (LineReady s c q item m pc (.scr k off) → s.loc a .wr (.scr k off) = .ok (.scr k off) → mwf 0 (s.core k).scratch = true →
      ∃ t, exec (.lineLand c q item) s = .next t ∧ t.scrBytes k off 128 = data ∧ t.mem = s.mem ∧
        (∀ y, ¬ (off ≤ y ∧ y < off + 128) → mget 0 (t.core k).scratch y = mget 0 (s.core k).scratch y) ∧
        t.absent = s.absent.filter (fun b => !(b.core = k && b.line = off / 128 && b.queue = a && !b.stranded)) ∧
        t.queue c q = { x with cmd := some (m.without (.scr k off)), flags := x.flags ||| (m.data x.fp pc).2 }) ∧
    (LineReady s c q item m pc (.glob asid va) → s.loc a .wr (.glob asid va) = .ok (.phys p) → p.k = false → inWindow va = false → s.memOk = true →
      s.ownedByOther a (.phys p) = false → s.drained? = false → s.wholeBad (.phys p) = false →
      ∃ t, exec (.disown c q item) s = .next t ∧ t.physBytes p.phys 128 = data ∧ t.owners = s.owners.erase ⟨p.phys / 128, a⟩ ∧
        (∀ y, ¬ (p.phys ≤ y ∧ y < p.phys + 128) → y ≠ descAddr p.phys → t.byteAt y = s.byteAt y) ∧
        t.queue c q = { x with cmd := some (m.without (.glob asid va)), flags := x.flags ||| (m.data x.fp pc).2 }) ∧
    (s.subj = (c, q) → x.run = true → x.cmd = some m → m.lines = [] → x.faults = [] → x.declined = none → (s.actor a).storeQ = [] →
      ∃ t, exec .commandComplete s = .next t ∧ t.queue c q = { x with pend := none, read := [], cmd := none, met := false, recva := x.recva + 16 } ∧
        t.owners = s.owners.filter (fun o => o.actor != a) ∧ KeepsBytes s t) ∧
    (x.cmd = some m → x.lineOf item = some (.glob asid va) → m.missing (fpIsSr x.fp) (.glob asid va) = [] →
      s.loc a .wr (.glob asid va) = .error cause → (cause = cTranslation ∨ cause = cPermission) →
      x.faulted (.glob asid va) = false → x.declined = none → s.restoring a (.glob asid va) = false → s.queueAcquiring c q = false →
      s.drained? = false →
      ∃ t, exec (.copyFault c q item) s = .next t ∧ t.queue c q = { x with faults := x.faults ++ [(cause, va)] } ∧
        t.owners = (s.own a (.glob asid va)).owners ∧ t.absent = s.absent) ∧
    (q ≤ 3 → c < 768 → x.run = true → x.declined = none → x.faults.find? (fun g => g.2 / 128 = item) = some f →
      (∃ t, exec (.engineFaultService a item .serve) s = .next t ∧ (s.subj.1 = 0 → KeepsBytes s t) ∧
        t.queue c q = { x with faults := x.faults.filter fun g => g.2 / 128 != item }) ∧
      (x.cmd = some m → m.lines.any x.inFlight = true →
        ∃ t, exec (.engineFaultService a item .decline) s = .next t ∧ KeepsBytes s t ∧
          t.queue c q = { x with declined := some (faultCode f.1) }) ∧
      (s.busy a = true → (∀ w, x.cmd = some w → w.lines.any x.inFlight = false) →
        ∃ t, exec (.engineFaultService a item .decline) s = .next t ∧ KeepsBytes s t ∧
        t.queue c q = { x with
          pend := none, read := [], cmd := none, faults := [], late := [], declined := none, ending := some (faultCode f.1) })) ∧
    (LineReady { s with cores := mset {} s.cores c ((s.core c).setQueue q { x with declined := none }) } c q item m pc (.scr k off) →
      x.declined = some cause → m.lines = [.scr k off] → s.loc a .wr (.scr k off) = .ok (.scr k off) → mwf 0 (s.core k).scratch = true →
      mwf {} s.cores = true →
      ∃ t, exec (.lineLand c q item) s = .next t ∧ t.scrBytes k off 128 = data ∧ (t.queue c q).cmd = none ∧
        (t.queue c q).declined = none ∧
        ((t.queue c q).ending = some cause ∨ (t.queue c q).run = false ∧ (t.queue c q).code = cause))

/-- R337, R342, R344, R346, R357, R358, R363. A context's events: FETCH_LAND brings a line's bytes to its slot, which lands whole with
the last one, its bytes where the slot's layout has them and zeros elsewhere, and to every slot of a shared fetch's group that waits for
the line; FETCH_FAULT makes the line wait for service, or cancels the walk where memory is lost; STEP_START gives a ready context the
arrays; and UPCALL_DISPATCH starts the groups of the oldest upcall that can be dispatched at its handler's PC, with the upcall's
descriptor in their group registers. After a landing, a fault or at the start, the context asks for what it can ask for. Two parts are
the model's readings: that a slot lands whole with zeros elsewhere (log 46), and which context reads the lines of a shared fetch (log
34). -/
def Obligations.WalksAdvance : Prop :=
  ∀ (c i n line cause va part base : Nat) (b : Bool) (tile : Tile) (bs : List Byte) (u : Upcall) (h : Handler) (r : SlotRef)
    (s v : State),
    mwf {} s.cores = true →
    let x := s.ctx c i
    let z := x.slot b n
    (z.tile = some tile → z.st = 1 → z.lines.contains line = true → z.faults.contains line = false → s.drained? = false →
      (z.group = none → s.engineRead (travActor c i) x.spc x.cseq (128 * line) 128 = .ok bs v →
        let rest := z.lines.filter (· != line)
        let got := (line, bs) :: z.got
        let at_ := x.prob.slotAt b n
        (rest ≠ [] → ∃ t, exec (.fetchLand c i b n line) s = .next t ∧ KeepsBytes v t ∧
          (t.ctx c i).slot b n = { z with lines := rest, got }) ∧
        (rest = [] → ∃ y : State, exec (.fetchLand c i b n line) s = .next (y.walkGo c i) ∧ y.mem = v.mem ∧
          (y.ctx c i).slot b n = { z with lines := [], got := [], st := 2 } ∧
          (y.core c).scratch =
            (got.flatMap fun g => x.prob.lineRuns b tile z.kk g.1 g.2).foldl (fun m q => mwrite 0 m (at_ + q.1) q.2)
              (mwrite 0 (v.core c).scratch at_ (List.replicate (x.prob.slotNeed b) 0)))) ∧
      (r = s.reader ⟨c, i, b, n⟩ line → (∀ q ∈ s.mates ⟨c, i, b, n⟩ line, ∃ l ∈ (s.slotOf q).lines, l ≠ line) →
        s.engineRead (travActor r.core r.ctx) (s.ctx r.core r.ctx).spc (s.ctx r.core r.ctx).cseq (128 * line) 128 = .ok bs v →
        ∃ t, exec (.fetchLand c i b n line) s = .next t ∧ KeepsBytes v t ∧ ∀ q ∈ s.mates ⟨c, i, b, n⟩ line,
          t.slotOf q =
            { s.slotOf q with lines := (s.slotOf q).lines.filter (· != line), got := (line, bs) :: (s.slotOf q).got }) ∧
      (z.group = none → s.engineRead (travActor c i) x.spc x.cseq (128 * line) 128 = .fault cause va v → x.state = xWalking →
        ∃ y : State, exec (.fetchFault c i b n line) s = .next (y.walkGo c i) ∧
          (cause ≠ cMemError → (y.ctx c i).slot b n = { z with faults := line :: z.faults } ∧ (y.ctx c i).state = xWalking) ∧
          (cause = cMemError → (y.ctx c i).state = xCancelling ∧ (y.ctx c i).endAs = 0x14 ∧ (y.ctx c i).run = false))) ∧
    (s.subj = (c, i) → i ≤ 1 → v = s.walkGo c i → (v.core c).arrays = none → (v.ctx c i).ready = true →
      ((v.ctx c (1 - i)).ready = true → (v.core c).arraysKey i < (v.core c).arraysKey (1 - i)) →
      (i = 1 → (v.core c).stepEndAt < v.cyclesOf c → (v.ctx c 1).readyAt ≠ some (v.cyclesOf c)) →
      ∃ t, exec .stepStart s = .next t ∧ (t.core c).arrays = some i ∧ (t.ctx c i).run = true ∧ (t.ctx c i).runKk = 0 ∧
        (t.ctx c i).bank ((v.ctx c i).runStep % 2) = ⟨1, [], (v.ctx c i).runStep, []⟩ ∧ KeepsBytes v t) ∧
    (s.subj.1 = c → s.dispatchable c [] (s.core c).upq = some (u, h, part, base) →
      ∃ t id, exec .upcallDispatch s = .next t ∧ (t.core c).upq = (s.core c).upq.erase u ∧
        (t.core c).insts = (s.core c).insts ++ [⟨id, u, (s.core c).freeInst u.hid, (List.range h.wid).map (base + ·), 0⟩] ∧
        ∀ j < h.wid, ∃ g, t.tg c (base + j) = g ∧ g.used = true ∧ g.live = 0xFFFF ∧ g.pc = h.pc ∧ g.regs = h.regs ∧
          g.handler = some id ∧ g.seq = (s.ctx c u.ctx).cseq ∧ g.v = [] ∧
          (List.range 7).map (fun r => mget 0 g.g r) =
            descriptor (s.ctx c u.ctx) u ((s.core c).freeInst u.hid) ++ [BitVec.ofNat 64 j])

namespace Sys2Proof.Machine

/-- A context runs a chunk whose slots are full and whole, with some K-steps to go (R342, R344). -/
def ChunkRuns (s : State) (c i ks : Nat) (w : WStep) : Prop :=
  (s.ctx c i).run = true ∧ (s.ctx c i).stepOf (s.ctx c i).runStep = some w ∧ (s.ctx c i).chunkFull w (s.ctx c i).runKk = true ∧ 0 < ks ∧
  ∀ j ∈ List.range ((s.ctx c i).prob.slotsz / 128), ∀ b, ∀ p ∈ (s.ctx c i).chunkSlots b (s.ctx c i).runStep (s.ctx c i).runKk,
    s.damaged (.scr c ((s.ctx c i).prob.slotAt b p.1 + 128 * j)) = false

/-- The words of the running bank and the flags after some K-steps of the chunk, each unit of its slots read once (R66, R346). -/
def Ctx.accumulated (x : Ctx) (scr : NMap Byte) (w : WStep) (n : Nat) : NMap Word × FFlags :=
  w.tiles.foldl (x.tileSteps (x.byteOf scr) x.runKk x.runKs n) ((x.bank (x.runStep % 2)).words, x.flags)

/-- The running step's bank holds those words, and the context those flags. -/
def Ctx.stepped (x : Ctx) (scr : NMap Byte) (w : WStep) (n : Nat) : Ctx :=
  { (x.setBank (x.runStep % 2) { x.bank (x.runStep % 2) with words := (x.accumulated scr w n).1 }) with
    flags := (x.accumulated scr w n).2 }

end Sys2Proof.Machine

/-- R66, R342, R343, R344, R346. CHUNK_COMPLETE accumulates K-steps of a running chunk whose slots are full, and answers a next state
whatever their number: short of the chunk's end it leaves the chunk running; at the end it frees the chunk's slots and goes to the next
chunk; and at the last chunk's end the step is done, its bank is held for its consumers, which are raised in quarter order, those of
context 0 ahead of what context 1 has raised in the same local cycle (R357), and the arrays are free. -/
def Obligations.ChunksComplete : Prop :=
  ∀ (c i ks : Nat) (w : WStep) (s : State),
    ChunkRuns s c i ks w → mwf {} s.cores = true →
    let x := s.ctx c i
    let scr := (s.core c).scratch
    let last := x.prob.ksteps - x.runKs
    (x.runKs + ks < x.prob.ksteps →
      ∃ t, exec (.chunkComplete c i ks) s = .next t ∧ KeepsBytes s t ∧ KeepsOtherCores s t c ∧ t.actors = s.actors ∧
        t.ctx c i = { x.stepped scr w ks with runKs := x.runKs + ks, units := x.unitsAfter scr ks }) ∧
    (x.prob.ksteps ≤ x.runKs + ks → mwf {} x.slotsA = true → mwf {} x.slotsB = true →
      ∃ y : State, exec (.chunkComplete c i ks) s = .next (y.walkGo c i) ∧
        (∀ b, ∀ p ∈ x.chunkSlots b x.runStep x.runKk, (y.ctx c i).slot b p.1 = {}) ∧
        (y.ctx c i).flags = (x.accumulated scr w last).2 ∧ (y.ctx c i).units = [] ∧ (y.ctx c i).runKs = 0 ∧
        (x.runKk + 1 < x.prob.chunks → KeepsBytes s y ∧ KeepsOtherCores s y c ∧ (y.ctx c i).run = true ∧
          (y.ctx c i).runKk = x.runKk + 1 ∧ (y.ctx c i).banks = (x.stepped scr w last).banks) ∧
        (x.prob.chunks ≤ x.runKk + 1 → (y.ctx c i).run = false ∧ (y.ctx c i).runStep = x.runStep + 1 ∧
          (y.core c).arrays = none ∧ (y.core c).lastArrays = i ∧
          (y.ctx c i).bank (x.runStep % 2) =
            { (x.stepped scr w last).bank (x.runStep % 2) with st := 2, mask := w.tiles.map Prod.fst } ∧
          (y.core c).upq = w.tiles.foldl (fun l q => queueUp
            { ctx := i, kind := 2, hid := x.prob.cons, tile := q.2, kk := 0, slot := x.runStep % 2, sub := q.1
              raised := s.cyclesOf c } l) (s.core c).upq))
/-! ## Launches, saves and services -/

namespace Sys2Proof.Machine

/-- The front end's store of a completed launch's status word is on its way to its address (R121). -/
def StatusIsStored (s t : State) (asid : Nat) (staddr : DWord) (status : Nat) : Prop :=
  ∃ e, (t.actor frontActor).storeQ = (s.actor frontActor).storeQ ++ [e] ∧ e.storedBytes = leBytes 8 status ∧
    e.place = vaPlace asid staddr.toNat

end Sys2Proof.Machine

/-- R26, R118, R120, R121, R138, R407, R408. PLACEMENT on a vacant core takes the best card of its own queue, and an image of the
front end where the queues are empty; IMAGE_RESTORE of a fresh image that passes its checks starts its Spur at its entry PC with its
arguments and initial segment and nothing else resident, and of one that does not writes the failure's status; of a saved image that
passes its checks it puts the Spur, the groups and the scratchpad back where they stood; LAUNCH_KILL ends a launch with the cause of
the trap that its Spur awaits service for, or else the cause it names, and nothing of it issues again; LAUNCH_COMPLETE of a launch
that is done leaves the core vacant and writes the status word. -/
def Obligations.LaunchesStartAndEnd : Prop :=
  ∀ (c code o : Nat) (cause : BitVec 8) (x : Card) (h : Header) (hd : Option Header) (seg : List Byte) (l : Launch) (i : Img)
    (s : State),
    mwf {} s.cores = true →
    (s.subj.1 = c → s.vacantCore c = true →
      (bestCard (s.core c).pend = some x →
        ∃ t, exec .placement s = .next t ∧ t.incoming = s.incoming ++ [(c, .fresh x)] ∧ t.starts = s.starts ∧
          t.core c = { s.core c with pend := (s.core c).pend.filter fun d => d.order != x.order }) ∧
      ((s.core c).pend = [] → (∀ e ∈ s.clq, e.1 ≠ clusterOf c) →
        s.queueOrder.find? (fun w => (s.targetOf w).isSome) = some (.fresh x) → s.targetOf (.fresh x) = some c →
        ∃ t, exec .placement s = .next t ∧ t.incoming = s.incoming ++ [(c, .fresh x)] ∧ t.cores = s.cores ∧
          t.starts = s.starts.filter fun d => d.order != x.order)) ∧
    (s.subj.1 = c → s.incoming.find? (fun y => y.1 = c) = some (c, .fresh x) →
      (s.readImage x.vif x.asid x.image.toNat = .ok h seg →
        ∃ t n, exec .imageRestore s = .next t ∧ t.incoming = s.incoming.filter (fun y => y.1 != c) ∧ KeepsOtherCores s t c ∧
          (t.core c).launch = some n ∧ n.vif = x.vif ∧ n.asid = x.asid ∧ n.prio = x.prio ∧ n.regs = h.regs ∧ n.killed = none ∧
          n.staddr = x.staddr ∧ n.ccaddr = x.ccaddr ∧ n.nextSeq = h.nextSeq ∧ n.cairn = (s.space x.asid).cairn ∧
          (t.core c).spur.pc = h.entry ∧ (t.core c).spur.run = .run ∧
          (∀ i < x.args.length, mget 0 (t.core c).spur.s (i + 1) = x.args.getD i 0) ∧ (t.core c).tgs = [] ∧
          (t.core c).copies = [] ∧
          ∀ o, mget 0 (t.core c).scratch o =
            (if h.scrbase ≤ o ∧ o < h.scrbase + seg.length then seg.getD (o - h.scrbase) 0 else 0)) ∧
      (s.readImage x.vif x.asid x.image.toNat = .bad code hd → (∀ y, hd = some y → y.nscrub = 0 ∧ y.trecva = 0) →
        s.endings = [] → x.staddr ≠ 0 → x.staddr.toNat % 8 = 0 →
        ∃ t, exec .imageRestore s = .next t ∧ t.incoming = s.incoming.filter (fun y => y.1 != c) ∧ t.cores = s.cores ∧
          StatusIsStored s t x.asid x.staddr code)) ∧
    (s.subj.1 = c → s.incoming.find? (fun y => y.1 = c) = some (c, .saved o) → s.images.find? (fun j => j.order = o) = some i →
      s.imageOk i = true → i.saved.hcore = c → (i.saved.core.ctx 0).state = xIdle → (i.saved.core.ctx 1).state = xIdle →
      (∀ q, (i.saved.core.queue q).ending = none) →
      let k := i.saved.core
      ∃ t, exec .imageRestore s = .next t ∧ t.incoming = s.incoming.filter (fun y => y.1 != c) ∧
        t.images = s.images.filter (fun j => j.order != o) ∧ t.mem = (s.dropImages fun j => j.order = o).mem ∧ (t.core c).scratch = k.scratch ∧
        (t.core c).spur.pc = k.spur.pc ∧ (t.core c).spur.s = k.spur.s ∧
        (t.core c).spur.run = (if k.spur.run = .yielded then .run else k.spur.run) ∧
        (∀ n, (t.tg c n).used = (k.tg n).used ∧ (t.tg c n).pc = (k.tg n).pc ∧ (t.tg c n).v = (k.tg n).v ∧ (t.tg c n).g = (k.tg n).g) ∧
        (t.core c).pend = (s.core c).pend) ∧
    (s.subj.1 = 0 → (s.core c).launch = some l → l.killed = none →
      ∃ t, exec (.launchKill c cause) s = .next t ∧
        (t.core c).launch = some { l with killed := some ((s.core c).spur.killCause cause.toNat) } ∧
        (t.core c).spur.run = .done ∧ (t.core c).tgs = [] ∧ t.mem = s.mem ∧ KeepsOtherCores s t c ∧
        ∀ a, coreOf a = c → (t.actor a).loads = [] ∧ (t.actor a).storeQ = []) ∧
    (s.subj.1 = c → s.launchDone c = true → (s.core c).launch = some l → l.nscrub = 0 → l.trecva = 0 → l.staddr ≠ 0 →
      l.staddr.toNat % 8 = 0 → s.endings = [] →
      ∃ t, exec .launchComplete s = .next t ∧ t.core c = (s.core c).vacant ∧ KeepsOtherCores s t c ∧ t.mem = s.mem ∧
        StatusIsStored s t l.asid l.staddr (l.killed.getD 0))

/-- R123, R129, R133, R134, R136. PREEMPT_REQUEST sets REQ and WHY, saves a parked Spur's launch at once, and withdraws a request that
no save has answered; FORCED_SAVE begins a forced save at the deadline, PARKSHARE_SWITCH a forced save with WHY 1 where too many groups
await service, and SWAP_OUT a save of an idle core; SAVE_OUTSTANDING_TIMEOUT collects a save's accesses; and IMAGE_WRITE puts the image
of a save that is ready at the end of the waiting images, its bytes into firmware memory, and leaves the core vacant. Two parts are the
model's choices: that PARKSHARE_SWITCH turns a save under way into a forced one (log 81), and where the image's bytes lie (log 56). -/
def Obligations.SavesBeginAndEnd : Prop :=
  ∀ (c : Nat) (l : Launch) (v : Save) (s : State),
    mwf {} s.cores = true → (s.core c).launch = some l → l.killed = none →
    let k := s.core c
    let now := s.cyclesOf c
    (s.subj.1 = 0 → k.csr.req = false →
      (k.spur.run = .run → ∃ t, exec (.preemptRequest c false) s = .next t ∧
        t.core c = { k with csr := { k.csr with preq := preqWord 3 }, preqAt := now, preqDone := false } ∧ KeepsBytes s t) ∧
      (k.spur.run = .parkDq ∨ k.spur.run = .parkRdzv ∨ k.spur.run = .parkLaunch ∨ k.spur.run = .parkLjoin ∨
          k.spur.run = .parkFault → k.saving = none →
        ∃ t, exec (.preemptRequest c false) s = .next t ∧ (t.core c).csr.preq = preqWord 3 ∧
          (t.core c).saving = some ⟨1, false, false, now⟩)) ∧
    (k.csr.req = true → k.saving = none → ∃ t, exec (.preemptRequest c true) s = .next t ∧
      t.core c = { k with csr := { k.csr with preq := 0 } } ∧ KeepsBytes s t) ∧
    (s.subj.1 = c →
      (k.csr.req = true → k.preqAt + k.csr.pdeadline.toNat ≤ now → k.preqDone = false → k.saving = none →
        ∃ t, exec .forcedSave s = .next t ∧ (t.core c).saving = some ⟨1, true, true, now⟩) ∧
      (let pct := if s.subj.2 = 0 then k.csr.pct else (s.subj.2 - 1) % 128
       k.csr.preq ≠ preqWord 1 → pct < 100 → pct * (s.residents c).length < 100 * (s.faulted c).length →
        ∃ t, exec .parkshareSwitch s = .next t ∧ (t.core c).csr.preq = preqWord 1 ∧ (t.core c).csr.pct = pct ∧
          ((if k.csr.req then k.preqDone else decide (k.spur.run = .done)) = false → k.saving = none →
            (t.core c).saving = some ⟨3, true, true, now⟩) ∧
          ((if k.csr.req then k.preqDone else decide (k.spur.run = .done)) = false → k.saving = some v → v.kind ≠ 2 → v.hard = false →
            (t.core c).saving = some { v with kind := 3, stop := true, hard := true })) ∧
      (k.csr.swapwait ≠ 0 → s.idleCore c = true → k.idleSince + k.csr.swapwait.toNat < now →
        ∃ t, exec .swapOut s = .next t ∧ (t.core c).saving = some ⟨2, false, false, now⟩) ∧
      (k.saving = some v → v.since + 4096 ≤ now →
        ∃ t, exec .saveOutstandingTimeout s = .next t ∧ t.core c = { k with collected := true } ∧ KeepsBytes s t) ∧
      (k.saving = some v → s.imageReady c = true → s.drained? = false → s.resets = [] → s.freeRun 0 imageFrames false = none →
        exec .imageWrite s = .next s) ∧
      (∀ n, k.saving = some v → s.imageReady c = true → s.drained? = false → s.resets = [] → s.memOk = true →
        s.freeRun 0 imageFrames false = some n →
        ∃ t img, exec .imageWrite s = .next t ∧ t.images.length = s.images.length + 1 ∧ t.images.getLast? = some img ∧
          img.saved.kind = v.kind ∧ img.saved.hcore = c ∧ img.saved.core.scratch = k.scratch ∧ img.saved.core.tgs = k.tgs ∧
          img.saved.core.spur.pc = k.spur.pc ∧ img.saved.core.spur.s = k.spur.s ∧ t.core c = k.vacant ∧
          img.phys = 65536 * n ∧ t.physBytes img.phys (img.bytes.take imageSize).length = img.bytes.take imageSize ∧
          KeepsOtherCores s t c))

/-- R126, R137, R190, R191, R194, R231, R241, R453. LATE_FAULT parks a group with a held fault on fault service, with the highest-ranked
cause of the arm whose fault was detected first, where its handler does not take it; FAULT_SERVICE_RESUME lets a group or the Spur go on
as its frame says, and ends the service of an arm that the other has pushed; STARVATION_BOOST
marks a group that has been ready for 256 local cycles; BARRIER_WAVE lets a group of a wave that has come go on; and FUSE_TIMEOUT lets
the members of a gang that stand at its FUSE go on after 256 local cycles. -/
def Obligations.AgentsAreLetGo : Prop :=
  ∀ (c k b n : Nat) (arm : Bool) (r : Replay) (f : Frame) (e : SpurFrame) (s : State),
    c < 768 → k < 128 →
    let g := s.tg c k
    let now := s.cyclesOf c
    (g.used = true →
      (s.subj = (c, k) → g.svc = none → s.busy (tgActor c k) = false →
        ((topReplay (g.armFaults g.lateArm (mkReplays c g.late))).orElse fun _ => topReplay (mkReplays c g.late)) = some r →
        (g.frame.isSome = true ∨ (s.core c).csr.delivers r.cause = false) →
        ∃ t f, exec .lateFault s = .next t ∧ (t.tg c k).svc = some f ∧ f.cause = r.cause ∧ f.late = true ∧ f.fpc = r.ipc ∧
          f.lvec = r.lvec ∧ f.replay = mkReplays c g.late ∧ (t.tg c k).v = g.v) ∧
      (s.subj.1 = tgActor c k → s.subj.2 % 2 ^ 32 < 2 → g.svc = some f → f.cause ≠ cTimingFail → f.replay = [] →
        g.armOf f.pmask = some arm →
        let u := { g.resume { f with arm } (s.subj.2 % 2 = 1) with svc := none }
        ∃ t, exec .faultServiceResume s = .next t ∧ t.tg c k = (if g.frame.isSome = true then u else u.haltNow) ∧
          (s.subj.2 < 2 → KeepsBytes s t ∧ KeepsOtherCores s t c)) ∧
      (s.subj.1 = tgActor c k → s.subj.2 < 2 → g.svc = some f → f.cause ≠ cTimingFail → f.replay = [] → g.armOf f.pmask = none →
        let u := { g.resumePushed f (s.subj.2 % 2 = 1) with svc := none }
        ∃ t, exec .faultServiceResume s = .next t ∧ t.tg c k = (if g.frame.isSome = true then u else u.haltNow)) ∧
      (s.subj = (c, k) → g.handler = none → s.tgCandidate c k = true → g.readySince + 256 ≤ now →
        ∃ t, exec .starvationBoost s = .next t ∧ t.tg c k = { g with boosted := true } ∧ KeepsOtherCores s t c) ∧
      (s.subj = (c, b) → g.wave = some b → g.wakeAt ≤ now →
        ∃ t, exec .barrierWave s = .next t ∧ t.tg c k = { g with wave := none } ∧ KeepsOtherCores s t c) ∧
      (s.subj = (c, k) → g.fuseAt = some n → n + 256 ≤ now → g.div = none →
        ∃ t, exec .fuseTimeout s = .next t ∧ KeepsOtherCores s t c ∧
          ∀ j ∈ (s.core c).atFuse ((s.core c).liveGang g) g.pc,
            (t.tg c j).fuseAt = none ∧ (t.tg c j).pc = g.pc + 8 ∧ (t.tg c j).v = (s.tg c j).v)) ∧
    (s.subj = (spurActor c, 0) → (s.core c).spur.run = .parkFault → (s.core c).spur.frame = some e → spurFatal e.cause = false →
      let p := (s.core c).spur
      ∃ t, exec .faultServiceResume s = .next t ∧ KeepsOtherCores s t c ∧ KeepsBytes s t ∧
        (t.core c).spur = { p with run := .run, pc := e.pc, frame := none, halted := p.halted || p.haltReq, haltReq := false })
/-! ## Power, saddles, ports and triggers -/

/-- R429, R430, R436, R438, R439, R442, R444, R445, R450, R451, R457, R459, R460. A saddle: DRAIN_HORIZON from 128 ns before its
start, SADDLE_START crosses the open windows and applies new margins, SADDLE_END within the limit counts the saddle, leaves what its
types leave and lets the held messages go, SADDLE_OVERRUN past the limit re-plans the rest at the least multiple of 4096 ns that
leaves 128 ns; and DROOP, STRETCH_END, HALVED_ISSUE_END, TIMING_ERROR and BALLAST as their rules say. Two parts are the model's
choices: that HEAD is taken from the turn (log 40), and that BALLAST follows RAMP of cluster 0 (log 43). -/
def Obligations.PowerEventsAct : Prop :=
  ∀ (c a : Nat) (arm : Bool) (heads : List (BitVec 8)) (caps : List (BitVec 6)) (w : DWord) (x : Cluster) (s : State),
    mwf {} s.cores = true → mwf {} s.clusters = true →
    let g := s.calendar
    let n := g.next
    let len := s.refTime - g.start n
    (g.phase = 0 → g.start n ≤ s.refTime + 128 →
      exec .drainHorizon s = .next { s with calendar := { g with phase := 1 } }) ∧
    (g.phase = 1 → g.start n ≤ s.refTime →
      ∃ t, exec .saddleStart s = .next t ∧ t.calendar = { g with phase := 2 } ∧ KeepsBytes s t ∧
        (∀ c k, (s.tg c k).window = some n → (t.tg c k).crossed = true) ∧
        (∀ c, (s.core c).spur.window = some n → (t.core c).spur.crossed = true) ∧
        ((s.cluster c).newMargin = some w → (t.cluster c).newMargin = none ∧
          (t.cluster c).margin.extractLsb' 0 40 = w.extractLsb' 0 40 ∧
          (t.cluster c).margin.extractLsb' 40 24 = (s.cluster c).margin.extractLsb' 40 24)) ∧
    (g.phase = 2 → g.start n + saddleLen n ≤ s.refTime → len ≤ saddleLimit n →
      ∃ t, exec (.saddleEnd heads caps) s = .next t ∧ t.calendar = { g with next := n + 1, phase := 0 } ∧
        t.unsent = [] ∧ t.outbox = s.outbox ++ s.unsent ∧
        ((c, x) ∈ s.clusters → (saddleTypes n).getLsbD 1 = true → (t.cluster c).head = heads.getD c (s.cluster c).head) ∧
        ((c, x) ∈ s.clusters → (saddleTypes n).getLsbD 4 = true →
          (t.cluster c).margin.extractLsb' 40 8 = (s.cluster c).margin.extractLsb' 40 8 + 1)) ∧
    (g.phase = 2 → saddleLimit n < len →
      ∃ t k, exec .saddleOverrun s = .next t ∧
        t.calendar = { g with next := n + 1, shift := g.shift + 4096 * k, gen := g.gen + 1, phase := 0 } ∧
        s.refTime + 128 ≤ t.calendar.start (n + 1) ∧
        (0 < k → g.start (n + 1) + 4096 * (k - 1) < s.refTime + 128)) ∧
    (s.subj.1 = c → s.clusterPresent c = true →
      ∃ t, exec .droop s = .next t ∧ KeepsBytes s t ∧
        (t.cluster c).stretchEnd = some (s.clusterCycles c + fieldNat (s.cluster c).droop 8 4) ∧
        (t.cluster c).halfEnd = some (s.clusterCycles c + fieldNat (s.cluster c).droop 12 12) ∧
        (t.cluster c).droop.extractLsb' 48 16 = sat16 ((s.cluster c).droop.extractLsb' 48 16)) ∧
    (s.subj.1 = c →
      ∃ t u, exec .stretchEnd s = .next t ∧ exec .halvedIssueEnd s = .next u ∧
        t.cluster c = { s.cluster c with stretchEnd := dueAt (s.clusterCycles c) (s.cluster c).stretchEnd } ∧
        u.cluster c = { s.cluster c with halfEnd := dueAt (s.clusterCycles c) (s.cluster c).halfEnd }) ∧
    (s.subj = (a, if arm then 1 else 0) → s.issuing a arm = true → mget 0 s.retries (retryKey a arm) + 1 < 16 →
      ∃ t, exec .timingError s = .next t ∧ mget 0 t.retries (retryKey a arm) = mget 0 s.retries (retryKey a arm) + 1 ∧ t.actors = s.actors ∧ KeepsBytes s t ∧
        (t.cluster (clusterOf (coreOf a))).droop.extractLsb' 32 16 =
          sat16 ((s.cluster (clusterOf (coreOf a))).droop.extractLsb' 32 16)) ∧
    (s.allIdle = true →
      exec .ballast s = .next { s with ballast := some (s.refTime + fieldNat (s.cluster 0).didt 32 16) })

/-- R415, R424, R425, R426, R427, R465, R467, R469. PACKAGE_RESET leaves nothing resident, no memory and no address space but FRS's
own; TRACE_SAMPLE takes the next ready agent; TRIGGER_ASSERT asserts a line that its source drives, with its pin and its halts, and
TRIGGER_DEASSERT ends it; STEP_NOT_ISSUED answers status 3; DROPPED_PACKET counts; a host port's write, or another device's store
through its grant, becomes stores that await their acknowledgements, a read takes its lines at home, a step for each, and is
answered with the last, and an access that no grant covers, or that names address space 0, is PERMISSION; and PEER_UNREACHABLE gives
up an entry to another device after 50 us. Three parts are the model's choices: what memory holds after the reset (log 11), FRS's
own space (log 85), and the answer to a host port that names address space 0 (log 110). -/
def Obligations.DeviceEventsAct : Prop :=
  ∀ (c a p asid line uid : Nat) (pin : Bool) (va : DWord) (data bs : List Byte) (size : Nat) (j : StepJob) (e : Entry)
    (l : Landing) (s u : State),
    mwf {} s.cores = true →
    (∃ t, exec .packageReset s = .next t ∧ t.mem = [] ∧ t.actors = [] ∧ t.spaces = [(0, Space.firmware)] ∧ t.path = [] ∧ t.refTime = 0 ∧
      t.caps = s.caps ∧ t.outbox = [] ∧ ∀ c k, (t.core c).launch = none ∧ (t.tg c k).used = false) ∧
    (s.subj.1 = c → (s.core c).csr.samplePeriod ≠ 0 → (s.core c).lastSample + (s.core c).csr.samplePeriod ≤ s.cyclesOf c →
      u = s.onCore c (fun k => { k with lastSample := k.periodEnd (s.cyclesOf c) }) →
      nextAfter (s.core c).sampled (u.sampleable c) = some line →
      ∃ t, exec .traceSample s = .next t ∧ (t.core c).sampled = line ∧ (t.core c).lastSample = (u.core c).lastSample) ∧
    (line < 32 → s.lineOn line = true → s.lineSrc line (if pin then 7 else 8) = true →
      ∃ t, exec (.triggerAssert line pin) s = .next t ∧ KeepsBytes s t ∧
        ((s.route line).getLsbD 62 = true → line ∈ t.asserted) ∧ (s.lineSink line 5 = true → line ∈ t.pins) ∧
        (s.lineSink line 4 = true → s.corePresent c = true → s.sinkCore line c = true → (t.core c).spur.halted = true)) ∧
    (s.subj.1 = line → line < 32 → s.lineOn line = true → (s.route line).getLsbD 62 = true →
      s.lineSrc line 7 = true ∨ s.lineSrc line 8 = true →
      ∃ t, exec .triggerDeassert s = .next t ∧ line ∉ t.asserted ∧ line ∉ t.pins ∧ t.cores = s.cores) ∧
    (s.subj.1 = a → s.stepJobs.find? (fun j => j.actor = a) = some j → j.since + 4096 ≤ s.cyclesOf (coreOf a) →
      ∃ t, exec .stepNotIssued s = .next t ∧ AnswersDirectly s t j.rq 3 0 0 [] ∧ t.stepJobs = s.stepJobs.filter (· != j) ∧
        t.actors = s.actors ∧ KeepsBytes s t) ∧
    (s.subj.1 = p → p < 8 →
      ∃ t, exec .droppedPacket s = .next t ∧ mget 0 t.dropped p = mget 0 s.dropped p + 1 ∧ KeepsBytes s t) ∧
    (p < 8 → (asid ≠ 0 → s.landing p asid va.toNat size = some ⟨portActor p, asid, va.toNat⟩) ∧
      s.landing p 0 va.toNat size = none) ∧
    (s.linkTakes p = true →
      (data ≠ [] → s.landing p asid va.toNat data.length = some l →
        ∃ t es, exec (.remoteWrite p asid va data) s = .next t ∧ t.outbox = s.outbox ∧ KeepsBytes s t ∧
          (t.actor l.actor).storeQ = (s.actor l.actor).storeQ ++ es ∧ es.flatMap Entry.storedBytes = data ∧
          es.head?.map Entry.place = some (vaPlace l.asid l.va) ∧ t.remotes = s.remotes ++ [⟨s.carrier p, es.map Entry.uid⟩]) ∧
      (p < 8 ∨ s.subj.1 = 0 → s.landing p asid va.toNat size = some l →
        let mine (r : PortRead) : Bool := r.via = s.carrier p && r.asid = asid && r.va = va.toNat && r.size = size
        let got := ((s.reads.find? mine).map PortRead.got).getD []
        let at_ := l.va + got.length
        s.frontLine l.asid at_ (min (size - got.length) (128 - at_ % 128)) = .ok bs s →
        ∃ t, exec (.remoteRead p asid va size) s = .next t ∧ t.mem = s.mem ∧ t.actors = s.actors ∧
          (size ≤ got.length + bs.length → t.outbox = s.outbox ++ [.data (s.carrier p) (got ++ bs)] ∧
            t.reads = s.reads.filter fun r => !mine r) ∧
          (got.length + bs.length < size → t.outbox = s.outbox ∧
            t.reads = (s.reads.filter fun r => !mine r) ++ [⟨s.carrier p, asid, va.toNat, size, got ++ bs⟩])) ∧
      (data ≠ [] → s.landing p asid va.toNat data.length = none →
        ∃ t, exec (.remoteWrite p asid va data) s = .next t ∧ t.outbox = s.outbox ++ [.fault (s.carrier p) cPermission] ∧
          t.actors = s.actors ∧ KeepsBytes s t) ∧
      (s.landing p asid va.toNat size = none →
        ∃ t, exec (.remoteRead p asid va size) s = .next t ∧ t.outbox = s.outbox ++ [.fault (s.carrier p) cPermission] ∧
          t.actors = s.actors ∧ KeepsBytes s t)) ∧
    (s.subj = (uid, 0) →
      (s.path ++ s.links.map Prod.snd ++ s.done.map Done.e).find?
        (fun e => e.uid = uid && s.farPlace e.place && s.lateAcc e.acc) = some e →
      ∃ t, exec .peerUnreachable s = .next t ∧ t.path = s.path.filter (fun x => x.uid != uid) ∧
        t.links = s.links.filter (fun x => x.2.uid != uid) ∧
        t.done = s.done.filter (fun d => d.e.uid != uid) ++ [⟨e, cPeerUnreachable, [], 0, .empty, []⟩] ∧ KeepsBytes s t)
/-! ## The whole machine -/

namespace Sys2Proof.Machine

/-- What a request carries besides its arguments. -/
def requestOf : Instr → Option Rq
  | .createAs rq _ | .destroyAs rq _ | .map rq _ _ _ _ | .protect rq _ _ _ _ | .unmap rq _ _ _ | .place rq _ _
  | .loadImage rq _ _ _ | .start rq _ _ _ _ _ _ | .setCairn rq _ _ | .scrub rq _ _ _ | .attest rq _ | .resetVif rq
  | .peerGrant rq _ _ _ _ _ | .halt rq _ | .resume rq _ | .step rq _ | .inflight rq _ _ | .route rq _ _ | .ctl rq _ _ => some rq
  | _ => none

/-- A header without a guard and without a literal. -/
def plainHd : Hd := ⟨7, false, false, none⟩

/-- A header without a guard that holds a literal. -/
def litHd (w : Word) : Hd := ⟨7, false, false, some w⟩

/-- The units of an instruction stand in memory from a VA on, in pages that its fetch may use: as many as the first unit's length field
gives, and one where it gives none (R69, R70). -/
def UnitsAt (s : State) (asid va : Nat) (us : List Word) : Prop :=
  us ≠ [] ∧ us.length = (unitCount (us.headD 0)).getD 1 ∧
  ∀ k < us.length, ∃ l, s.locGlob .ex asid (va + 4 * k) = .ok l ∧ s.damaged l = false ∧
    us.getD k 0 = BitVec.ofNat 32 (leNat (s.locBytes l 4))

/-- A group's arm may issue: it is its turn, no saddle's window stops it, no halt holds it, and no other group goes first. -/
def GroupMayIssue (s : State) (c k : Nat) (arm : Bool) : Prop :=
  s.tgOpen c k arm = true ∧ (s.tg c k).crossed = false ∧ s.windowDue (s.tg c k).window = false ∧
  s.heldHalt (s.tg c k).halted (s.tg c k).stepReq (tgActor c k) = false ∧ s.outranked c k = false

/-- A Spur may issue. -/
def SpurMayIssue (s : State) (c : Nat) : Prop :=
  s.spurOpen c = true ∧ (s.core c).spur.crossed = false ∧ s.windowDue (s.core c).spur.window = false ∧
  s.heldHalt (s.core c).spur.halted (s.core c).spur.stepReq (spurActor c) = false

/-- A step gives the state that an instruction's meaning gives, with what follows an agent's turn; `u` is the state before. -/
def StepRuns (s u : State) (w : Who) (i : Instr) (v : State) : Prop :=
  ∃ t, exec i { v with who := w } = .next t ∧ step s = .next (u.afterTurn t w)

/-- Reset values of the control registers that every Spur reads (R2, R59, R125, R131, R164, R192, R265, R312, R317, R351, R450,
R452, R454, R463, R464). -/
def resetWords : List (Nat × DWord) :=
  [(0x01, 0x01FC001F), (0x10, 0), (0x20, 48), (0x21, 0), (0x22, 65536), (0x23, 16384), (0x24, 50), (0x25, 0x400002), (0x28, 0), (0x29, 0),
   (0x2A, 0), (0x2B, 0), (0x30, 0), (0x31, 0), (0x32, 0), (0x80, 1), (0x81, 0), (0x82, 0), (0x93, 0), (0x99, 0x40628), (0x9A, 48),
   (0x9B, 0x7D0012C0410), (0xA0, 0), (0xA1, 0), (0xA2, 0)]

/-- The cause code of a decode check (R83, R188). -/
def checkCause : DecErr → Nat
  | .illegalLength => 0x01
  | .illegalEncoding => 0x02
  | .wrongEngine => 0x03

/-- The registers that a trap leaves alone: the group's, and every actor's accesses (R189, R191). -/
def TrapKeeps (s t : State) (c k : Nat) : Prop :=
  (t.tg c k).v = (s.tg c k).v ∧ (t.tg c k).o = (s.tg c k).o ∧ (t.tg c k).l0 = (s.tg c k).l0 ∧ (t.tg c k).p = (s.tg c k).p ∧
  (t.tg c k).g = (s.tg c k).g ∧ (t.tg c k).live = (s.tg c k).live ∧ (t.tg c k).fpctl = (s.tg c k).fpctl ∧ ∀ a, t.actor a = s.actor a

/-- The frame of a trap at an arm's own instruction (R193). -/
def FrameNames (s : State) (c k : Nat) (arm : Bool) (cause : Nat) (f : Frame) : Prop :=
  f.cause = cause ∧ f.fpc = (s.tg c k).armPc arm ∧ f.pc = (s.tg c k).armPc arm ∧ f.late = false ∧
  f.pmask = (s.tg c k).active arm ∧ f.lmask = (s.tg c k).live ∧ f.nested = (s.tg c k).frame.isSome ∧
  f.held = (s.tg c k).div.isSome ∧ f.entry = (s.tg c k).div ∧ f.actor = tgActor c k ∧ f.seq = (s.tg c k).seq ∧ f.spc = (s.tg c k).spc

end Sys2Proof.Machine

/-- R69, R71 to R83. In either engine and at any declared count, the units of every well-formed instruction decode to that
instruction, and their number is the one that the first unit's length field gives; and units that decode to an instruction are that
instruction's encoding. -/
def Obligations.EncodingsDecode : Prop :=
  (∀ (cx : Cx) (i : Instr), i.wf cx = true →
    decode cx (encode cx.eng i) = .ok i (encode cx.eng i).length ∧
    unitCount ((encode cx.eng i).headD 0) = some (encode cx.eng i).length) ∧
  (∀ (cx : Cx) (us : List Word) (i : Instr) (n : Nat), decode cx us = .ok i n →
    i.wf cx = true ∧ us = encode cx.eng i ∧ n = us.length)

/-- R92, R93, R379, R419, R420, R468. Every Couloir command decodes from its record, and a record that decodes is its command's; every
request decodes from its words for the interface that it arrives at. -/
def Obligations.RecordsAndRequestsDecode : Prop :=
  (∀ (i : Instr) (r : Rec), encodeRec i = some r → decodeRec r = some i) ∧
  (∀ (i : Instr) (r : Rec), decodeRec r = some i → encodeRec i = some r) ∧
  (∀ (i : Instr) (rq : Rq) (ws : ReqWords), requestOf i = some rq → encodeReq i = some ws → replyOk i = true →
    (∀ n, i = .attest rq n → n.length = 32) → decodeReq rq.vif rq.via ws = i)

/-- R83, R91, R194 and the encoding tables of spec/: some words as the spec writes them, and others built from its fields, decode to the
instructions that they stand for; a reserved opcode is ILLEGAL_ENCODING, and a lane opcode in the Spur WRONG_ENGINE. -/
def Obligations.SpecWordsDecode : Prop :=
  let lane : Cx := ⟨.lane, 256⟩
  let spur : Cx := ⟨.spur, 0⟩
  decode lane [0x03053828] = .ok (.iaddCompact 7 false 5 3) 1 ∧
  decode lane [0x0A00506D, 0x00103004] = .ok (.fmul ⟨2, true, false, none⟩ .f32 (.main 10) (.main 1) (.opnd 3)) 2 ∧
  decode lane [0x07003B2A, 0x00000FFC, 0x3FC00000] = .ok (.li (litHd 0x3FC00000) (.main 7) .lit) 3 ∧
  decode lane [0x00000211, 0xFFFFA000] = .ok (.bra ⟨0, false, false, none⟩ none (-6)) 2 ∧
  decode lane [0x000038DD, 0] = .ok (.xret plainHd false) 2 ∧ decode lane [0x000138DD, 0] = .ok (.xret plainHd true) 2 ∧
  decode spur [0x05013821, 0x0031000C] = .ok (.add plainHd .s32 (.main 5) (.main 3) (.imm 16)) 2 ∧
  decode spur [0x094E3D01, 0x00308008] = .ok (.sld plainHd .z32 (.sync .clu) (.main 9) (.main 2) (.imm 8)) 2 ∧
  decode lane [0x09053829, 0x00003008] = .ok (.iadd plainHd .z32 true (.main 9) (.main 2) (.main 3)) 2 ∧
  decode lane [0x11083AC9, 0x00308001] = .ok (.icmp plainHd .s32 .lt (.pred 1) (.main 0) (.imm 8)) 2 ∧
  decode lane [0] = .trap .illegalEncoding ∧ decode spur [0] = .trap .illegalEncoding ∧
  decode lane [0x00D2C090] = .trap .illegalEncoding ∧ decode spur [0x00D2C090] = .trap .wrongEngine

/-- R34, R69, R70, R82. A step runs the decoded instruction: the next turn's time passes, and then, where the turn is a group's, the
Spur's or a queue's that may issue, the instruction whose units stand at its PC, or the queue's next command, has its effect, a
group's instruction being noted in the fused group that it belongs to (R94), and what follows an agent's turn is done; an event, a
request or an instruction of firmware has its effect as the turn names it. An agent that may not issue does nothing. -/
def Obligations.StepRunsTheDecodedInstruction : Prop :=
  ∀ (s u : State) (m : Move), s.nextTurn.move = m → u = s.begin s.nextTurn →
    (∀ c k arm us i n, m = .tg c k arm → GroupMayIssue u c k arm →
      UnitsAt u (u.asidOf c) ((u.tg c k).armPc arm).toNat us → decode ⟨.lane, (u.tg c k).regs⟩ us = .ok i n →
      u.hazard (tgActor c k) arm i = false → (isMemory i = true → (u.outstanding (tgActor c k)).length < 16) →
      StepRuns s u (.tg c k arm) i (u.joinFused c k arm i us.length)) ∧
    (∀ c k arm, m = .tg c k arm → u.tgOpen c k arm = false → step s = .next u) ∧
    (∀ c us i n, m = .spur c → SpurMayIssue u c → UnitsAt u (u.asidOf c) (u.core c).spur.pc.toNat us →
      decode ⟨.spur, 0⟩ us = .ok i n → StepRuns s u (.spur c) i u) ∧
    (∀ c, m = .spur c → u.spurOpen c = false → step s = .next u) ∧
    (∀ c q i v, m = .queue c q → u.queueReady c q = .go i v → StepRuns s u (.queue c q) i v) ∧
    (∀ i a b, m = .event i a b → step s = exec i { u with who := .none, subj := (a, b) }) ∧
    (∀ vif via ws, m = .request vif via ws → step s = exec (decodeReq vif via ws) { u with who := .none }) ∧
    (∀ c i, m = .firmware c i → step s = exec i { u with who := .spur c })

/-- R2, R414, R415, R429, R444 and the Reset columns of spec/. After package reset of the LY-768 every Spur reads the reset values
that the spec gives its control registers, and the trap ring's registers where it may; the ring links are disabled; nothing is
resident, in flight or waiting; no interface owns an address space; every byte of memory reads zero (DESIGN CHOICE, log entry 11);
the reference time is 0 and the next saddle is saddle 1. -/
def Obligations.ResetState : Prop :=
  let s := State.reset
  (∀ c < 768, ∀ w ∈ resetWords, s.csrRead (s.spurUser c) w.1 = some w.2) ∧
  (∀ c < 768, ∀ n, 0x40 ≤ n → n < 0x80 → n % 4 ≠ 3 → s.csrRead (s.spurUser c) n = some 0) ∧
  (∀ c < 768, s.csrRead (s.spurUser c) 0x90 = if c % 192 = 191 then some 12 else none) ∧
  (∀ c < 768, ∀ n, n = 0x91 ∨ n = 0x92 → s.csrRead (s.spurUser c) n = if c % 192 = 191 then some 0 else none) ∧
  (∀ c k, (s.core c).launch = none ∧ (s.tg c k).used = false ∧ (s.core c).pend = []) ∧
  (∀ a, s.actor a = {}) ∧ s.path = [] ∧ s.done = [] ∧ s.images = [] ∧ s.starts = [] ∧ s.clq = [] ∧
  (∀ v < 64, s.spacesOf v = []) ∧ (∀ a, s.byteAt a = 0) ∧ s.refTime = 0 ∧ s.calendar.next = 1

/-- The forms of state hold at reset: memory, the peers' memory, the cores and the clusters are in their canonical form. The form is the
model's choice. -/
def Obligations.ResetIsCanonical : Prop :=
  State.reset.memOk = true ∧ mwf {} State.reset.cores = true ∧ mwf {} State.reset.clusters = true

/-- Every step keeps memory in its canonical form: addresses rising, no listed byte that reads as an unlisted one. The form is the
model's choice; that memory equal byte by byte is equal data rests on it. -/
def Obligations.StepKeepsMemoryCanonical : Prop :=
  ∀ s t : State, s.memOk = true → step s = .next t → t.memOk = true

/-- R83, R137, R188 to R191. No instruction ends the machine: each answers a next state, in every state, and so does every step. -/
def Obligations.NoInstructionStops : Prop :=
  (∀ (i : Instr) (s : State), ∃ t, exec i s = .next t) ∧ ∀ s : State, ∃ t, step s = .next t

/-- R83, R90, R137, R188 to R193. Taking a trap. An instruction of the other engine takes WRONG_ENGINE: in a group with nothing
outstanding, where the trap CSRs do not deliver the cause or the group is in handler mode, the group parks on fault service; where
they deliver it and the frame can be written, the frame is in memory and the group stands at sys.tvec's PC in handler mode with the
arm's mask; each with a frame that names the instruction, and no register changed. In the Spur it parks the Spur on fault service
with its frame. Units that do not decode take the trap of their check in the same way, as a step. That the frame's PMASK and the
handler's path are the arm's live threads only is the model's reading (log 19). -/
def Obligations.TrapsAreTaken : Prop :=
  ∀ (i : Instr) (s : State) (c k : Nat) (arm : Bool),
    (TgTurn s c k arm → i.shape.isSome = true → i.onEngine .lane = false → s.busy (tgActor c k) = false → (s.tg c k).late = [] →
      ((s.tg c k).frame.isSome = true ∨ (s.core c).csr.delivers 0x03 = false →
        ∃ t f, exec i s = .next t ∧ (t.tg c k).svc = some f ∧ FrameNames s c k arm 0x03 f ∧ f.frameFail = false ∧
          (t.tg c k).armPark arm = .fault ∧ (t.tg c k).frame = (s.tg c k).frame ∧ TrapKeeps s t c k) ∧
      (∀ lines, (s.tg c k).frame = none → (s.core c).csr.delivers 0x03 = true →
        s.framePages (s.asidOf c) ((s.core c).csr.frameVa k) = some lines → s.owners = [] → s.records c 7 = false → s.memOk = true →
        (∀ p ∈ lines, s.dramHeld (.phys p) = false) →
        (∀ p ∈ lines, p.c = true → p.au = true → ∀ q ∈ lines, ¬ (q.phys ≤ descAddr p.phys ∧ descAddr p.phys < q.phys + 128)) →
        ∃ t f, exec i s = .next t ∧ (t.tg c k).frame = some f ∧ FrameNames s c k arm 0x03 f ∧ (t.tg c k).svc = (s.tg c k).svc ∧
          (t.tg c k).pc = (s.core c).csr.tvec &&& 0x00FFFFFFFFFFFFFC ∧ (t.tg c k).path = (s.tg c k).active arm ∧
          (t.tg c k).div = none ∧ (lines.flatMap fun p => t.physBytes p.phys 128) = f.bytes ∧ TrapKeeps s t c k)) ∧
    (SpurTurn s c → (i.shape.isSome = true ∨ i.compact?.isSome = true) → i.onEngine .spur = false →
      ∃ t, exec i s = .next t ∧ (t.core c).spur.run = .parkFault ∧ (t.core c).spur.frame = some ⟨(s.core c).spur.pc, 0x03, 0, none, (s.core c).spur.pc⟩ ∧
        (t.core c).spur.s = (s.core c).spur.s ∧ (t.core c).spur.q = (s.core c).spur.q ∧ (t.core c).spur.pc = (s.core c).spur.pc ∧
        ∀ a, t.actor a = s.actor a) ∧
    (∀ (u : State) (us : List Word) (e : DecErr), u = s.begin s.nextTurn →
      (s.nextTurn.move = .spur c → SpurMayIssue u c → UnitsAt u (u.asidOf c) (u.core c).spur.pc.toNat us →
        decode ⟨.spur, 0⟩ us = .trap e →
        ∃ t, step s = .next t ∧ (t.core c).spur.run = .parkFault ∧
          (t.core c).spur.frame = some ⟨(u.core c).spur.pc, checkCause e, 0, none, (u.core c).spur.pc⟩) ∧
      (s.nextTurn.move = .tg c k arm → GroupMayIssue u c k arm → UnitsAt u (u.asidOf c) ((u.tg c k).armPc arm).toNat us →
        decode ⟨.lane, (u.tg c k).regs⟩ us = .trap e → u.busy (tgActor c k) = false →
        ((u.tg c k).frame.isSome = true ∨ (u.core c).csr.delivers (checkCause e) = false) →
        ∃ t f, step s = .next t ∧ (t.tg c k).svc = some f ∧ FrameNames u c k arm (checkCause e) f))
end

