-- ==== Sys2Proof/Laws/Maps.lean ====
section
/-! SUPPORT. Laws of the sparse maps: reading after a write, and the canonical form. -/

namespace Sys2Proof.Machine

variable {α : Type}

/-! ## Reading -/

@[simp] theorem mget_nil (d : α) (i : Nat) : mget d [] i = d := rfl

/-- A key that no entry has reads as the default. -/
theorem mget_absent {d : α} {m : NMap α} {i : Nat} (h : ∀ p ∈ m, p.1 ≠ i) : mget d m i = d := by
  induction m with
  | nil => rfl
  | cons p m ih =>
    have hp : i ≠ p.1 := fun e => h p List.mem_cons_self e.symm
    simp only [mget, hp, if_false]
    exact ih fun q hq => h q (List.mem_cons_of_mem p hq)

/-- Every entry's key is at or above the bound of its form. -/
theorem mwfFrom_le [DecidableEq α] {d : α} {m : NMap α} {lo : Nat} (h : mwfFrom d lo m = true) : ∀ p ∈ m, lo ≤ p.1 := by
  induction m generalizing lo with
  | nil => simp
  | cons p m ih =>
    simp only [mwfFrom, Bool.and_eq_true, decide_eq_true_eq] at h
    intro q hq
    rcases List.mem_cons.mp hq with rfl | hq
    · exact h.1.1
    · exact Nat.le_of_lt (Nat.lt_of_succ_le (Nat.le_trans (Nat.succ_le_succ h.1.1) (ih h.2 q hq)))

/-- A key below the bound reads as the default. -/
theorem mget_below [DecidableEq α] {d : α} {m : NMap α} {lo i : Nat} (h : mwfFrom d lo m = true) (hi : i < lo) : mget d m i = d :=
  mget_absent fun p hp => Nat.ne_of_gt (Nat.lt_of_lt_of_le hi (mwfFrom_le h p hp))

/-- A smaller bound holds too. -/
theorem mwfFrom_mono [DecidableEq α] {d : α} {m : NMap α} {lo lo' : Nat} (hl : lo' ≤ lo) (h : mwfFrom d lo m = true) :
    mwfFrom d lo' m = true := by
  cases m with
  | nil => rfl
  | cons p m =>
    simp only [mwfFrom, Bool.and_eq_true, decide_eq_true_eq] at h ⊢
    exact ⟨⟨Nat.le_trans hl h.1.1, h.1.2⟩, h.2⟩

/-- Reading after a write, at any key. -/
theorem mget_mset [DecidableEq α] {d : α} {m : NMap α} {lo : Nat} (h : mwfFrom d lo m = true) (i : Nat) (x : α) (j : Nat) :
    mget d (mset d m i x) j = if j = i then x else mget d m j := by
  induction m generalizing lo with
  | nil => by_cases hx : x = d <;> by_cases hj : j = i <;> simp [mset, mget, hx, hj]
  | cons p m ih =>
    obtain ⟨k, v⟩ := p
    simp only [mwfFrom, Bool.and_eq_true, decide_eq_true_eq] at h
    by_cases hik : i < k
    · have hd : mget d ((k, v) :: m) i = d := mget_below (lo := k) (by simp [mwfFrom, h.1.2, h.2]) hik
      by_cases hx : x = d <;> by_cases hj : j = i
      · subst hj; simp [mset, hik, hx, hd]
      · simp [mset, hik, hx, hj]
      · subst hj; simp [mset, hik, hx, mget]
      · simp [mset, hik, hx, hj, mget]
    · by_cases he : i = k
      · subst he
        by_cases hx : x = d <;> by_cases hj : j = i
        · subst hj; simp [mset, hx, mget_below h.2 (Nat.lt_succ_self j)]
        · simp [mset, hx, hj, mget]
        · subst hj; simp [mset, hx, mget]
        · simp [mset, hx, hj, mget]
      · by_cases hj : j = k
        · subst hj; simp [mset, mget, hik, he, Ne.symm he]
        · simp [mset, mget, hik, he, hj, ih h.2]

/-- Reading a key that was not written, in any list. -/
theorem mget_mset_ne [DecidableEq α] {d : α} {m : NMap α} {i j : Nat} {x : α} (h : j ≠ i) : mget d (mset d m i x) j = mget d m j := by
  induction m with
  | nil => by_cases hx : x = d <;> simp [mset, mget, hx, h]
  | cons p m ih =>
    obtain ⟨k, v⟩ := p
    by_cases hik : i < k
    · by_cases hx : x = d <;> simp [mset, mget, hik, hx, h]
    · by_cases he : i = k
      · subst he; by_cases hx : x = d <;> simp [mset, mget, hx, h]
      · simp [mset, mget, hik, he, ih]

/-- Reading a key that was written with another value than the default, in any list. -/
theorem mget_mset_listed [DecidableEq α] {d : α} {m : NMap α} {i : Nat} {x : α} (h : x ≠ d) : mget d (mset d m i x) i = x := by
  induction m with
  | nil => simp [mset, mget, h]
  | cons p m ih =>
    obtain ⟨k, v⟩ := p
    by_cases hik : i < k
    · simp [mset, mget, hik, h]
    · by_cases he : i = k
      · simp [mset, mget, he, h]
      · simp [mset, mget, hik, he, ih]

/-- Reading the key that was written. -/
theorem mget_mset_same [DecidableEq α] {d : α} {m : NMap α} (h : mwf d m = true) (i : Nat) (x : α) : mget d (mset d m i x) i = x := by
  simp [mget_mset h]

/-- Reading another key. -/
theorem mget_mset_other [DecidableEq α] {d : α} {m : NMap α} (h : mwf d m = true) {i j : Nat} (x : α) (hj : j ≠ i) :
    mget d (mset d m i x) j = mget d m j := by
  simp [mget_mset h, hj]

/-! ## The canonical form -/

/-- A write keeps the canonical form above any bound at or below its key. -/
theorem mwfFrom_mset [DecidableEq α] {d : α} {m : NMap α} {lo : Nat} (h : mwfFrom d lo m = true) {i : Nat} (x : α) (hi : lo ≤ i) :
    mwfFrom d lo (mset d m i x) = true := by
  induction m generalizing lo with
  | nil => by_cases hx : x = d <;> simp [mset, mwfFrom, hx, hi]
  | cons p m ih =>
    obtain ⟨k, v⟩ := p
    simp only [mwfFrom, Bool.and_eq_true, decide_eq_true_eq] at h
    by_cases hik : i < k
    · by_cases hx : x = d
      · simp [mset, hik, hx, mwfFrom, h.1.1, h.1.2, h.2]
      · simp [mset, hik, hx, mwfFrom, hi, h.1.2, h.2, Nat.succ_le_of_lt hik]
    · by_cases he : i = k
      · subst he
        by_cases hx : x = d
        · simp only [mset, Nat.lt_irrefl, hx, if_true, if_false]
          exact mwfFrom_mono (Nat.le_succ_of_le h.1.1) h.2
        · simp [mset, hx, mwfFrom, hi, h.2]
      · have : k + 1 ≤ i := by omega
        simp [mset, hik, he, mwfFrom, h.1.1, h.1.2, ih h.2 this]

/-- A write keeps the canonical form. -/
theorem mwf_mset [DecidableEq α] {d : α} {m : NMap α} (h : mwf d m = true) (i : Nat) (x : α) : mwf d (mset d m i x) = true :=
  mwfFrom_mset h x (Nat.zero_le i)

/-- Writing bytes keeps the canonical form. -/
theorem mwf_mwrite {d : Byte} (l : List Byte) {m : NMap Byte} (h : mwf d m = true) (a : Nat) : mwf d (mwrite d m a l) = true := by
  induction l generalizing m a with
  | nil => exact h
  | cons b l ih => exact ih (mwf_mset h a b) (a + 1)

/-- Leaving entries out keeps the canonical form. -/
theorem mwfFrom_filter [DecidableEq α] {d : α} (f : Nat × α → Bool) {m : NMap α} {lo : Nat} (h : mwfFrom d lo m = true) :
    mwfFrom d lo (m.filter f) = true := by
  induction m generalizing lo with
  | nil => rfl
  | cons p m ih =>
    simp only [mwfFrom, Bool.and_eq_true, decide_eq_true_eq] at h
    by_cases hp : f p
    · simp [List.filter, hp, mwfFrom, h.1.1, h.1.2, ih h.2]
    · simp only [List.filter, hp]
      exact ih (mwfFrom_mono (Nat.le_succ_of_le h.1.1) h.2)

/-! ## Bytes -/

/-- Reading a byte after bytes were written. -/
theorem mget_mwrite {d : Byte} (l : List Byte) {m : NMap Byte} (h : mwf d m = true) (a j : Nat) :
    mget d (mwrite d m a l) j = if a ≤ j ∧ j < a + l.length then l.getD (j - a) d else mget d m j := by
  induction l generalizing m a with
  | nil =>
    rw [mwrite, if_neg]
    rintro ⟨h1, h2⟩
    simp only [List.length_nil, Nat.add_zero] at h2
    omega
  | cons b l ih =>
    rw [mwrite, ih (mwf_mset h a b), mget_mset h, List.length_cons]
    by_cases hj : j = a
    · subst hj
      rw [if_neg (by omega), if_pos rfl, if_pos (by omega)]
      simp
    · by_cases h1 : a + 1 ≤ j ∧ j < a + 1 + l.length
      · have h2 : a ≤ j ∧ j < a + (l.length + 1) := by omega
        have h3 : j - a = (j - (a + 1)) + 1 := by omega
        simp [h1, h2, h3]
      · have h2 : ¬ (a ≤ j ∧ j < a + (l.length + 1)) := by omega
        rw [if_neg h1, if_neg h2, if_neg hj]

/-- A byte outside the bytes written reads as before. -/
theorem mget_mwrite_outside {d : Byte} (l : List Byte) {m : NMap Byte} (h : mwf d m = true) {a j : Nat} (hj : ¬ (a ≤ j ∧ j < a + l.length)) :
    mget d (mwrite d m a l) j = mget d m j := by
  simp [mget_mwrite l h, hj]

@[simp] theorem mbytes_length (d : Byte) (m : NMap Byte) (a n : Nat) : (mbytes d m a n).length = n := by
  induction n generalizing a with
  | zero => rfl
  | succ n ih => simp [mbytes, ih]

@[simp] theorem leBytes_length (n x : Nat) : (leBytes n x).length = n := by
  induction n generalizing x with
  | zero => rfl
  | succ n ih => simp [leBytes, ih]

/-- A number is read back from its bytes, up to their width (R8). -/
theorem leNat_leBytes (n x : Nat) : leNat (leBytes n x) = x % 256 ^ n := by
  induction n generalizing x with
  | zero => simp [leBytes, leNat, Nat.mod_one]
  | succ n ih =>
    have h : 256 ^ (n + 1) = 256 * 256 ^ n := by rw [Nat.pow_succ, Nat.mul_comm]
    rw [leBytes, leNat, ih, BitVec.toNat_ofNat, h, Nat.mod_mul]

/-- Zeros read as zero. -/
@[simp] theorem leNat_zeros (n : Nat) : leNat (List.replicate n 0) = 0 := by
  induction n with
  | zero => rfl
  | succ n ih => rw [List.replicate_succ, leNat, ih]; rfl

/-- A byte of a range is the one at its address. -/
theorem mbytes_getElem (d : Byte) (m : NMap Byte) (a n i : Nat) (hi : i < (mbytes d m a n).length) : (mbytes d m a n)[i] = mget d m (a + i) := by
  induction n generalizing a i with
  | zero => simp [mbytes] at hi
  | succ n ih =>
    cases i with
    | zero => simp [mbytes]
    | succ i => simp only [mbytes, List.getElem_cons_succ, ih]; congr 1; omega

/-- Reading a number after its bytes were written. -/
theorem mbytes_mwrite {d : Byte} (l : List Byte) {m : NMap Byte} (h : mwf d m = true) (a : Nat) :
    mbytes d (mwrite d m a l) a l.length = l := by
  apply List.ext_getElem (by simp)
  intro i h1 h2
  rw [mbytes_getElem, mget_mwrite l h]
  simp [h2]

end Sys2Proof.Machine
end

