-- ==== Sys2Proof/Laws/State.lean ====
section
/-! SUPPORT. What the updates of State leave: one lemma for each field that an update does not change, and what the accessors read
after an update. -/

namespace Sys2Proof.Machine


/-! ## setCore -/

@[simp] theorem State.setCore_caps (s : State) (c : Nat) (x : Core) : (s.setCore c x).caps = s.caps := rfl
@[simp] theorem State.setCore_actors (s : State) (c : Nat) (x : Core) : (s.setCore c x).actors = s.actors := rfl
@[simp] theorem State.setCore_path (s : State) (c : Nat) (x : Core) : (s.setCore c x).path = s.path := rfl
@[simp] theorem State.setCore_links (s : State) (c : Nat) (x : Core) : (s.setCore c x).links = s.links := rfl
@[simp] theorem State.setCore_done (s : State) (c : Nat) (x : Core) : (s.setCore c x).done = s.done := rfl
@[simp] theorem State.setCore_mem (s : State) (c : Nat) (x : Core) : (s.setCore c x).mem = s.mem := rfl
@[simp] theorem State.setCore_owners (s : State) (c : Nat) (x : Core) : (s.setCore c x).owners = s.owners := rfl
@[simp] theorem State.setCore_absent (s : State) (c : Nat) (x : Core) : (s.setCore c x).absent = s.absent := rfl
@[simp] theorem State.setCore_damage (s : State) (c : Nat) (x : Core) : (s.setCore c x).damage = s.damage := rfl
@[simp] theorem State.setCore_spaces (s : State) (c : Nat) (x : Core) : (s.setCore c x).spaces = s.spaces := rfl
@[simp] theorem State.setCore_remaps (s : State) (c : Nat) (x : Core) : (s.setCore c x).remaps = s.remaps := rfl
@[simp] theorem State.setCore_dirty (s : State) (c : Nat) (x : Core) : (s.setCore c x).dirty = s.dirty := rfl
@[simp] theorem State.setCore_domid (s : State) (c : Nat) (x : Core) : (s.setCore c x).domid = s.domid := rfl
@[simp] theorem State.setCore_grants (s : State) (c : Nat) (x : Core) : (s.setCore c x).grants = s.grants := rfl
@[simp] theorem State.setCore_exports (s : State) (c : Nat) (x : Core) : (s.setCore c x).exports = s.exports := rfl
@[simp] theorem State.setCore_peerMem (s : State) (c : Nat) (x : Core) : (s.setCore c x).peerMem = s.peerMem := rfl
@[simp] theorem State.setCore_nextUid (s : State) (c : Nat) (x : Core) : (s.setCore c x).nextUid = s.nextUid := rfl
@[simp] theorem State.setCore_writers (s : State) (c : Nat) (x : Core) : (s.setCore c x).writers = s.writers := rfl
@[simp] theorem State.setCore_ring (s : State) (c : Nat) (x : Core) : (s.setCore c x).ring = s.ring := rfl
@[simp] theorem State.setCore_sbars (s : State) (c : Nat) (x : Core) : (s.setCore c x).sbars = s.sbars := rfl
@[simp] theorem State.setCore_clusters (s : State) (c : Nat) (x : Core) : (s.setCore c x).clusters = s.clusters := rfl
@[simp] theorem State.setCore_calendar (s : State) (c : Nat) (x : Core) : (s.setCore c x).calendar = s.calendar := rfl
@[simp] theorem State.setCore_routes (s : State) (c : Nat) (x : Core) : (s.setCore c x).routes = s.routes := rfl
@[simp] theorem State.setCore_asserted (s : State) (c : Nat) (x : Core) : (s.setCore c x).asserted = s.asserted := rfl
@[simp] theorem State.setCore_pins (s : State) (c : Nat) (x : Core) : (s.setCore c x).pins = s.pins := rfl
@[simp] theorem State.setCore_captured (s : State) (c : Nat) (x : Core) : (s.setCore c x).captured = s.captured := rfl
@[simp] theorem State.setCore_clq (s : State) (c : Nat) (x : Core) : (s.setCore c x).clq = s.clq := rfl
@[simp] theorem State.setCore_starts (s : State) (c : Nat) (x : Core) : (s.setCore c x).starts = s.starts := rfl
@[simp] theorem State.setCore_frsHeld (s : State) (c : Nat) (x : Core) : (s.setCore c x).frsHeld = s.frsHeld := rfl
@[simp] theorem State.setCore_scrubJobs (s : State) (c : Nat) (x : Core) : (s.setCore c x).scrubJobs = s.scrubJobs := rfl
@[simp] theorem State.setCore_reads (s : State) (c : Nat) (x : Core) : (s.setCore c x).reads = s.reads := rfl
@[simp] theorem State.setCore_images (s : State) (c : Nat) (x : Core) : (s.setCore c x).images = s.images := rfl
@[simp] theorem State.setCore_nextOrder (s : State) (c : Nat) (x : Core) : (s.setCore c x).nextOrder = s.nextOrder := rfl
@[simp] theorem State.setCore_lastServed (s : State) (c : Nat) (x : Core) : (s.setCore c x).lastServed = s.lastServed := rfl
@[simp] theorem State.setCore_frames (s : State) (c : Nat) (x : Core) : (s.setCore c x).frames = s.frames := rfl
@[simp] theorem State.setCore_tables (s : State) (c : Nat) (x : Core) : (s.setCore c x).tables = s.tables := rfl
@[simp] theorem State.setCore_vifs (s : State) (c : Nat) (x : Core) : (s.setCore c x).vifs = s.vifs := rfl
@[simp] theorem State.setCore_dropped (s : State) (c : Nat) (x : Core) : (s.setCore c x).dropped = s.dropped := rfl
@[simp] theorem State.setCore_outbox (s : State) (c : Nat) (x : Core) : (s.setCore c x).outbox = s.outbox := rfl
@[simp] theorem State.setCore_remotes (s : State) (c : Nat) (x : Core) : (s.setCore c x).remotes = s.remotes := rfl
@[simp] theorem State.setCore_ballast (s : State) (c : Nat) (x : Core) : (s.setCore c x).ballast = s.ballast := rfl
@[simp] theorem State.setCore_endings (s : State) (c : Nat) (x : Core) : (s.setCore c x).endings = s.endings := rfl
@[simp] theorem State.setCore_orphans (s : State) (c : Nat) (x : Core) : (s.setCore c x).orphans = s.orphans := rfl
@[simp] theorem State.setCore_incoming (s : State) (c : Nat) (x : Core) : (s.setCore c x).incoming = s.incoming := rfl
@[simp] theorem State.setCore_asked (s : State) (c : Nat) (x : Core) : (s.setCore c x).asked = s.asked := rfl
@[simp] theorem State.setCore_resets (s : State) (c : Nat) (x : Core) : (s.setCore c x).resets = s.resets := rfl
@[simp] theorem State.setCore_stepJobs (s : State) (c : Nat) (x : Core) : (s.setCore c x).stepJobs = s.stepJobs := rfl
@[simp] theorem State.setCore_retries (s : State) (c : Nat) (x : Core) : (s.setCore c x).retries = s.retries := rfl
@[simp] theorem State.setCore_refTime (s : State) (c : Nat) (x : Core) : (s.setCore c x).refTime = s.refTime := rfl
@[simp] theorem State.setCore_cycles (s : State) (c : Nat) (x : Core) : (s.setCore c x).cycles = s.cycles := rfl
@[simp] theorem State.setCore_who (s : State) (c : Nat) (x : Core) : (s.setCore c x).who = s.who := rfl
@[simp] theorem State.setCore_agenda (s : State) (c : Nat) (x : Core) : (s.setCore c x).agenda = s.agenda := rfl
@[simp] theorem State.setCore_turns (s : State) (c : Nat) (x : Core) : (s.setCore c x).turns = s.turns := rfl
@[simp] theorem State.setCore_aliases (s : State) (c : Nat) (x : Core) : (s.setCore c x).aliases = s.aliases := rfl
@[simp] theorem State.setCore_heldPosts (s : State) (c : Nat) (x : Core) : (s.setCore c x).heldPosts = s.heldPosts := rfl
@[simp] theorem State.setCore_heldRaces (s : State) (c : Nat) (x : Core) : (s.setCore c x).heldRaces = s.heldRaces := rfl
@[simp] theorem State.setCore_posts (s : State) (c : Nat) (x : Core) : (s.setCore c x).posts = s.posts := rfl
@[simp] theorem State.setCore_unsent (s : State) (c : Nat) (x : Core) : (s.setCore c x).unsent = s.unsent := rfl
@[simp] theorem State.setCore_arb (s : State) (c : Nat) (x : Core) : (s.setCore c x).arb = s.arb := rfl
@[simp] theorem State.setCore_nextArb (s : State) (c : Nat) (x : Core) : (s.setCore c x).nextArb = s.nextArb := rfl
@[simp] theorem State.setCore_subj (s : State) (c : Nat) (x : Core) : (s.setCore c x).subj = s.subj := rfl

/-! ## onCore -/

@[simp] theorem State.onCore_caps (s : State) (c : Nat) (f : Core → Core) : (s.onCore c f).caps = s.caps := rfl
@[simp] theorem State.onCore_actors (s : State) (c : Nat) (f : Core → Core) : (s.onCore c f).actors = s.actors := rfl
@[simp] theorem State.onCore_path (s : State) (c : Nat) (f : Core → Core) : (s.onCore c f).path = s.path := rfl
@[simp] theorem State.onCore_links (s : State) (c : Nat) (f : Core → Core) : (s.onCore c f).links = s.links := rfl
@[simp] theorem State.onCore_done (s : State) (c : Nat) (f : Core → Core) : (s.onCore c f).done = s.done := rfl
@[simp] theorem State.onCore_mem (s : State) (c : Nat) (f : Core → Core) : (s.onCore c f).mem = s.mem := rfl
@[simp] theorem State.onCore_owners (s : State) (c : Nat) (f : Core → Core) : (s.onCore c f).owners = s.owners := rfl
@[simp] theorem State.onCore_absent (s : State) (c : Nat) (f : Core → Core) : (s.onCore c f).absent = s.absent := rfl
@[simp] theorem State.onCore_damage (s : State) (c : Nat) (f : Core → Core) : (s.onCore c f).damage = s.damage := rfl
@[simp] theorem State.onCore_spaces (s : State) (c : Nat) (f : Core → Core) : (s.onCore c f).spaces = s.spaces := rfl
@[simp] theorem State.onCore_remaps (s : State) (c : Nat) (f : Core → Core) : (s.onCore c f).remaps = s.remaps := rfl
@[simp] theorem State.onCore_dirty (s : State) (c : Nat) (f : Core → Core) : (s.onCore c f).dirty = s.dirty := rfl
@[simp] theorem State.onCore_domid (s : State) (c : Nat) (f : Core → Core) : (s.onCore c f).domid = s.domid := rfl
@[simp] theorem State.onCore_grants (s : State) (c : Nat) (f : Core → Core) : (s.onCore c f).grants = s.grants := rfl
@[simp] theorem State.onCore_exports (s : State) (c : Nat) (f : Core → Core) : (s.onCore c f).exports = s.exports := rfl
@[simp] theorem State.onCore_peerMem (s : State) (c : Nat) (f : Core → Core) : (s.onCore c f).peerMem = s.peerMem := rfl
@[simp] theorem State.onCore_nextUid (s : State) (c : Nat) (f : Core → Core) : (s.onCore c f).nextUid = s.nextUid := rfl
@[simp] theorem State.onCore_writers (s : State) (c : Nat) (f : Core → Core) : (s.onCore c f).writers = s.writers := rfl
@[simp] theorem State.onCore_ring (s : State) (c : Nat) (f : Core → Core) : (s.onCore c f).ring = s.ring := rfl
@[simp] theorem State.onCore_sbars (s : State) (c : Nat) (f : Core → Core) : (s.onCore c f).sbars = s.sbars := rfl
@[simp] theorem State.onCore_clusters (s : State) (c : Nat) (f : Core → Core) : (s.onCore c f).clusters = s.clusters := rfl
@[simp] theorem State.onCore_calendar (s : State) (c : Nat) (f : Core → Core) : (s.onCore c f).calendar = s.calendar := rfl
@[simp] theorem State.onCore_routes (s : State) (c : Nat) (f : Core → Core) : (s.onCore c f).routes = s.routes := rfl
@[simp] theorem State.onCore_asserted (s : State) (c : Nat) (f : Core → Core) : (s.onCore c f).asserted = s.asserted := rfl
@[simp] theorem State.onCore_pins (s : State) (c : Nat) (f : Core → Core) : (s.onCore c f).pins = s.pins := rfl
@[simp] theorem State.onCore_captured (s : State) (c : Nat) (f : Core → Core) : (s.onCore c f).captured = s.captured := rfl
@[simp] theorem State.onCore_clq (s : State) (c : Nat) (f : Core → Core) : (s.onCore c f).clq = s.clq := rfl
@[simp] theorem State.onCore_starts (s : State) (c : Nat) (f : Core → Core) : (s.onCore c f).starts = s.starts := rfl
@[simp] theorem State.onCore_frsHeld (s : State) (c : Nat) (f : Core → Core) : (s.onCore c f).frsHeld = s.frsHeld := rfl
@[simp] theorem State.onCore_scrubJobs (s : State) (c : Nat) (f : Core → Core) : (s.onCore c f).scrubJobs = s.scrubJobs := rfl
@[simp] theorem State.onCore_reads (s : State) (c : Nat) (f : Core → Core) : (s.onCore c f).reads = s.reads := rfl
@[simp] theorem State.onCore_images (s : State) (c : Nat) (f : Core → Core) : (s.onCore c f).images = s.images := rfl
@[simp] theorem State.onCore_nextOrder (s : State) (c : Nat) (f : Core → Core) : (s.onCore c f).nextOrder = s.nextOrder := rfl
@[simp] theorem State.onCore_lastServed (s : State) (c : Nat) (f : Core → Core) : (s.onCore c f).lastServed = s.lastServed := rfl
@[simp] theorem State.onCore_frames (s : State) (c : Nat) (f : Core → Core) : (s.onCore c f).frames = s.frames := rfl
@[simp] theorem State.onCore_tables (s : State) (c : Nat) (f : Core → Core) : (s.onCore c f).tables = s.tables := rfl
@[simp] theorem State.onCore_vifs (s : State) (c : Nat) (f : Core → Core) : (s.onCore c f).vifs = s.vifs := rfl
@[simp] theorem State.onCore_dropped (s : State) (c : Nat) (f : Core → Core) : (s.onCore c f).dropped = s.dropped := rfl
@[simp] theorem State.onCore_outbox (s : State) (c : Nat) (f : Core → Core) : (s.onCore c f).outbox = s.outbox := rfl
@[simp] theorem State.onCore_remotes (s : State) (c : Nat) (f : Core → Core) : (s.onCore c f).remotes = s.remotes := rfl
@[simp] theorem State.onCore_ballast (s : State) (c : Nat) (f : Core → Core) : (s.onCore c f).ballast = s.ballast := rfl
@[simp] theorem State.onCore_endings (s : State) (c : Nat) (f : Core → Core) : (s.onCore c f).endings = s.endings := rfl
@[simp] theorem State.onCore_orphans (s : State) (c : Nat) (f : Core → Core) : (s.onCore c f).orphans = s.orphans := rfl
@[simp] theorem State.onCore_incoming (s : State) (c : Nat) (f : Core → Core) : (s.onCore c f).incoming = s.incoming := rfl
@[simp] theorem State.onCore_asked (s : State) (c : Nat) (f : Core → Core) : (s.onCore c f).asked = s.asked := rfl
@[simp] theorem State.onCore_resets (s : State) (c : Nat) (f : Core → Core) : (s.onCore c f).resets = s.resets := rfl
@[simp] theorem State.onCore_stepJobs (s : State) (c : Nat) (f : Core → Core) : (s.onCore c f).stepJobs = s.stepJobs := rfl
@[simp] theorem State.onCore_retries (s : State) (c : Nat) (f : Core → Core) : (s.onCore c f).retries = s.retries := rfl
@[simp] theorem State.onCore_refTime (s : State) (c : Nat) (f : Core → Core) : (s.onCore c f).refTime = s.refTime := rfl
@[simp] theorem State.onCore_cycles (s : State) (c : Nat) (f : Core → Core) : (s.onCore c f).cycles = s.cycles := rfl
@[simp] theorem State.onCore_who (s : State) (c : Nat) (f : Core → Core) : (s.onCore c f).who = s.who := rfl
@[simp] theorem State.onCore_agenda (s : State) (c : Nat) (f : Core → Core) : (s.onCore c f).agenda = s.agenda := rfl
@[simp] theorem State.onCore_turns (s : State) (c : Nat) (f : Core → Core) : (s.onCore c f).turns = s.turns := rfl
@[simp] theorem State.onCore_aliases (s : State) (c : Nat) (f : Core → Core) : (s.onCore c f).aliases = s.aliases := rfl
@[simp] theorem State.onCore_heldPosts (s : State) (c : Nat) (f : Core → Core) : (s.onCore c f).heldPosts = s.heldPosts := rfl
@[simp] theorem State.onCore_heldRaces (s : State) (c : Nat) (f : Core → Core) : (s.onCore c f).heldRaces = s.heldRaces := rfl
@[simp] theorem State.onCore_posts (s : State) (c : Nat) (f : Core → Core) : (s.onCore c f).posts = s.posts := rfl
@[simp] theorem State.onCore_unsent (s : State) (c : Nat) (f : Core → Core) : (s.onCore c f).unsent = s.unsent := rfl
@[simp] theorem State.onCore_arb (s : State) (c : Nat) (f : Core → Core) : (s.onCore c f).arb = s.arb := rfl
@[simp] theorem State.onCore_nextArb (s : State) (c : Nat) (f : Core → Core) : (s.onCore c f).nextArb = s.nextArb := rfl
@[simp] theorem State.onCore_subj (s : State) (c : Nat) (f : Core → Core) : (s.onCore c f).subj = s.subj := rfl

/-! ## setTg -/

@[simp] theorem State.setTg_caps (s : State) (c k : Nat) (g : Tg) : (s.setTg c k g).caps = s.caps := rfl
@[simp] theorem State.setTg_actors (s : State) (c k : Nat) (g : Tg) : (s.setTg c k g).actors = s.actors := rfl
@[simp] theorem State.setTg_path (s : State) (c k : Nat) (g : Tg) : (s.setTg c k g).path = s.path := rfl
@[simp] theorem State.setTg_links (s : State) (c k : Nat) (g : Tg) : (s.setTg c k g).links = s.links := rfl
@[simp] theorem State.setTg_done (s : State) (c k : Nat) (g : Tg) : (s.setTg c k g).done = s.done := rfl
@[simp] theorem State.setTg_mem (s : State) (c k : Nat) (g : Tg) : (s.setTg c k g).mem = s.mem := rfl
@[simp] theorem State.setTg_owners (s : State) (c k : Nat) (g : Tg) : (s.setTg c k g).owners = s.owners := rfl
@[simp] theorem State.setTg_absent (s : State) (c k : Nat) (g : Tg) : (s.setTg c k g).absent = s.absent := rfl
@[simp] theorem State.setTg_damage (s : State) (c k : Nat) (g : Tg) : (s.setTg c k g).damage = s.damage := rfl
@[simp] theorem State.setTg_spaces (s : State) (c k : Nat) (g : Tg) : (s.setTg c k g).spaces = s.spaces := rfl
@[simp] theorem State.setTg_remaps (s : State) (c k : Nat) (g : Tg) : (s.setTg c k g).remaps = s.remaps := rfl
@[simp] theorem State.setTg_dirty (s : State) (c k : Nat) (g : Tg) : (s.setTg c k g).dirty = s.dirty := rfl
@[simp] theorem State.setTg_domid (s : State) (c k : Nat) (g : Tg) : (s.setTg c k g).domid = s.domid := rfl
@[simp] theorem State.setTg_grants (s : State) (c k : Nat) (g : Tg) : (s.setTg c k g).grants = s.grants := rfl
@[simp] theorem State.setTg_exports (s : State) (c k : Nat) (g : Tg) : (s.setTg c k g).exports = s.exports := rfl
@[simp] theorem State.setTg_peerMem (s : State) (c k : Nat) (g : Tg) : (s.setTg c k g).peerMem = s.peerMem := rfl
@[simp] theorem State.setTg_nextUid (s : State) (c k : Nat) (g : Tg) : (s.setTg c k g).nextUid = s.nextUid := rfl
@[simp] theorem State.setTg_writers (s : State) (c k : Nat) (g : Tg) : (s.setTg c k g).writers = s.writers := rfl
@[simp] theorem State.setTg_ring (s : State) (c k : Nat) (g : Tg) : (s.setTg c k g).ring = s.ring := rfl
@[simp] theorem State.setTg_sbars (s : State) (c k : Nat) (g : Tg) : (s.setTg c k g).sbars = s.sbars := rfl
@[simp] theorem State.setTg_clusters (s : State) (c k : Nat) (g : Tg) : (s.setTg c k g).clusters = s.clusters := rfl
@[simp] theorem State.setTg_calendar (s : State) (c k : Nat) (g : Tg) : (s.setTg c k g).calendar = s.calendar := rfl
@[simp] theorem State.setTg_routes (s : State) (c k : Nat) (g : Tg) : (s.setTg c k g).routes = s.routes := rfl
@[simp] theorem State.setTg_asserted (s : State) (c k : Nat) (g : Tg) : (s.setTg c k g).asserted = s.asserted := rfl
@[simp] theorem State.setTg_pins (s : State) (c k : Nat) (g : Tg) : (s.setTg c k g).pins = s.pins := rfl
@[simp] theorem State.setTg_captured (s : State) (c k : Nat) (g : Tg) : (s.setTg c k g).captured = s.captured := rfl
@[simp] theorem State.setTg_clq (s : State) (c k : Nat) (g : Tg) : (s.setTg c k g).clq = s.clq := rfl
@[simp] theorem State.setTg_starts (s : State) (c k : Nat) (g : Tg) : (s.setTg c k g).starts = s.starts := rfl
@[simp] theorem State.setTg_frsHeld (s : State) (c k : Nat) (g : Tg) : (s.setTg c k g).frsHeld = s.frsHeld := rfl
@[simp] theorem State.setTg_scrubJobs (s : State) (c k : Nat) (g : Tg) : (s.setTg c k g).scrubJobs = s.scrubJobs := rfl
@[simp] theorem State.setTg_reads (s : State) (c k : Nat) (g : Tg) : (s.setTg c k g).reads = s.reads := rfl
@[simp] theorem State.setTg_images (s : State) (c k : Nat) (g : Tg) : (s.setTg c k g).images = s.images := rfl
@[simp] theorem State.setTg_nextOrder (s : State) (c k : Nat) (g : Tg) : (s.setTg c k g).nextOrder = s.nextOrder := rfl
@[simp] theorem State.setTg_lastServed (s : State) (c k : Nat) (g : Tg) : (s.setTg c k g).lastServed = s.lastServed := rfl
@[simp] theorem State.setTg_frames (s : State) (c k : Nat) (g : Tg) : (s.setTg c k g).frames = s.frames := rfl
@[simp] theorem State.setTg_tables (s : State) (c k : Nat) (g : Tg) : (s.setTg c k g).tables = s.tables := rfl
@[simp] theorem State.setTg_vifs (s : State) (c k : Nat) (g : Tg) : (s.setTg c k g).vifs = s.vifs := rfl
@[simp] theorem State.setTg_dropped (s : State) (c k : Nat) (g : Tg) : (s.setTg c k g).dropped = s.dropped := rfl
@[simp] theorem State.setTg_outbox (s : State) (c k : Nat) (g : Tg) : (s.setTg c k g).outbox = s.outbox := rfl
@[simp] theorem State.setTg_remotes (s : State) (c k : Nat) (g : Tg) : (s.setTg c k g).remotes = s.remotes := rfl
@[simp] theorem State.setTg_ballast (s : State) (c k : Nat) (g : Tg) : (s.setTg c k g).ballast = s.ballast := rfl
@[simp] theorem State.setTg_endings (s : State) (c k : Nat) (g : Tg) : (s.setTg c k g).endings = s.endings := rfl
@[simp] theorem State.setTg_orphans (s : State) (c k : Nat) (g : Tg) : (s.setTg c k g).orphans = s.orphans := rfl
@[simp] theorem State.setTg_incoming (s : State) (c k : Nat) (g : Tg) : (s.setTg c k g).incoming = s.incoming := rfl
@[simp] theorem State.setTg_asked (s : State) (c k : Nat) (g : Tg) : (s.setTg c k g).asked = s.asked := rfl
@[simp] theorem State.setTg_resets (s : State) (c k : Nat) (g : Tg) : (s.setTg c k g).resets = s.resets := rfl
@[simp] theorem State.setTg_stepJobs (s : State) (c k : Nat) (g : Tg) : (s.setTg c k g).stepJobs = s.stepJobs := rfl
@[simp] theorem State.setTg_retries (s : State) (c k : Nat) (g : Tg) : (s.setTg c k g).retries = s.retries := rfl
@[simp] theorem State.setTg_refTime (s : State) (c k : Nat) (g : Tg) : (s.setTg c k g).refTime = s.refTime := rfl
@[simp] theorem State.setTg_cycles (s : State) (c k : Nat) (g : Tg) : (s.setTg c k g).cycles = s.cycles := rfl
@[simp] theorem State.setTg_who (s : State) (c k : Nat) (g : Tg) : (s.setTg c k g).who = s.who := rfl
@[simp] theorem State.setTg_agenda (s : State) (c k : Nat) (g : Tg) : (s.setTg c k g).agenda = s.agenda := rfl
@[simp] theorem State.setTg_turns (s : State) (c k : Nat) (g : Tg) : (s.setTg c k g).turns = s.turns := rfl
@[simp] theorem State.setTg_aliases (s : State) (c k : Nat) (g : Tg) : (s.setTg c k g).aliases = s.aliases := rfl
@[simp] theorem State.setTg_heldPosts (s : State) (c k : Nat) (g : Tg) : (s.setTg c k g).heldPosts = s.heldPosts := rfl
@[simp] theorem State.setTg_heldRaces (s : State) (c k : Nat) (g : Tg) : (s.setTg c k g).heldRaces = s.heldRaces := rfl
@[simp] theorem State.setTg_posts (s : State) (c k : Nat) (g : Tg) : (s.setTg c k g).posts = s.posts := rfl
@[simp] theorem State.setTg_unsent (s : State) (c k : Nat) (g : Tg) : (s.setTg c k g).unsent = s.unsent := rfl
@[simp] theorem State.setTg_arb (s : State) (c k : Nat) (g : Tg) : (s.setTg c k g).arb = s.arb := rfl
@[simp] theorem State.setTg_nextArb (s : State) (c k : Nat) (g : Tg) : (s.setTg c k g).nextArb = s.nextArb := rfl
@[simp] theorem State.setTg_subj (s : State) (c k : Nat) (g : Tg) : (s.setTg c k g).subj = s.subj := rfl

/-! ## onTg -/

@[simp] theorem State.onTg_caps (s : State) (c k : Nat) (f : Tg → Tg) : (s.onTg c k f).caps = s.caps := rfl
@[simp] theorem State.onTg_actors (s : State) (c k : Nat) (f : Tg → Tg) : (s.onTg c k f).actors = s.actors := rfl
@[simp] theorem State.onTg_path (s : State) (c k : Nat) (f : Tg → Tg) : (s.onTg c k f).path = s.path := rfl
@[simp] theorem State.onTg_links (s : State) (c k : Nat) (f : Tg → Tg) : (s.onTg c k f).links = s.links := rfl
@[simp] theorem State.onTg_done (s : State) (c k : Nat) (f : Tg → Tg) : (s.onTg c k f).done = s.done := rfl
@[simp] theorem State.onTg_mem (s : State) (c k : Nat) (f : Tg → Tg) : (s.onTg c k f).mem = s.mem := rfl
@[simp] theorem State.onTg_owners (s : State) (c k : Nat) (f : Tg → Tg) : (s.onTg c k f).owners = s.owners := rfl
@[simp] theorem State.onTg_absent (s : State) (c k : Nat) (f : Tg → Tg) : (s.onTg c k f).absent = s.absent := rfl
@[simp] theorem State.onTg_damage (s : State) (c k : Nat) (f : Tg → Tg) : (s.onTg c k f).damage = s.damage := rfl
@[simp] theorem State.onTg_spaces (s : State) (c k : Nat) (f : Tg → Tg) : (s.onTg c k f).spaces = s.spaces := rfl
@[simp] theorem State.onTg_remaps (s : State) (c k : Nat) (f : Tg → Tg) : (s.onTg c k f).remaps = s.remaps := rfl
@[simp] theorem State.onTg_dirty (s : State) (c k : Nat) (f : Tg → Tg) : (s.onTg c k f).dirty = s.dirty := rfl
@[simp] theorem State.onTg_domid (s : State) (c k : Nat) (f : Tg → Tg) : (s.onTg c k f).domid = s.domid := rfl
@[simp] theorem State.onTg_grants (s : State) (c k : Nat) (f : Tg → Tg) : (s.onTg c k f).grants = s.grants := rfl
@[simp] theorem State.onTg_exports (s : State) (c k : Nat) (f : Tg → Tg) : (s.onTg c k f).exports = s.exports := rfl
@[simp] theorem State.onTg_peerMem (s : State) (c k : Nat) (f : Tg → Tg) : (s.onTg c k f).peerMem = s.peerMem := rfl
@[simp] theorem State.onTg_nextUid (s : State) (c k : Nat) (f : Tg → Tg) : (s.onTg c k f).nextUid = s.nextUid := rfl
@[simp] theorem State.onTg_writers (s : State) (c k : Nat) (f : Tg → Tg) : (s.onTg c k f).writers = s.writers := rfl
@[simp] theorem State.onTg_ring (s : State) (c k : Nat) (f : Tg → Tg) : (s.onTg c k f).ring = s.ring := rfl
@[simp] theorem State.onTg_sbars (s : State) (c k : Nat) (f : Tg → Tg) : (s.onTg c k f).sbars = s.sbars := rfl
@[simp] theorem State.onTg_clusters (s : State) (c k : Nat) (f : Tg → Tg) : (s.onTg c k f).clusters = s.clusters := rfl
@[simp] theorem State.onTg_calendar (s : State) (c k : Nat) (f : Tg → Tg) : (s.onTg c k f).calendar = s.calendar := rfl
@[simp] theorem State.onTg_routes (s : State) (c k : Nat) (f : Tg → Tg) : (s.onTg c k f).routes = s.routes := rfl
@[simp] theorem State.onTg_asserted (s : State) (c k : Nat) (f : Tg → Tg) : (s.onTg c k f).asserted = s.asserted := rfl
@[simp] theorem State.onTg_pins (s : State) (c k : Nat) (f : Tg → Tg) : (s.onTg c k f).pins = s.pins := rfl
@[simp] theorem State.onTg_captured (s : State) (c k : Nat) (f : Tg → Tg) : (s.onTg c k f).captured = s.captured := rfl
@[simp] theorem State.onTg_clq (s : State) (c k : Nat) (f : Tg → Tg) : (s.onTg c k f).clq = s.clq := rfl
@[simp] theorem State.onTg_starts (s : State) (c k : Nat) (f : Tg → Tg) : (s.onTg c k f).starts = s.starts := rfl
@[simp] theorem State.onTg_frsHeld (s : State) (c k : Nat) (f : Tg → Tg) : (s.onTg c k f).frsHeld = s.frsHeld := rfl
@[simp] theorem State.onTg_scrubJobs (s : State) (c k : Nat) (f : Tg → Tg) : (s.onTg c k f).scrubJobs = s.scrubJobs := rfl
@[simp] theorem State.onTg_reads (s : State) (c k : Nat) (f : Tg → Tg) : (s.onTg c k f).reads = s.reads := rfl
@[simp] theorem State.onTg_images (s : State) (c k : Nat) (f : Tg → Tg) : (s.onTg c k f).images = s.images := rfl
@[simp] theorem State.onTg_nextOrder (s : State) (c k : Nat) (f : Tg → Tg) : (s.onTg c k f).nextOrder = s.nextOrder := rfl
@[simp] theorem State.onTg_lastServed (s : State) (c k : Nat) (f : Tg → Tg) : (s.onTg c k f).lastServed = s.lastServed := rfl
@[simp] theorem State.onTg_frames (s : State) (c k : Nat) (f : Tg → Tg) : (s.onTg c k f).frames = s.frames := rfl
@[simp] theorem State.onTg_tables (s : State) (c k : Nat) (f : Tg → Tg) : (s.onTg c k f).tables = s.tables := rfl
@[simp] theorem State.onTg_vifs (s : State) (c k : Nat) (f : Tg → Tg) : (s.onTg c k f).vifs = s.vifs := rfl
@[simp] theorem State.onTg_dropped (s : State) (c k : Nat) (f : Tg → Tg) : (s.onTg c k f).dropped = s.dropped := rfl
@[simp] theorem State.onTg_outbox (s : State) (c k : Nat) (f : Tg → Tg) : (s.onTg c k f).outbox = s.outbox := rfl
@[simp] theorem State.onTg_remotes (s : State) (c k : Nat) (f : Tg → Tg) : (s.onTg c k f).remotes = s.remotes := rfl
@[simp] theorem State.onTg_ballast (s : State) (c k : Nat) (f : Tg → Tg) : (s.onTg c k f).ballast = s.ballast := rfl
@[simp] theorem State.onTg_endings (s : State) (c k : Nat) (f : Tg → Tg) : (s.onTg c k f).endings = s.endings := rfl
@[simp] theorem State.onTg_orphans (s : State) (c k : Nat) (f : Tg → Tg) : (s.onTg c k f).orphans = s.orphans := rfl
@[simp] theorem State.onTg_incoming (s : State) (c k : Nat) (f : Tg → Tg) : (s.onTg c k f).incoming = s.incoming := rfl
@[simp] theorem State.onTg_asked (s : State) (c k : Nat) (f : Tg → Tg) : (s.onTg c k f).asked = s.asked := rfl
@[simp] theorem State.onTg_resets (s : State) (c k : Nat) (f : Tg → Tg) : (s.onTg c k f).resets = s.resets := rfl
@[simp] theorem State.onTg_stepJobs (s : State) (c k : Nat) (f : Tg → Tg) : (s.onTg c k f).stepJobs = s.stepJobs := rfl
@[simp] theorem State.onTg_retries (s : State) (c k : Nat) (f : Tg → Tg) : (s.onTg c k f).retries = s.retries := rfl
@[simp] theorem State.onTg_refTime (s : State) (c k : Nat) (f : Tg → Tg) : (s.onTg c k f).refTime = s.refTime := rfl
@[simp] theorem State.onTg_cycles (s : State) (c k : Nat) (f : Tg → Tg) : (s.onTg c k f).cycles = s.cycles := rfl
@[simp] theorem State.onTg_who (s : State) (c k : Nat) (f : Tg → Tg) : (s.onTg c k f).who = s.who := rfl
@[simp] theorem State.onTg_agenda (s : State) (c k : Nat) (f : Tg → Tg) : (s.onTg c k f).agenda = s.agenda := rfl
@[simp] theorem State.onTg_turns (s : State) (c k : Nat) (f : Tg → Tg) : (s.onTg c k f).turns = s.turns := rfl
@[simp] theorem State.onTg_aliases (s : State) (c k : Nat) (f : Tg → Tg) : (s.onTg c k f).aliases = s.aliases := rfl
@[simp] theorem State.onTg_heldPosts (s : State) (c k : Nat) (f : Tg → Tg) : (s.onTg c k f).heldPosts = s.heldPosts := rfl
@[simp] theorem State.onTg_heldRaces (s : State) (c k : Nat) (f : Tg → Tg) : (s.onTg c k f).heldRaces = s.heldRaces := rfl
@[simp] theorem State.onTg_posts (s : State) (c k : Nat) (f : Tg → Tg) : (s.onTg c k f).posts = s.posts := rfl
@[simp] theorem State.onTg_unsent (s : State) (c k : Nat) (f : Tg → Tg) : (s.onTg c k f).unsent = s.unsent := rfl
@[simp] theorem State.onTg_arb (s : State) (c k : Nat) (f : Tg → Tg) : (s.onTg c k f).arb = s.arb := rfl
@[simp] theorem State.onTg_nextArb (s : State) (c k : Nat) (f : Tg → Tg) : (s.onTg c k f).nextArb = s.nextArb := rfl
@[simp] theorem State.onTg_subj (s : State) (c k : Nat) (f : Tg → Tg) : (s.onTg c k f).subj = s.subj := rfl

/-! ## onSpur -/

@[simp] theorem State.onSpur_caps (s : State) (c : Nat) (f : Spur → Spur) : (s.onSpur c f).caps = s.caps := rfl
@[simp] theorem State.onSpur_actors (s : State) (c : Nat) (f : Spur → Spur) : (s.onSpur c f).actors = s.actors := rfl
@[simp] theorem State.onSpur_path (s : State) (c : Nat) (f : Spur → Spur) : (s.onSpur c f).path = s.path := rfl
@[simp] theorem State.onSpur_links (s : State) (c : Nat) (f : Spur → Spur) : (s.onSpur c f).links = s.links := rfl
@[simp] theorem State.onSpur_done (s : State) (c : Nat) (f : Spur → Spur) : (s.onSpur c f).done = s.done := rfl
@[simp] theorem State.onSpur_mem (s : State) (c : Nat) (f : Spur → Spur) : (s.onSpur c f).mem = s.mem := rfl
@[simp] theorem State.onSpur_owners (s : State) (c : Nat) (f : Spur → Spur) : (s.onSpur c f).owners = s.owners := rfl
@[simp] theorem State.onSpur_absent (s : State) (c : Nat) (f : Spur → Spur) : (s.onSpur c f).absent = s.absent := rfl
@[simp] theorem State.onSpur_damage (s : State) (c : Nat) (f : Spur → Spur) : (s.onSpur c f).damage = s.damage := rfl
@[simp] theorem State.onSpur_spaces (s : State) (c : Nat) (f : Spur → Spur) : (s.onSpur c f).spaces = s.spaces := rfl
@[simp] theorem State.onSpur_remaps (s : State) (c : Nat) (f : Spur → Spur) : (s.onSpur c f).remaps = s.remaps := rfl
@[simp] theorem State.onSpur_dirty (s : State) (c : Nat) (f : Spur → Spur) : (s.onSpur c f).dirty = s.dirty := rfl
@[simp] theorem State.onSpur_domid (s : State) (c : Nat) (f : Spur → Spur) : (s.onSpur c f).domid = s.domid := rfl
@[simp] theorem State.onSpur_grants (s : State) (c : Nat) (f : Spur → Spur) : (s.onSpur c f).grants = s.grants := rfl
@[simp] theorem State.onSpur_exports (s : State) (c : Nat) (f : Spur → Spur) : (s.onSpur c f).exports = s.exports := rfl
@[simp] theorem State.onSpur_peerMem (s : State) (c : Nat) (f : Spur → Spur) : (s.onSpur c f).peerMem = s.peerMem := rfl
@[simp] theorem State.onSpur_nextUid (s : State) (c : Nat) (f : Spur → Spur) : (s.onSpur c f).nextUid = s.nextUid := rfl
@[simp] theorem State.onSpur_writers (s : State) (c : Nat) (f : Spur → Spur) : (s.onSpur c f).writers = s.writers := rfl
@[simp] theorem State.onSpur_ring (s : State) (c : Nat) (f : Spur → Spur) : (s.onSpur c f).ring = s.ring := rfl
@[simp] theorem State.onSpur_sbars (s : State) (c : Nat) (f : Spur → Spur) : (s.onSpur c f).sbars = s.sbars := rfl
@[simp] theorem State.onSpur_clusters (s : State) (c : Nat) (f : Spur → Spur) : (s.onSpur c f).clusters = s.clusters := rfl
@[simp] theorem State.onSpur_calendar (s : State) (c : Nat) (f : Spur → Spur) : (s.onSpur c f).calendar = s.calendar := rfl
@[simp] theorem State.onSpur_routes (s : State) (c : Nat) (f : Spur → Spur) : (s.onSpur c f).routes = s.routes := rfl
@[simp] theorem State.onSpur_asserted (s : State) (c : Nat) (f : Spur → Spur) : (s.onSpur c f).asserted = s.asserted := rfl
@[simp] theorem State.onSpur_pins (s : State) (c : Nat) (f : Spur → Spur) : (s.onSpur c f).pins = s.pins := rfl
@[simp] theorem State.onSpur_captured (s : State) (c : Nat) (f : Spur → Spur) : (s.onSpur c f).captured = s.captured := rfl
@[simp] theorem State.onSpur_clq (s : State) (c : Nat) (f : Spur → Spur) : (s.onSpur c f).clq = s.clq := rfl
@[simp] theorem State.onSpur_starts (s : State) (c : Nat) (f : Spur → Spur) : (s.onSpur c f).starts = s.starts := rfl
@[simp] theorem State.onSpur_frsHeld (s : State) (c : Nat) (f : Spur → Spur) : (s.onSpur c f).frsHeld = s.frsHeld := rfl
@[simp] theorem State.onSpur_scrubJobs (s : State) (c : Nat) (f : Spur → Spur) : (s.onSpur c f).scrubJobs = s.scrubJobs := rfl
@[simp] theorem State.onSpur_reads (s : State) (c : Nat) (f : Spur → Spur) : (s.onSpur c f).reads = s.reads := rfl
@[simp] theorem State.onSpur_images (s : State) (c : Nat) (f : Spur → Spur) : (s.onSpur c f).images = s.images := rfl
@[simp] theorem State.onSpur_nextOrder (s : State) (c : Nat) (f : Spur → Spur) : (s.onSpur c f).nextOrder = s.nextOrder := rfl
@[simp] theorem State.onSpur_lastServed (s : State) (c : Nat) (f : Spur → Spur) : (s.onSpur c f).lastServed = s.lastServed := rfl
@[simp] theorem State.onSpur_frames (s : State) (c : Nat) (f : Spur → Spur) : (s.onSpur c f).frames = s.frames := rfl
@[simp] theorem State.onSpur_tables (s : State) (c : Nat) (f : Spur → Spur) : (s.onSpur c f).tables = s.tables := rfl
@[simp] theorem State.onSpur_vifs (s : State) (c : Nat) (f : Spur → Spur) : (s.onSpur c f).vifs = s.vifs := rfl
@[simp] theorem State.onSpur_dropped (s : State) (c : Nat) (f : Spur → Spur) : (s.onSpur c f).dropped = s.dropped := rfl
@[simp] theorem State.onSpur_outbox (s : State) (c : Nat) (f : Spur → Spur) : (s.onSpur c f).outbox = s.outbox := rfl
@[simp] theorem State.onSpur_remotes (s : State) (c : Nat) (f : Spur → Spur) : (s.onSpur c f).remotes = s.remotes := rfl
@[simp] theorem State.onSpur_ballast (s : State) (c : Nat) (f : Spur → Spur) : (s.onSpur c f).ballast = s.ballast := rfl
@[simp] theorem State.onSpur_endings (s : State) (c : Nat) (f : Spur → Spur) : (s.onSpur c f).endings = s.endings := rfl
@[simp] theorem State.onSpur_orphans (s : State) (c : Nat) (f : Spur → Spur) : (s.onSpur c f).orphans = s.orphans := rfl
@[simp] theorem State.onSpur_incoming (s : State) (c : Nat) (f : Spur → Spur) : (s.onSpur c f).incoming = s.incoming := rfl
@[simp] theorem State.onSpur_asked (s : State) (c : Nat) (f : Spur → Spur) : (s.onSpur c f).asked = s.asked := rfl
@[simp] theorem State.onSpur_resets (s : State) (c : Nat) (f : Spur → Spur) : (s.onSpur c f).resets = s.resets := rfl
@[simp] theorem State.onSpur_stepJobs (s : State) (c : Nat) (f : Spur → Spur) : (s.onSpur c f).stepJobs = s.stepJobs := rfl
@[simp] theorem State.onSpur_retries (s : State) (c : Nat) (f : Spur → Spur) : (s.onSpur c f).retries = s.retries := rfl
@[simp] theorem State.onSpur_refTime (s : State) (c : Nat) (f : Spur → Spur) : (s.onSpur c f).refTime = s.refTime := rfl
@[simp] theorem State.onSpur_cycles (s : State) (c : Nat) (f : Spur → Spur) : (s.onSpur c f).cycles = s.cycles := rfl
@[simp] theorem State.onSpur_who (s : State) (c : Nat) (f : Spur → Spur) : (s.onSpur c f).who = s.who := rfl
@[simp] theorem State.onSpur_agenda (s : State) (c : Nat) (f : Spur → Spur) : (s.onSpur c f).agenda = s.agenda := rfl
@[simp] theorem State.onSpur_turns (s : State) (c : Nat) (f : Spur → Spur) : (s.onSpur c f).turns = s.turns := rfl
@[simp] theorem State.onSpur_aliases (s : State) (c : Nat) (f : Spur → Spur) : (s.onSpur c f).aliases = s.aliases := rfl
@[simp] theorem State.onSpur_heldPosts (s : State) (c : Nat) (f : Spur → Spur) : (s.onSpur c f).heldPosts = s.heldPosts := rfl
@[simp] theorem State.onSpur_heldRaces (s : State) (c : Nat) (f : Spur → Spur) : (s.onSpur c f).heldRaces = s.heldRaces := rfl
@[simp] theorem State.onSpur_posts (s : State) (c : Nat) (f : Spur → Spur) : (s.onSpur c f).posts = s.posts := rfl
@[simp] theorem State.onSpur_unsent (s : State) (c : Nat) (f : Spur → Spur) : (s.onSpur c f).unsent = s.unsent := rfl
@[simp] theorem State.onSpur_arb (s : State) (c : Nat) (f : Spur → Spur) : (s.onSpur c f).arb = s.arb := rfl
@[simp] theorem State.onSpur_nextArb (s : State) (c : Nat) (f : Spur → Spur) : (s.onSpur c f).nextArb = s.nextArb := rfl
@[simp] theorem State.onSpur_subj (s : State) (c : Nat) (f : Spur → Spur) : (s.onSpur c f).subj = s.subj := rfl

/-! ## onCsr -/

@[simp] theorem State.onCsr_caps (s : State) (c : Nat) (f : Csrs → Csrs) : (s.onCsr c f).caps = s.caps := rfl
@[simp] theorem State.onCsr_actors (s : State) (c : Nat) (f : Csrs → Csrs) : (s.onCsr c f).actors = s.actors := rfl
@[simp] theorem State.onCsr_path (s : State) (c : Nat) (f : Csrs → Csrs) : (s.onCsr c f).path = s.path := rfl
@[simp] theorem State.onCsr_links (s : State) (c : Nat) (f : Csrs → Csrs) : (s.onCsr c f).links = s.links := rfl
@[simp] theorem State.onCsr_done (s : State) (c : Nat) (f : Csrs → Csrs) : (s.onCsr c f).done = s.done := rfl
@[simp] theorem State.onCsr_mem (s : State) (c : Nat) (f : Csrs → Csrs) : (s.onCsr c f).mem = s.mem := rfl
@[simp] theorem State.onCsr_owners (s : State) (c : Nat) (f : Csrs → Csrs) : (s.onCsr c f).owners = s.owners := rfl
@[simp] theorem State.onCsr_absent (s : State) (c : Nat) (f : Csrs → Csrs) : (s.onCsr c f).absent = s.absent := rfl
@[simp] theorem State.onCsr_damage (s : State) (c : Nat) (f : Csrs → Csrs) : (s.onCsr c f).damage = s.damage := rfl
@[simp] theorem State.onCsr_spaces (s : State) (c : Nat) (f : Csrs → Csrs) : (s.onCsr c f).spaces = s.spaces := rfl
@[simp] theorem State.onCsr_remaps (s : State) (c : Nat) (f : Csrs → Csrs) : (s.onCsr c f).remaps = s.remaps := rfl
@[simp] theorem State.onCsr_dirty (s : State) (c : Nat) (f : Csrs → Csrs) : (s.onCsr c f).dirty = s.dirty := rfl
@[simp] theorem State.onCsr_domid (s : State) (c : Nat) (f : Csrs → Csrs) : (s.onCsr c f).domid = s.domid := rfl
@[simp] theorem State.onCsr_grants (s : State) (c : Nat) (f : Csrs → Csrs) : (s.onCsr c f).grants = s.grants := rfl
@[simp] theorem State.onCsr_exports (s : State) (c : Nat) (f : Csrs → Csrs) : (s.onCsr c f).exports = s.exports := rfl
@[simp] theorem State.onCsr_peerMem (s : State) (c : Nat) (f : Csrs → Csrs) : (s.onCsr c f).peerMem = s.peerMem := rfl
@[simp] theorem State.onCsr_nextUid (s : State) (c : Nat) (f : Csrs → Csrs) : (s.onCsr c f).nextUid = s.nextUid := rfl
@[simp] theorem State.onCsr_writers (s : State) (c : Nat) (f : Csrs → Csrs) : (s.onCsr c f).writers = s.writers := rfl
@[simp] theorem State.onCsr_ring (s : State) (c : Nat) (f : Csrs → Csrs) : (s.onCsr c f).ring = s.ring := rfl
@[simp] theorem State.onCsr_sbars (s : State) (c : Nat) (f : Csrs → Csrs) : (s.onCsr c f).sbars = s.sbars := rfl
@[simp] theorem State.onCsr_clusters (s : State) (c : Nat) (f : Csrs → Csrs) : (s.onCsr c f).clusters = s.clusters := rfl
@[simp] theorem State.onCsr_calendar (s : State) (c : Nat) (f : Csrs → Csrs) : (s.onCsr c f).calendar = s.calendar := rfl
@[simp] theorem State.onCsr_routes (s : State) (c : Nat) (f : Csrs → Csrs) : (s.onCsr c f).routes = s.routes := rfl
@[simp] theorem State.onCsr_asserted (s : State) (c : Nat) (f : Csrs → Csrs) : (s.onCsr c f).asserted = s.asserted := rfl
@[simp] theorem State.onCsr_pins (s : State) (c : Nat) (f : Csrs → Csrs) : (s.onCsr c f).pins = s.pins := rfl
@[simp] theorem State.onCsr_captured (s : State) (c : Nat) (f : Csrs → Csrs) : (s.onCsr c f).captured = s.captured := rfl
@[simp] theorem State.onCsr_clq (s : State) (c : Nat) (f : Csrs → Csrs) : (s.onCsr c f).clq = s.clq := rfl
@[simp] theorem State.onCsr_starts (s : State) (c : Nat) (f : Csrs → Csrs) : (s.onCsr c f).starts = s.starts := rfl
@[simp] theorem State.onCsr_frsHeld (s : State) (c : Nat) (f : Csrs → Csrs) : (s.onCsr c f).frsHeld = s.frsHeld := rfl
@[simp] theorem State.onCsr_scrubJobs (s : State) (c : Nat) (f : Csrs → Csrs) : (s.onCsr c f).scrubJobs = s.scrubJobs := rfl
@[simp] theorem State.onCsr_reads (s : State) (c : Nat) (f : Csrs → Csrs) : (s.onCsr c f).reads = s.reads := rfl
@[simp] theorem State.onCsr_images (s : State) (c : Nat) (f : Csrs → Csrs) : (s.onCsr c f).images = s.images := rfl
@[simp] theorem State.onCsr_nextOrder (s : State) (c : Nat) (f : Csrs → Csrs) : (s.onCsr c f).nextOrder = s.nextOrder := rfl
@[simp] theorem State.onCsr_lastServed (s : State) (c : Nat) (f : Csrs → Csrs) : (s.onCsr c f).lastServed = s.lastServed := rfl
@[simp] theorem State.onCsr_frames (s : State) (c : Nat) (f : Csrs → Csrs) : (s.onCsr c f).frames = s.frames := rfl
@[simp] theorem State.onCsr_tables (s : State) (c : Nat) (f : Csrs → Csrs) : (s.onCsr c f).tables = s.tables := rfl
@[simp] theorem State.onCsr_vifs (s : State) (c : Nat) (f : Csrs → Csrs) : (s.onCsr c f).vifs = s.vifs := rfl
@[simp] theorem State.onCsr_dropped (s : State) (c : Nat) (f : Csrs → Csrs) : (s.onCsr c f).dropped = s.dropped := rfl
@[simp] theorem State.onCsr_outbox (s : State) (c : Nat) (f : Csrs → Csrs) : (s.onCsr c f).outbox = s.outbox := rfl
@[simp] theorem State.onCsr_remotes (s : State) (c : Nat) (f : Csrs → Csrs) : (s.onCsr c f).remotes = s.remotes := rfl
@[simp] theorem State.onCsr_ballast (s : State) (c : Nat) (f : Csrs → Csrs) : (s.onCsr c f).ballast = s.ballast := rfl
@[simp] theorem State.onCsr_endings (s : State) (c : Nat) (f : Csrs → Csrs) : (s.onCsr c f).endings = s.endings := rfl
@[simp] theorem State.onCsr_orphans (s : State) (c : Nat) (f : Csrs → Csrs) : (s.onCsr c f).orphans = s.orphans := rfl
@[simp] theorem State.onCsr_incoming (s : State) (c : Nat) (f : Csrs → Csrs) : (s.onCsr c f).incoming = s.incoming := rfl
@[simp] theorem State.onCsr_asked (s : State) (c : Nat) (f : Csrs → Csrs) : (s.onCsr c f).asked = s.asked := rfl
@[simp] theorem State.onCsr_resets (s : State) (c : Nat) (f : Csrs → Csrs) : (s.onCsr c f).resets = s.resets := rfl
@[simp] theorem State.onCsr_stepJobs (s : State) (c : Nat) (f : Csrs → Csrs) : (s.onCsr c f).stepJobs = s.stepJobs := rfl
@[simp] theorem State.onCsr_retries (s : State) (c : Nat) (f : Csrs → Csrs) : (s.onCsr c f).retries = s.retries := rfl
@[simp] theorem State.onCsr_refTime (s : State) (c : Nat) (f : Csrs → Csrs) : (s.onCsr c f).refTime = s.refTime := rfl
@[simp] theorem State.onCsr_cycles (s : State) (c : Nat) (f : Csrs → Csrs) : (s.onCsr c f).cycles = s.cycles := rfl
@[simp] theorem State.onCsr_who (s : State) (c : Nat) (f : Csrs → Csrs) : (s.onCsr c f).who = s.who := rfl
@[simp] theorem State.onCsr_agenda (s : State) (c : Nat) (f : Csrs → Csrs) : (s.onCsr c f).agenda = s.agenda := rfl
@[simp] theorem State.onCsr_turns (s : State) (c : Nat) (f : Csrs → Csrs) : (s.onCsr c f).turns = s.turns := rfl
@[simp] theorem State.onCsr_aliases (s : State) (c : Nat) (f : Csrs → Csrs) : (s.onCsr c f).aliases = s.aliases := rfl
@[simp] theorem State.onCsr_heldPosts (s : State) (c : Nat) (f : Csrs → Csrs) : (s.onCsr c f).heldPosts = s.heldPosts := rfl
@[simp] theorem State.onCsr_heldRaces (s : State) (c : Nat) (f : Csrs → Csrs) : (s.onCsr c f).heldRaces = s.heldRaces := rfl
@[simp] theorem State.onCsr_posts (s : State) (c : Nat) (f : Csrs → Csrs) : (s.onCsr c f).posts = s.posts := rfl
@[simp] theorem State.onCsr_unsent (s : State) (c : Nat) (f : Csrs → Csrs) : (s.onCsr c f).unsent = s.unsent := rfl
@[simp] theorem State.onCsr_arb (s : State) (c : Nat) (f : Csrs → Csrs) : (s.onCsr c f).arb = s.arb := rfl
@[simp] theorem State.onCsr_nextArb (s : State) (c : Nat) (f : Csrs → Csrs) : (s.onCsr c f).nextArb = s.nextArb := rfl
@[simp] theorem State.onCsr_subj (s : State) (c : Nat) (f : Csrs → Csrs) : (s.onCsr c f).subj = s.subj := rfl

/-! ## setQueue -/

@[simp] theorem State.setQueue_caps (s : State) (c q : Nat) (x : Queue) : (s.setQueue c q x).caps = s.caps := rfl
@[simp] theorem State.setQueue_actors (s : State) (c q : Nat) (x : Queue) : (s.setQueue c q x).actors = s.actors := rfl
@[simp] theorem State.setQueue_path (s : State) (c q : Nat) (x : Queue) : (s.setQueue c q x).path = s.path := rfl
@[simp] theorem State.setQueue_links (s : State) (c q : Nat) (x : Queue) : (s.setQueue c q x).links = s.links := rfl
@[simp] theorem State.setQueue_done (s : State) (c q : Nat) (x : Queue) : (s.setQueue c q x).done = s.done := rfl
@[simp] theorem State.setQueue_mem (s : State) (c q : Nat) (x : Queue) : (s.setQueue c q x).mem = s.mem := rfl
@[simp] theorem State.setQueue_owners (s : State) (c q : Nat) (x : Queue) : (s.setQueue c q x).owners = s.owners := rfl
@[simp] theorem State.setQueue_absent (s : State) (c q : Nat) (x : Queue) : (s.setQueue c q x).absent = s.absent := rfl
@[simp] theorem State.setQueue_damage (s : State) (c q : Nat) (x : Queue) : (s.setQueue c q x).damage = s.damage := rfl
@[simp] theorem State.setQueue_spaces (s : State) (c q : Nat) (x : Queue) : (s.setQueue c q x).spaces = s.spaces := rfl
@[simp] theorem State.setQueue_remaps (s : State) (c q : Nat) (x : Queue) : (s.setQueue c q x).remaps = s.remaps := rfl
@[simp] theorem State.setQueue_dirty (s : State) (c q : Nat) (x : Queue) : (s.setQueue c q x).dirty = s.dirty := rfl
@[simp] theorem State.setQueue_domid (s : State) (c q : Nat) (x : Queue) : (s.setQueue c q x).domid = s.domid := rfl
@[simp] theorem State.setQueue_grants (s : State) (c q : Nat) (x : Queue) : (s.setQueue c q x).grants = s.grants := rfl
@[simp] theorem State.setQueue_exports (s : State) (c q : Nat) (x : Queue) : (s.setQueue c q x).exports = s.exports := rfl
@[simp] theorem State.setQueue_peerMem (s : State) (c q : Nat) (x : Queue) : (s.setQueue c q x).peerMem = s.peerMem := rfl
@[simp] theorem State.setQueue_nextUid (s : State) (c q : Nat) (x : Queue) : (s.setQueue c q x).nextUid = s.nextUid := rfl
@[simp] theorem State.setQueue_writers (s : State) (c q : Nat) (x : Queue) : (s.setQueue c q x).writers = s.writers := rfl
@[simp] theorem State.setQueue_ring (s : State) (c q : Nat) (x : Queue) : (s.setQueue c q x).ring = s.ring := rfl
@[simp] theorem State.setQueue_sbars (s : State) (c q : Nat) (x : Queue) : (s.setQueue c q x).sbars = s.sbars := rfl
@[simp] theorem State.setQueue_clusters (s : State) (c q : Nat) (x : Queue) : (s.setQueue c q x).clusters = s.clusters := rfl
@[simp] theorem State.setQueue_calendar (s : State) (c q : Nat) (x : Queue) : (s.setQueue c q x).calendar = s.calendar := rfl
@[simp] theorem State.setQueue_routes (s : State) (c q : Nat) (x : Queue) : (s.setQueue c q x).routes = s.routes := rfl
@[simp] theorem State.setQueue_asserted (s : State) (c q : Nat) (x : Queue) : (s.setQueue c q x).asserted = s.asserted := rfl
@[simp] theorem State.setQueue_pins (s : State) (c q : Nat) (x : Queue) : (s.setQueue c q x).pins = s.pins := rfl
@[simp] theorem State.setQueue_captured (s : State) (c q : Nat) (x : Queue) : (s.setQueue c q x).captured = s.captured := rfl
@[simp] theorem State.setQueue_clq (s : State) (c q : Nat) (x : Queue) : (s.setQueue c q x).clq = s.clq := rfl
@[simp] theorem State.setQueue_starts (s : State) (c q : Nat) (x : Queue) : (s.setQueue c q x).starts = s.starts := rfl
@[simp] theorem State.setQueue_frsHeld (s : State) (c q : Nat) (x : Queue) : (s.setQueue c q x).frsHeld = s.frsHeld := rfl
@[simp] theorem State.setQueue_scrubJobs (s : State) (c q : Nat) (x : Queue) : (s.setQueue c q x).scrubJobs = s.scrubJobs := rfl
@[simp] theorem State.setQueue_reads (s : State) (c q : Nat) (x : Queue) : (s.setQueue c q x).reads = s.reads := rfl
@[simp] theorem State.setQueue_images (s : State) (c q : Nat) (x : Queue) : (s.setQueue c q x).images = s.images := rfl
@[simp] theorem State.setQueue_nextOrder (s : State) (c q : Nat) (x : Queue) : (s.setQueue c q x).nextOrder = s.nextOrder := rfl
@[simp] theorem State.setQueue_lastServed (s : State) (c q : Nat) (x : Queue) : (s.setQueue c q x).lastServed = s.lastServed := rfl
@[simp] theorem State.setQueue_frames (s : State) (c q : Nat) (x : Queue) : (s.setQueue c q x).frames = s.frames := rfl
@[simp] theorem State.setQueue_tables (s : State) (c q : Nat) (x : Queue) : (s.setQueue c q x).tables = s.tables := rfl
@[simp] theorem State.setQueue_vifs (s : State) (c q : Nat) (x : Queue) : (s.setQueue c q x).vifs = s.vifs := rfl
@[simp] theorem State.setQueue_dropped (s : State) (c q : Nat) (x : Queue) : (s.setQueue c q x).dropped = s.dropped := rfl
@[simp] theorem State.setQueue_outbox (s : State) (c q : Nat) (x : Queue) : (s.setQueue c q x).outbox = s.outbox := rfl
@[simp] theorem State.setQueue_remotes (s : State) (c q : Nat) (x : Queue) : (s.setQueue c q x).remotes = s.remotes := rfl
@[simp] theorem State.setQueue_ballast (s : State) (c q : Nat) (x : Queue) : (s.setQueue c q x).ballast = s.ballast := rfl
@[simp] theorem State.setQueue_endings (s : State) (c q : Nat) (x : Queue) : (s.setQueue c q x).endings = s.endings := rfl
@[simp] theorem State.setQueue_orphans (s : State) (c q : Nat) (x : Queue) : (s.setQueue c q x).orphans = s.orphans := rfl
@[simp] theorem State.setQueue_incoming (s : State) (c q : Nat) (x : Queue) : (s.setQueue c q x).incoming = s.incoming := rfl
@[simp] theorem State.setQueue_asked (s : State) (c q : Nat) (x : Queue) : (s.setQueue c q x).asked = s.asked := rfl
@[simp] theorem State.setQueue_resets (s : State) (c q : Nat) (x : Queue) : (s.setQueue c q x).resets = s.resets := rfl
@[simp] theorem State.setQueue_stepJobs (s : State) (c q : Nat) (x : Queue) : (s.setQueue c q x).stepJobs = s.stepJobs := rfl
@[simp] theorem State.setQueue_retries (s : State) (c q : Nat) (x : Queue) : (s.setQueue c q x).retries = s.retries := rfl
@[simp] theorem State.setQueue_refTime (s : State) (c q : Nat) (x : Queue) : (s.setQueue c q x).refTime = s.refTime := rfl
@[simp] theorem State.setQueue_cycles (s : State) (c q : Nat) (x : Queue) : (s.setQueue c q x).cycles = s.cycles := rfl
@[simp] theorem State.setQueue_who (s : State) (c q : Nat) (x : Queue) : (s.setQueue c q x).who = s.who := rfl
@[simp] theorem State.setQueue_agenda (s : State) (c q : Nat) (x : Queue) : (s.setQueue c q x).agenda = s.agenda := rfl
@[simp] theorem State.setQueue_turns (s : State) (c q : Nat) (x : Queue) : (s.setQueue c q x).turns = s.turns := rfl
@[simp] theorem State.setQueue_aliases (s : State) (c q : Nat) (x : Queue) : (s.setQueue c q x).aliases = s.aliases := rfl
@[simp] theorem State.setQueue_heldPosts (s : State) (c q : Nat) (x : Queue) : (s.setQueue c q x).heldPosts = s.heldPosts := rfl
@[simp] theorem State.setQueue_heldRaces (s : State) (c q : Nat) (x : Queue) : (s.setQueue c q x).heldRaces = s.heldRaces := rfl
@[simp] theorem State.setQueue_posts (s : State) (c q : Nat) (x : Queue) : (s.setQueue c q x).posts = s.posts := rfl
@[simp] theorem State.setQueue_unsent (s : State) (c q : Nat) (x : Queue) : (s.setQueue c q x).unsent = s.unsent := rfl
@[simp] theorem State.setQueue_arb (s : State) (c q : Nat) (x : Queue) : (s.setQueue c q x).arb = s.arb := rfl
@[simp] theorem State.setQueue_nextArb (s : State) (c q : Nat) (x : Queue) : (s.setQueue c q x).nextArb = s.nextArb := rfl
@[simp] theorem State.setQueue_subj (s : State) (c q : Nat) (x : Queue) : (s.setQueue c q x).subj = s.subj := rfl

/-! ## onQueue -/

@[simp] theorem State.onQueue_caps (s : State) (c q : Nat) (f : Queue → Queue) : (s.onQueue c q f).caps = s.caps := rfl
@[simp] theorem State.onQueue_actors (s : State) (c q : Nat) (f : Queue → Queue) : (s.onQueue c q f).actors = s.actors := rfl
@[simp] theorem State.onQueue_path (s : State) (c q : Nat) (f : Queue → Queue) : (s.onQueue c q f).path = s.path := rfl
@[simp] theorem State.onQueue_links (s : State) (c q : Nat) (f : Queue → Queue) : (s.onQueue c q f).links = s.links := rfl
@[simp] theorem State.onQueue_done (s : State) (c q : Nat) (f : Queue → Queue) : (s.onQueue c q f).done = s.done := rfl
@[simp] theorem State.onQueue_mem (s : State) (c q : Nat) (f : Queue → Queue) : (s.onQueue c q f).mem = s.mem := rfl
@[simp] theorem State.onQueue_owners (s : State) (c q : Nat) (f : Queue → Queue) : (s.onQueue c q f).owners = s.owners := rfl
@[simp] theorem State.onQueue_absent (s : State) (c q : Nat) (f : Queue → Queue) : (s.onQueue c q f).absent = s.absent := rfl
@[simp] theorem State.onQueue_damage (s : State) (c q : Nat) (f : Queue → Queue) : (s.onQueue c q f).damage = s.damage := rfl
@[simp] theorem State.onQueue_spaces (s : State) (c q : Nat) (f : Queue → Queue) : (s.onQueue c q f).spaces = s.spaces := rfl
@[simp] theorem State.onQueue_remaps (s : State) (c q : Nat) (f : Queue → Queue) : (s.onQueue c q f).remaps = s.remaps := rfl
@[simp] theorem State.onQueue_dirty (s : State) (c q : Nat) (f : Queue → Queue) : (s.onQueue c q f).dirty = s.dirty := rfl
@[simp] theorem State.onQueue_domid (s : State) (c q : Nat) (f : Queue → Queue) : (s.onQueue c q f).domid = s.domid := rfl
@[simp] theorem State.onQueue_grants (s : State) (c q : Nat) (f : Queue → Queue) : (s.onQueue c q f).grants = s.grants := rfl
@[simp] theorem State.onQueue_exports (s : State) (c q : Nat) (f : Queue → Queue) : (s.onQueue c q f).exports = s.exports := rfl
@[simp] theorem State.onQueue_peerMem (s : State) (c q : Nat) (f : Queue → Queue) : (s.onQueue c q f).peerMem = s.peerMem := rfl
@[simp] theorem State.onQueue_nextUid (s : State) (c q : Nat) (f : Queue → Queue) : (s.onQueue c q f).nextUid = s.nextUid := rfl
@[simp] theorem State.onQueue_writers (s : State) (c q : Nat) (f : Queue → Queue) : (s.onQueue c q f).writers = s.writers := rfl
@[simp] theorem State.onQueue_ring (s : State) (c q : Nat) (f : Queue → Queue) : (s.onQueue c q f).ring = s.ring := rfl
@[simp] theorem State.onQueue_sbars (s : State) (c q : Nat) (f : Queue → Queue) : (s.onQueue c q f).sbars = s.sbars := rfl
@[simp] theorem State.onQueue_clusters (s : State) (c q : Nat) (f : Queue → Queue) : (s.onQueue c q f).clusters = s.clusters := rfl
@[simp] theorem State.onQueue_calendar (s : State) (c q : Nat) (f : Queue → Queue) : (s.onQueue c q f).calendar = s.calendar := rfl
@[simp] theorem State.onQueue_routes (s : State) (c q : Nat) (f : Queue → Queue) : (s.onQueue c q f).routes = s.routes := rfl
@[simp] theorem State.onQueue_asserted (s : State) (c q : Nat) (f : Queue → Queue) : (s.onQueue c q f).asserted = s.asserted := rfl
@[simp] theorem State.onQueue_pins (s : State) (c q : Nat) (f : Queue → Queue) : (s.onQueue c q f).pins = s.pins := rfl
@[simp] theorem State.onQueue_captured (s : State) (c q : Nat) (f : Queue → Queue) : (s.onQueue c q f).captured = s.captured := rfl
@[simp] theorem State.onQueue_clq (s : State) (c q : Nat) (f : Queue → Queue) : (s.onQueue c q f).clq = s.clq := rfl
@[simp] theorem State.onQueue_starts (s : State) (c q : Nat) (f : Queue → Queue) : (s.onQueue c q f).starts = s.starts := rfl
@[simp] theorem State.onQueue_frsHeld (s : State) (c q : Nat) (f : Queue → Queue) : (s.onQueue c q f).frsHeld = s.frsHeld := rfl
@[simp] theorem State.onQueue_scrubJobs (s : State) (c q : Nat) (f : Queue → Queue) : (s.onQueue c q f).scrubJobs = s.scrubJobs := rfl
@[simp] theorem State.onQueue_reads (s : State) (c q : Nat) (f : Queue → Queue) : (s.onQueue c q f).reads = s.reads := rfl
@[simp] theorem State.onQueue_images (s : State) (c q : Nat) (f : Queue → Queue) : (s.onQueue c q f).images = s.images := rfl
@[simp] theorem State.onQueue_nextOrder (s : State) (c q : Nat) (f : Queue → Queue) : (s.onQueue c q f).nextOrder = s.nextOrder := rfl
@[simp] theorem State.onQueue_lastServed (s : State) (c q : Nat) (f : Queue → Queue) : (s.onQueue c q f).lastServed = s.lastServed := rfl
@[simp] theorem State.onQueue_frames (s : State) (c q : Nat) (f : Queue → Queue) : (s.onQueue c q f).frames = s.frames := rfl
@[simp] theorem State.onQueue_tables (s : State) (c q : Nat) (f : Queue → Queue) : (s.onQueue c q f).tables = s.tables := rfl
@[simp] theorem State.onQueue_vifs (s : State) (c q : Nat) (f : Queue → Queue) : (s.onQueue c q f).vifs = s.vifs := rfl
@[simp] theorem State.onQueue_dropped (s : State) (c q : Nat) (f : Queue → Queue) : (s.onQueue c q f).dropped = s.dropped := rfl
@[simp] theorem State.onQueue_outbox (s : State) (c q : Nat) (f : Queue → Queue) : (s.onQueue c q f).outbox = s.outbox := rfl
@[simp] theorem State.onQueue_remotes (s : State) (c q : Nat) (f : Queue → Queue) : (s.onQueue c q f).remotes = s.remotes := rfl
@[simp] theorem State.onQueue_ballast (s : State) (c q : Nat) (f : Queue → Queue) : (s.onQueue c q f).ballast = s.ballast := rfl
@[simp] theorem State.onQueue_endings (s : State) (c q : Nat) (f : Queue → Queue) : (s.onQueue c q f).endings = s.endings := rfl
@[simp] theorem State.onQueue_orphans (s : State) (c q : Nat) (f : Queue → Queue) : (s.onQueue c q f).orphans = s.orphans := rfl
@[simp] theorem State.onQueue_incoming (s : State) (c q : Nat) (f : Queue → Queue) : (s.onQueue c q f).incoming = s.incoming := rfl
@[simp] theorem State.onQueue_asked (s : State) (c q : Nat) (f : Queue → Queue) : (s.onQueue c q f).asked = s.asked := rfl
@[simp] theorem State.onQueue_resets (s : State) (c q : Nat) (f : Queue → Queue) : (s.onQueue c q f).resets = s.resets := rfl
@[simp] theorem State.onQueue_stepJobs (s : State) (c q : Nat) (f : Queue → Queue) : (s.onQueue c q f).stepJobs = s.stepJobs := rfl
@[simp] theorem State.onQueue_retries (s : State) (c q : Nat) (f : Queue → Queue) : (s.onQueue c q f).retries = s.retries := rfl
@[simp] theorem State.onQueue_refTime (s : State) (c q : Nat) (f : Queue → Queue) : (s.onQueue c q f).refTime = s.refTime := rfl
@[simp] theorem State.onQueue_cycles (s : State) (c q : Nat) (f : Queue → Queue) : (s.onQueue c q f).cycles = s.cycles := rfl
@[simp] theorem State.onQueue_who (s : State) (c q : Nat) (f : Queue → Queue) : (s.onQueue c q f).who = s.who := rfl
@[simp] theorem State.onQueue_agenda (s : State) (c q : Nat) (f : Queue → Queue) : (s.onQueue c q f).agenda = s.agenda := rfl
@[simp] theorem State.onQueue_turns (s : State) (c q : Nat) (f : Queue → Queue) : (s.onQueue c q f).turns = s.turns := rfl
@[simp] theorem State.onQueue_aliases (s : State) (c q : Nat) (f : Queue → Queue) : (s.onQueue c q f).aliases = s.aliases := rfl
@[simp] theorem State.onQueue_heldPosts (s : State) (c q : Nat) (f : Queue → Queue) : (s.onQueue c q f).heldPosts = s.heldPosts := rfl
@[simp] theorem State.onQueue_heldRaces (s : State) (c q : Nat) (f : Queue → Queue) : (s.onQueue c q f).heldRaces = s.heldRaces := rfl
@[simp] theorem State.onQueue_posts (s : State) (c q : Nat) (f : Queue → Queue) : (s.onQueue c q f).posts = s.posts := rfl
@[simp] theorem State.onQueue_unsent (s : State) (c q : Nat) (f : Queue → Queue) : (s.onQueue c q f).unsent = s.unsent := rfl
@[simp] theorem State.onQueue_arb (s : State) (c q : Nat) (f : Queue → Queue) : (s.onQueue c q f).arb = s.arb := rfl
@[simp] theorem State.onQueue_nextArb (s : State) (c q : Nat) (f : Queue → Queue) : (s.onQueue c q f).nextArb = s.nextArb := rfl
@[simp] theorem State.onQueue_subj (s : State) (c q : Nat) (f : Queue → Queue) : (s.onQueue c q f).subj = s.subj := rfl

/-! ## setCtx -/

@[simp] theorem State.setCtx_caps (s : State) (c i : Nat) (x : Ctx) : (s.setCtx c i x).caps = s.caps := rfl
@[simp] theorem State.setCtx_actors (s : State) (c i : Nat) (x : Ctx) : (s.setCtx c i x).actors = s.actors := rfl
@[simp] theorem State.setCtx_path (s : State) (c i : Nat) (x : Ctx) : (s.setCtx c i x).path = s.path := rfl
@[simp] theorem State.setCtx_links (s : State) (c i : Nat) (x : Ctx) : (s.setCtx c i x).links = s.links := rfl
@[simp] theorem State.setCtx_done (s : State) (c i : Nat) (x : Ctx) : (s.setCtx c i x).done = s.done := rfl
@[simp] theorem State.setCtx_mem (s : State) (c i : Nat) (x : Ctx) : (s.setCtx c i x).mem = s.mem := rfl
@[simp] theorem State.setCtx_owners (s : State) (c i : Nat) (x : Ctx) : (s.setCtx c i x).owners = s.owners := rfl
@[simp] theorem State.setCtx_absent (s : State) (c i : Nat) (x : Ctx) : (s.setCtx c i x).absent = s.absent := rfl
@[simp] theorem State.setCtx_damage (s : State) (c i : Nat) (x : Ctx) : (s.setCtx c i x).damage = s.damage := rfl
@[simp] theorem State.setCtx_spaces (s : State) (c i : Nat) (x : Ctx) : (s.setCtx c i x).spaces = s.spaces := rfl
@[simp] theorem State.setCtx_remaps (s : State) (c i : Nat) (x : Ctx) : (s.setCtx c i x).remaps = s.remaps := rfl
@[simp] theorem State.setCtx_dirty (s : State) (c i : Nat) (x : Ctx) : (s.setCtx c i x).dirty = s.dirty := rfl
@[simp] theorem State.setCtx_domid (s : State) (c i : Nat) (x : Ctx) : (s.setCtx c i x).domid = s.domid := rfl
@[simp] theorem State.setCtx_grants (s : State) (c i : Nat) (x : Ctx) : (s.setCtx c i x).grants = s.grants := rfl
@[simp] theorem State.setCtx_exports (s : State) (c i : Nat) (x : Ctx) : (s.setCtx c i x).exports = s.exports := rfl
@[simp] theorem State.setCtx_peerMem (s : State) (c i : Nat) (x : Ctx) : (s.setCtx c i x).peerMem = s.peerMem := rfl
@[simp] theorem State.setCtx_nextUid (s : State) (c i : Nat) (x : Ctx) : (s.setCtx c i x).nextUid = s.nextUid := rfl
@[simp] theorem State.setCtx_writers (s : State) (c i : Nat) (x : Ctx) : (s.setCtx c i x).writers = s.writers := rfl
@[simp] theorem State.setCtx_ring (s : State) (c i : Nat) (x : Ctx) : (s.setCtx c i x).ring = s.ring := rfl
@[simp] theorem State.setCtx_sbars (s : State) (c i : Nat) (x : Ctx) : (s.setCtx c i x).sbars = s.sbars := rfl
@[simp] theorem State.setCtx_clusters (s : State) (c i : Nat) (x : Ctx) : (s.setCtx c i x).clusters = s.clusters := rfl
@[simp] theorem State.setCtx_calendar (s : State) (c i : Nat) (x : Ctx) : (s.setCtx c i x).calendar = s.calendar := rfl
@[simp] theorem State.setCtx_routes (s : State) (c i : Nat) (x : Ctx) : (s.setCtx c i x).routes = s.routes := rfl
@[simp] theorem State.setCtx_asserted (s : State) (c i : Nat) (x : Ctx) : (s.setCtx c i x).asserted = s.asserted := rfl
@[simp] theorem State.setCtx_pins (s : State) (c i : Nat) (x : Ctx) : (s.setCtx c i x).pins = s.pins := rfl
@[simp] theorem State.setCtx_captured (s : State) (c i : Nat) (x : Ctx) : (s.setCtx c i x).captured = s.captured := rfl
@[simp] theorem State.setCtx_clq (s : State) (c i : Nat) (x : Ctx) : (s.setCtx c i x).clq = s.clq := rfl
@[simp] theorem State.setCtx_starts (s : State) (c i : Nat) (x : Ctx) : (s.setCtx c i x).starts = s.starts := rfl
@[simp] theorem State.setCtx_frsHeld (s : State) (c i : Nat) (x : Ctx) : (s.setCtx c i x).frsHeld = s.frsHeld := rfl
@[simp] theorem State.setCtx_scrubJobs (s : State) (c i : Nat) (x : Ctx) : (s.setCtx c i x).scrubJobs = s.scrubJobs := rfl
@[simp] theorem State.setCtx_reads (s : State) (c i : Nat) (x : Ctx) : (s.setCtx c i x).reads = s.reads := rfl
@[simp] theorem State.setCtx_images (s : State) (c i : Nat) (x : Ctx) : (s.setCtx c i x).images = s.images := rfl
@[simp] theorem State.setCtx_nextOrder (s : State) (c i : Nat) (x : Ctx) : (s.setCtx c i x).nextOrder = s.nextOrder := rfl
@[simp] theorem State.setCtx_lastServed (s : State) (c i : Nat) (x : Ctx) : (s.setCtx c i x).lastServed = s.lastServed := rfl
@[simp] theorem State.setCtx_frames (s : State) (c i : Nat) (x : Ctx) : (s.setCtx c i x).frames = s.frames := rfl
@[simp] theorem State.setCtx_tables (s : State) (c i : Nat) (x : Ctx) : (s.setCtx c i x).tables = s.tables := rfl
@[simp] theorem State.setCtx_vifs (s : State) (c i : Nat) (x : Ctx) : (s.setCtx c i x).vifs = s.vifs := rfl
@[simp] theorem State.setCtx_dropped (s : State) (c i : Nat) (x : Ctx) : (s.setCtx c i x).dropped = s.dropped := rfl
@[simp] theorem State.setCtx_outbox (s : State) (c i : Nat) (x : Ctx) : (s.setCtx c i x).outbox = s.outbox := rfl
@[simp] theorem State.setCtx_remotes (s : State) (c i : Nat) (x : Ctx) : (s.setCtx c i x).remotes = s.remotes := rfl
@[simp] theorem State.setCtx_ballast (s : State) (c i : Nat) (x : Ctx) : (s.setCtx c i x).ballast = s.ballast := rfl
@[simp] theorem State.setCtx_endings (s : State) (c i : Nat) (x : Ctx) : (s.setCtx c i x).endings = s.endings := rfl
@[simp] theorem State.setCtx_orphans (s : State) (c i : Nat) (x : Ctx) : (s.setCtx c i x).orphans = s.orphans := rfl
@[simp] theorem State.setCtx_incoming (s : State) (c i : Nat) (x : Ctx) : (s.setCtx c i x).incoming = s.incoming := rfl
@[simp] theorem State.setCtx_asked (s : State) (c i : Nat) (x : Ctx) : (s.setCtx c i x).asked = s.asked := rfl
@[simp] theorem State.setCtx_resets (s : State) (c i : Nat) (x : Ctx) : (s.setCtx c i x).resets = s.resets := rfl
@[simp] theorem State.setCtx_stepJobs (s : State) (c i : Nat) (x : Ctx) : (s.setCtx c i x).stepJobs = s.stepJobs := rfl
@[simp] theorem State.setCtx_retries (s : State) (c i : Nat) (x : Ctx) : (s.setCtx c i x).retries = s.retries := rfl
@[simp] theorem State.setCtx_refTime (s : State) (c i : Nat) (x : Ctx) : (s.setCtx c i x).refTime = s.refTime := rfl
@[simp] theorem State.setCtx_cycles (s : State) (c i : Nat) (x : Ctx) : (s.setCtx c i x).cycles = s.cycles := rfl
@[simp] theorem State.setCtx_who (s : State) (c i : Nat) (x : Ctx) : (s.setCtx c i x).who = s.who := rfl
@[simp] theorem State.setCtx_agenda (s : State) (c i : Nat) (x : Ctx) : (s.setCtx c i x).agenda = s.agenda := rfl
@[simp] theorem State.setCtx_turns (s : State) (c i : Nat) (x : Ctx) : (s.setCtx c i x).turns = s.turns := rfl
@[simp] theorem State.setCtx_aliases (s : State) (c i : Nat) (x : Ctx) : (s.setCtx c i x).aliases = s.aliases := rfl
@[simp] theorem State.setCtx_heldPosts (s : State) (c i : Nat) (x : Ctx) : (s.setCtx c i x).heldPosts = s.heldPosts := rfl
@[simp] theorem State.setCtx_heldRaces (s : State) (c i : Nat) (x : Ctx) : (s.setCtx c i x).heldRaces = s.heldRaces := rfl
@[simp] theorem State.setCtx_posts (s : State) (c i : Nat) (x : Ctx) : (s.setCtx c i x).posts = s.posts := rfl
@[simp] theorem State.setCtx_unsent (s : State) (c i : Nat) (x : Ctx) : (s.setCtx c i x).unsent = s.unsent := rfl
@[simp] theorem State.setCtx_arb (s : State) (c i : Nat) (x : Ctx) : (s.setCtx c i x).arb = s.arb := rfl
@[simp] theorem State.setCtx_nextArb (s : State) (c i : Nat) (x : Ctx) : (s.setCtx c i x).nextArb = s.nextArb := rfl
@[simp] theorem State.setCtx_subj (s : State) (c i : Nat) (x : Ctx) : (s.setCtx c i x).subj = s.subj := rfl

/-! ## scrWrite -/

@[simp] theorem State.scrWrite_caps (s : State) (c o : Nat) (l : List Byte) : (s.scrWrite c o l).caps = s.caps := rfl
@[simp] theorem State.scrWrite_actors (s : State) (c o : Nat) (l : List Byte) : (s.scrWrite c o l).actors = s.actors := rfl
@[simp] theorem State.scrWrite_path (s : State) (c o : Nat) (l : List Byte) : (s.scrWrite c o l).path = s.path := rfl
@[simp] theorem State.scrWrite_links (s : State) (c o : Nat) (l : List Byte) : (s.scrWrite c o l).links = s.links := rfl
@[simp] theorem State.scrWrite_done (s : State) (c o : Nat) (l : List Byte) : (s.scrWrite c o l).done = s.done := rfl
@[simp] theorem State.scrWrite_mem (s : State) (c o : Nat) (l : List Byte) : (s.scrWrite c o l).mem = s.mem := rfl
@[simp] theorem State.scrWrite_owners (s : State) (c o : Nat) (l : List Byte) : (s.scrWrite c o l).owners = s.owners := rfl
@[simp] theorem State.scrWrite_absent (s : State) (c o : Nat) (l : List Byte) : (s.scrWrite c o l).absent = s.absent := rfl
@[simp] theorem State.scrWrite_damage (s : State) (c o : Nat) (l : List Byte) : (s.scrWrite c o l).damage = s.damage := rfl
@[simp] theorem State.scrWrite_spaces (s : State) (c o : Nat) (l : List Byte) : (s.scrWrite c o l).spaces = s.spaces := rfl
@[simp] theorem State.scrWrite_remaps (s : State) (c o : Nat) (l : List Byte) : (s.scrWrite c o l).remaps = s.remaps := rfl
@[simp] theorem State.scrWrite_dirty (s : State) (c o : Nat) (l : List Byte) : (s.scrWrite c o l).dirty = s.dirty := rfl
@[simp] theorem State.scrWrite_domid (s : State) (c o : Nat) (l : List Byte) : (s.scrWrite c o l).domid = s.domid := rfl
@[simp] theorem State.scrWrite_grants (s : State) (c o : Nat) (l : List Byte) : (s.scrWrite c o l).grants = s.grants := rfl
@[simp] theorem State.scrWrite_exports (s : State) (c o : Nat) (l : List Byte) : (s.scrWrite c o l).exports = s.exports := rfl
@[simp] theorem State.scrWrite_peerMem (s : State) (c o : Nat) (l : List Byte) : (s.scrWrite c o l).peerMem = s.peerMem := rfl
@[simp] theorem State.scrWrite_nextUid (s : State) (c o : Nat) (l : List Byte) : (s.scrWrite c o l).nextUid = s.nextUid := rfl
@[simp] theorem State.scrWrite_writers (s : State) (c o : Nat) (l : List Byte) : (s.scrWrite c o l).writers = s.writers := rfl
@[simp] theorem State.scrWrite_ring (s : State) (c o : Nat) (l : List Byte) : (s.scrWrite c o l).ring = s.ring := rfl
@[simp] theorem State.scrWrite_sbars (s : State) (c o : Nat) (l : List Byte) : (s.scrWrite c o l).sbars = s.sbars := rfl
@[simp] theorem State.scrWrite_clusters (s : State) (c o : Nat) (l : List Byte) : (s.scrWrite c o l).clusters = s.clusters := rfl
@[simp] theorem State.scrWrite_calendar (s : State) (c o : Nat) (l : List Byte) : (s.scrWrite c o l).calendar = s.calendar := rfl
@[simp] theorem State.scrWrite_routes (s : State) (c o : Nat) (l : List Byte) : (s.scrWrite c o l).routes = s.routes := rfl
@[simp] theorem State.scrWrite_asserted (s : State) (c o : Nat) (l : List Byte) : (s.scrWrite c o l).asserted = s.asserted := rfl
@[simp] theorem State.scrWrite_pins (s : State) (c o : Nat) (l : List Byte) : (s.scrWrite c o l).pins = s.pins := rfl
@[simp] theorem State.scrWrite_captured (s : State) (c o : Nat) (l : List Byte) : (s.scrWrite c o l).captured = s.captured := rfl
@[simp] theorem State.scrWrite_clq (s : State) (c o : Nat) (l : List Byte) : (s.scrWrite c o l).clq = s.clq := rfl
@[simp] theorem State.scrWrite_starts (s : State) (c o : Nat) (l : List Byte) : (s.scrWrite c o l).starts = s.starts := rfl
@[simp] theorem State.scrWrite_frsHeld (s : State) (c o : Nat) (l : List Byte) : (s.scrWrite c o l).frsHeld = s.frsHeld := rfl
@[simp] theorem State.scrWrite_scrubJobs (s : State) (c o : Nat) (l : List Byte) : (s.scrWrite c o l).scrubJobs = s.scrubJobs := rfl
@[simp] theorem State.scrWrite_reads (s : State) (c o : Nat) (l : List Byte) : (s.scrWrite c o l).reads = s.reads := rfl
@[simp] theorem State.scrWrite_images (s : State) (c o : Nat) (l : List Byte) : (s.scrWrite c o l).images = s.images := rfl
@[simp] theorem State.scrWrite_nextOrder (s : State) (c o : Nat) (l : List Byte) : (s.scrWrite c o l).nextOrder = s.nextOrder := rfl
@[simp] theorem State.scrWrite_lastServed (s : State) (c o : Nat) (l : List Byte) : (s.scrWrite c o l).lastServed = s.lastServed := rfl
@[simp] theorem State.scrWrite_frames (s : State) (c o : Nat) (l : List Byte) : (s.scrWrite c o l).frames = s.frames := rfl
@[simp] theorem State.scrWrite_tables (s : State) (c o : Nat) (l : List Byte) : (s.scrWrite c o l).tables = s.tables := rfl
@[simp] theorem State.scrWrite_vifs (s : State) (c o : Nat) (l : List Byte) : (s.scrWrite c o l).vifs = s.vifs := rfl
@[simp] theorem State.scrWrite_dropped (s : State) (c o : Nat) (l : List Byte) : (s.scrWrite c o l).dropped = s.dropped := rfl
@[simp] theorem State.scrWrite_outbox (s : State) (c o : Nat) (l : List Byte) : (s.scrWrite c o l).outbox = s.outbox := rfl
@[simp] theorem State.scrWrite_remotes (s : State) (c o : Nat) (l : List Byte) : (s.scrWrite c o l).remotes = s.remotes := rfl
@[simp] theorem State.scrWrite_ballast (s : State) (c o : Nat) (l : List Byte) : (s.scrWrite c o l).ballast = s.ballast := rfl
@[simp] theorem State.scrWrite_endings (s : State) (c o : Nat) (l : List Byte) : (s.scrWrite c o l).endings = s.endings := rfl
@[simp] theorem State.scrWrite_orphans (s : State) (c o : Nat) (l : List Byte) : (s.scrWrite c o l).orphans = s.orphans := rfl
@[simp] theorem State.scrWrite_incoming (s : State) (c o : Nat) (l : List Byte) : (s.scrWrite c o l).incoming = s.incoming := rfl
@[simp] theorem State.scrWrite_asked (s : State) (c o : Nat) (l : List Byte) : (s.scrWrite c o l).asked = s.asked := rfl
@[simp] theorem State.scrWrite_resets (s : State) (c o : Nat) (l : List Byte) : (s.scrWrite c o l).resets = s.resets := rfl
@[simp] theorem State.scrWrite_stepJobs (s : State) (c o : Nat) (l : List Byte) : (s.scrWrite c o l).stepJobs = s.stepJobs := rfl
@[simp] theorem State.scrWrite_retries (s : State) (c o : Nat) (l : List Byte) : (s.scrWrite c o l).retries = s.retries := rfl
@[simp] theorem State.scrWrite_refTime (s : State) (c o : Nat) (l : List Byte) : (s.scrWrite c o l).refTime = s.refTime := rfl
@[simp] theorem State.scrWrite_cycles (s : State) (c o : Nat) (l : List Byte) : (s.scrWrite c o l).cycles = s.cycles := rfl
@[simp] theorem State.scrWrite_who (s : State) (c o : Nat) (l : List Byte) : (s.scrWrite c o l).who = s.who := rfl
@[simp] theorem State.scrWrite_agenda (s : State) (c o : Nat) (l : List Byte) : (s.scrWrite c o l).agenda = s.agenda := rfl
@[simp] theorem State.scrWrite_turns (s : State) (c o : Nat) (l : List Byte) : (s.scrWrite c o l).turns = s.turns := rfl
@[simp] theorem State.scrWrite_aliases (s : State) (c o : Nat) (l : List Byte) : (s.scrWrite c o l).aliases = s.aliases := rfl
@[simp] theorem State.scrWrite_heldPosts (s : State) (c o : Nat) (l : List Byte) : (s.scrWrite c o l).heldPosts = s.heldPosts := rfl
@[simp] theorem State.scrWrite_heldRaces (s : State) (c o : Nat) (l : List Byte) : (s.scrWrite c o l).heldRaces = s.heldRaces := rfl
@[simp] theorem State.scrWrite_posts (s : State) (c o : Nat) (l : List Byte) : (s.scrWrite c o l).posts = s.posts := rfl
@[simp] theorem State.scrWrite_unsent (s : State) (c o : Nat) (l : List Byte) : (s.scrWrite c o l).unsent = s.unsent := rfl
@[simp] theorem State.scrWrite_arb (s : State) (c o : Nat) (l : List Byte) : (s.scrWrite c o l).arb = s.arb := rfl
@[simp] theorem State.scrWrite_nextArb (s : State) (c o : Nat) (l : List Byte) : (s.scrWrite c o l).nextArb = s.nextArb := rfl
@[simp] theorem State.scrWrite_subj (s : State) (c o : Nat) (l : List Byte) : (s.scrWrite c o l).subj = s.subj := rfl

/-! ## setActor -/

@[simp] theorem State.setActor_caps (s : State) (a : Nat) (x : Actor) : (s.setActor a x).caps = s.caps := rfl
@[simp] theorem State.setActor_cores (s : State) (a : Nat) (x : Actor) : (s.setActor a x).cores = s.cores := rfl
@[simp] theorem State.setActor_path (s : State) (a : Nat) (x : Actor) : (s.setActor a x).path = s.path := rfl
@[simp] theorem State.setActor_links (s : State) (a : Nat) (x : Actor) : (s.setActor a x).links = s.links := rfl
@[simp] theorem State.setActor_done (s : State) (a : Nat) (x : Actor) : (s.setActor a x).done = s.done := rfl
@[simp] theorem State.setActor_mem (s : State) (a : Nat) (x : Actor) : (s.setActor a x).mem = s.mem := rfl
@[simp] theorem State.setActor_owners (s : State) (a : Nat) (x : Actor) : (s.setActor a x).owners = s.owners := rfl
@[simp] theorem State.setActor_absent (s : State) (a : Nat) (x : Actor) : (s.setActor a x).absent = s.absent := rfl
@[simp] theorem State.setActor_damage (s : State) (a : Nat) (x : Actor) : (s.setActor a x).damage = s.damage := rfl
@[simp] theorem State.setActor_spaces (s : State) (a : Nat) (x : Actor) : (s.setActor a x).spaces = s.spaces := rfl
@[simp] theorem State.setActor_remaps (s : State) (a : Nat) (x : Actor) : (s.setActor a x).remaps = s.remaps := rfl
@[simp] theorem State.setActor_dirty (s : State) (a : Nat) (x : Actor) : (s.setActor a x).dirty = s.dirty := rfl
@[simp] theorem State.setActor_domid (s : State) (a : Nat) (x : Actor) : (s.setActor a x).domid = s.domid := rfl
@[simp] theorem State.setActor_grants (s : State) (a : Nat) (x : Actor) : (s.setActor a x).grants = s.grants := rfl
@[simp] theorem State.setActor_exports (s : State) (a : Nat) (x : Actor) : (s.setActor a x).exports = s.exports := rfl
@[simp] theorem State.setActor_peerMem (s : State) (a : Nat) (x : Actor) : (s.setActor a x).peerMem = s.peerMem := rfl
@[simp] theorem State.setActor_nextUid (s : State) (a : Nat) (x : Actor) : (s.setActor a x).nextUid = s.nextUid := rfl
@[simp] theorem State.setActor_writers (s : State) (a : Nat) (x : Actor) : (s.setActor a x).writers = s.writers := rfl
@[simp] theorem State.setActor_ring (s : State) (a : Nat) (x : Actor) : (s.setActor a x).ring = s.ring := rfl
@[simp] theorem State.setActor_sbars (s : State) (a : Nat) (x : Actor) : (s.setActor a x).sbars = s.sbars := rfl
@[simp] theorem State.setActor_clusters (s : State) (a : Nat) (x : Actor) : (s.setActor a x).clusters = s.clusters := rfl
@[simp] theorem State.setActor_calendar (s : State) (a : Nat) (x : Actor) : (s.setActor a x).calendar = s.calendar := rfl
@[simp] theorem State.setActor_routes (s : State) (a : Nat) (x : Actor) : (s.setActor a x).routes = s.routes := rfl
@[simp] theorem State.setActor_asserted (s : State) (a : Nat) (x : Actor) : (s.setActor a x).asserted = s.asserted := rfl
@[simp] theorem State.setActor_pins (s : State) (a : Nat) (x : Actor) : (s.setActor a x).pins = s.pins := rfl
@[simp] theorem State.setActor_captured (s : State) (a : Nat) (x : Actor) : (s.setActor a x).captured = s.captured := rfl
@[simp] theorem State.setActor_clq (s : State) (a : Nat) (x : Actor) : (s.setActor a x).clq = s.clq := rfl
@[simp] theorem State.setActor_starts (s : State) (a : Nat) (x : Actor) : (s.setActor a x).starts = s.starts := rfl
@[simp] theorem State.setActor_frsHeld (s : State) (a : Nat) (x : Actor) : (s.setActor a x).frsHeld = s.frsHeld := rfl
@[simp] theorem State.setActor_scrubJobs (s : State) (a : Nat) (x : Actor) : (s.setActor a x).scrubJobs = s.scrubJobs := rfl
@[simp] theorem State.setActor_reads (s : State) (a : Nat) (x : Actor) : (s.setActor a x).reads = s.reads := rfl
@[simp] theorem State.setActor_images (s : State) (a : Nat) (x : Actor) : (s.setActor a x).images = s.images := rfl
@[simp] theorem State.setActor_nextOrder (s : State) (a : Nat) (x : Actor) : (s.setActor a x).nextOrder = s.nextOrder := rfl
@[simp] theorem State.setActor_lastServed (s : State) (a : Nat) (x : Actor) : (s.setActor a x).lastServed = s.lastServed := rfl
@[simp] theorem State.setActor_frames (s : State) (a : Nat) (x : Actor) : (s.setActor a x).frames = s.frames := rfl
@[simp] theorem State.setActor_tables (s : State) (a : Nat) (x : Actor) : (s.setActor a x).tables = s.tables := rfl
@[simp] theorem State.setActor_vifs (s : State) (a : Nat) (x : Actor) : (s.setActor a x).vifs = s.vifs := rfl
@[simp] theorem State.setActor_dropped (s : State) (a : Nat) (x : Actor) : (s.setActor a x).dropped = s.dropped := rfl
@[simp] theorem State.setActor_outbox (s : State) (a : Nat) (x : Actor) : (s.setActor a x).outbox = s.outbox := rfl
@[simp] theorem State.setActor_remotes (s : State) (a : Nat) (x : Actor) : (s.setActor a x).remotes = s.remotes := rfl
@[simp] theorem State.setActor_ballast (s : State) (a : Nat) (x : Actor) : (s.setActor a x).ballast = s.ballast := rfl
@[simp] theorem State.setActor_endings (s : State) (a : Nat) (x : Actor) : (s.setActor a x).endings = s.endings := rfl
@[simp] theorem State.setActor_orphans (s : State) (a : Nat) (x : Actor) : (s.setActor a x).orphans = s.orphans := rfl
@[simp] theorem State.setActor_incoming (s : State) (a : Nat) (x : Actor) : (s.setActor a x).incoming = s.incoming := rfl
@[simp] theorem State.setActor_asked (s : State) (a : Nat) (x : Actor) : (s.setActor a x).asked = s.asked := rfl
@[simp] theorem State.setActor_resets (s : State) (a : Nat) (x : Actor) : (s.setActor a x).resets = s.resets := rfl
@[simp] theorem State.setActor_stepJobs (s : State) (a : Nat) (x : Actor) : (s.setActor a x).stepJobs = s.stepJobs := rfl
@[simp] theorem State.setActor_retries (s : State) (a : Nat) (x : Actor) : (s.setActor a x).retries = s.retries := rfl
@[simp] theorem State.setActor_refTime (s : State) (a : Nat) (x : Actor) : (s.setActor a x).refTime = s.refTime := rfl
@[simp] theorem State.setActor_cycles (s : State) (a : Nat) (x : Actor) : (s.setActor a x).cycles = s.cycles := rfl
@[simp] theorem State.setActor_who (s : State) (a : Nat) (x : Actor) : (s.setActor a x).who = s.who := rfl
@[simp] theorem State.setActor_agenda (s : State) (a : Nat) (x : Actor) : (s.setActor a x).agenda = s.agenda := rfl
@[simp] theorem State.setActor_turns (s : State) (a : Nat) (x : Actor) : (s.setActor a x).turns = s.turns := rfl
@[simp] theorem State.setActor_aliases (s : State) (a : Nat) (x : Actor) : (s.setActor a x).aliases = s.aliases := rfl
@[simp] theorem State.setActor_heldPosts (s : State) (a : Nat) (x : Actor) : (s.setActor a x).heldPosts = s.heldPosts := rfl
@[simp] theorem State.setActor_heldRaces (s : State) (a : Nat) (x : Actor) : (s.setActor a x).heldRaces = s.heldRaces := rfl
@[simp] theorem State.setActor_posts (s : State) (a : Nat) (x : Actor) : (s.setActor a x).posts = s.posts := rfl
@[simp] theorem State.setActor_unsent (s : State) (a : Nat) (x : Actor) : (s.setActor a x).unsent = s.unsent := rfl
@[simp] theorem State.setActor_arb (s : State) (a : Nat) (x : Actor) : (s.setActor a x).arb = s.arb := rfl
@[simp] theorem State.setActor_nextArb (s : State) (a : Nat) (x : Actor) : (s.setActor a x).nextArb = s.nextArb := rfl
@[simp] theorem State.setActor_subj (s : State) (a : Nat) (x : Actor) : (s.setActor a x).subj = s.subj := rfl

/-! ## onActor -/

@[simp] theorem State.onActor_caps (s : State) (a : Nat) (f : Actor → Actor) : (s.onActor a f).caps = s.caps := rfl
@[simp] theorem State.onActor_cores (s : State) (a : Nat) (f : Actor → Actor) : (s.onActor a f).cores = s.cores := rfl
@[simp] theorem State.onActor_path (s : State) (a : Nat) (f : Actor → Actor) : (s.onActor a f).path = s.path := rfl
@[simp] theorem State.onActor_links (s : State) (a : Nat) (f : Actor → Actor) : (s.onActor a f).links = s.links := rfl
@[simp] theorem State.onActor_done (s : State) (a : Nat) (f : Actor → Actor) : (s.onActor a f).done = s.done := rfl
@[simp] theorem State.onActor_mem (s : State) (a : Nat) (f : Actor → Actor) : (s.onActor a f).mem = s.mem := rfl
@[simp] theorem State.onActor_owners (s : State) (a : Nat) (f : Actor → Actor) : (s.onActor a f).owners = s.owners := rfl
@[simp] theorem State.onActor_absent (s : State) (a : Nat) (f : Actor → Actor) : (s.onActor a f).absent = s.absent := rfl
@[simp] theorem State.onActor_damage (s : State) (a : Nat) (f : Actor → Actor) : (s.onActor a f).damage = s.damage := rfl
@[simp] theorem State.onActor_spaces (s : State) (a : Nat) (f : Actor → Actor) : (s.onActor a f).spaces = s.spaces := rfl
@[simp] theorem State.onActor_remaps (s : State) (a : Nat) (f : Actor → Actor) : (s.onActor a f).remaps = s.remaps := rfl
@[simp] theorem State.onActor_dirty (s : State) (a : Nat) (f : Actor → Actor) : (s.onActor a f).dirty = s.dirty := rfl
@[simp] theorem State.onActor_domid (s : State) (a : Nat) (f : Actor → Actor) : (s.onActor a f).domid = s.domid := rfl
@[simp] theorem State.onActor_grants (s : State) (a : Nat) (f : Actor → Actor) : (s.onActor a f).grants = s.grants := rfl
@[simp] theorem State.onActor_exports (s : State) (a : Nat) (f : Actor → Actor) : (s.onActor a f).exports = s.exports := rfl
@[simp] theorem State.onActor_peerMem (s : State) (a : Nat) (f : Actor → Actor) : (s.onActor a f).peerMem = s.peerMem := rfl
@[simp] theorem State.onActor_nextUid (s : State) (a : Nat) (f : Actor → Actor) : (s.onActor a f).nextUid = s.nextUid := rfl
@[simp] theorem State.onActor_writers (s : State) (a : Nat) (f : Actor → Actor) : (s.onActor a f).writers = s.writers := rfl
@[simp] theorem State.onActor_ring (s : State) (a : Nat) (f : Actor → Actor) : (s.onActor a f).ring = s.ring := rfl
@[simp] theorem State.onActor_sbars (s : State) (a : Nat) (f : Actor → Actor) : (s.onActor a f).sbars = s.sbars := rfl
@[simp] theorem State.onActor_clusters (s : State) (a : Nat) (f : Actor → Actor) : (s.onActor a f).clusters = s.clusters := rfl
@[simp] theorem State.onActor_calendar (s : State) (a : Nat) (f : Actor → Actor) : (s.onActor a f).calendar = s.calendar := rfl
@[simp] theorem State.onActor_routes (s : State) (a : Nat) (f : Actor → Actor) : (s.onActor a f).routes = s.routes := rfl
@[simp] theorem State.onActor_asserted (s : State) (a : Nat) (f : Actor → Actor) : (s.onActor a f).asserted = s.asserted := rfl
@[simp] theorem State.onActor_pins (s : State) (a : Nat) (f : Actor → Actor) : (s.onActor a f).pins = s.pins := rfl
@[simp] theorem State.onActor_captured (s : State) (a : Nat) (f : Actor → Actor) : (s.onActor a f).captured = s.captured := rfl
@[simp] theorem State.onActor_clq (s : State) (a : Nat) (f : Actor → Actor) : (s.onActor a f).clq = s.clq := rfl
@[simp] theorem State.onActor_starts (s : State) (a : Nat) (f : Actor → Actor) : (s.onActor a f).starts = s.starts := rfl
@[simp] theorem State.onActor_frsHeld (s : State) (a : Nat) (f : Actor → Actor) : (s.onActor a f).frsHeld = s.frsHeld := rfl
@[simp] theorem State.onActor_scrubJobs (s : State) (a : Nat) (f : Actor → Actor) : (s.onActor a f).scrubJobs = s.scrubJobs := rfl
@[simp] theorem State.onActor_reads (s : State) (a : Nat) (f : Actor → Actor) : (s.onActor a f).reads = s.reads := rfl
@[simp] theorem State.onActor_images (s : State) (a : Nat) (f : Actor → Actor) : (s.onActor a f).images = s.images := rfl
@[simp] theorem State.onActor_nextOrder (s : State) (a : Nat) (f : Actor → Actor) : (s.onActor a f).nextOrder = s.nextOrder := rfl
@[simp] theorem State.onActor_lastServed (s : State) (a : Nat) (f : Actor → Actor) : (s.onActor a f).lastServed = s.lastServed := rfl
@[simp] theorem State.onActor_frames (s : State) (a : Nat) (f : Actor → Actor) : (s.onActor a f).frames = s.frames := rfl
@[simp] theorem State.onActor_tables (s : State) (a : Nat) (f : Actor → Actor) : (s.onActor a f).tables = s.tables := rfl
@[simp] theorem State.onActor_vifs (s : State) (a : Nat) (f : Actor → Actor) : (s.onActor a f).vifs = s.vifs := rfl
@[simp] theorem State.onActor_dropped (s : State) (a : Nat) (f : Actor → Actor) : (s.onActor a f).dropped = s.dropped := rfl
@[simp] theorem State.onActor_outbox (s : State) (a : Nat) (f : Actor → Actor) : (s.onActor a f).outbox = s.outbox := rfl
@[simp] theorem State.onActor_remotes (s : State) (a : Nat) (f : Actor → Actor) : (s.onActor a f).remotes = s.remotes := rfl
@[simp] theorem State.onActor_ballast (s : State) (a : Nat) (f : Actor → Actor) : (s.onActor a f).ballast = s.ballast := rfl
@[simp] theorem State.onActor_endings (s : State) (a : Nat) (f : Actor → Actor) : (s.onActor a f).endings = s.endings := rfl
@[simp] theorem State.onActor_orphans (s : State) (a : Nat) (f : Actor → Actor) : (s.onActor a f).orphans = s.orphans := rfl
@[simp] theorem State.onActor_incoming (s : State) (a : Nat) (f : Actor → Actor) : (s.onActor a f).incoming = s.incoming := rfl
@[simp] theorem State.onActor_asked (s : State) (a : Nat) (f : Actor → Actor) : (s.onActor a f).asked = s.asked := rfl
@[simp] theorem State.onActor_resets (s : State) (a : Nat) (f : Actor → Actor) : (s.onActor a f).resets = s.resets := rfl
@[simp] theorem State.onActor_stepJobs (s : State) (a : Nat) (f : Actor → Actor) : (s.onActor a f).stepJobs = s.stepJobs := rfl
@[simp] theorem State.onActor_retries (s : State) (a : Nat) (f : Actor → Actor) : (s.onActor a f).retries = s.retries := rfl
@[simp] theorem State.onActor_refTime (s : State) (a : Nat) (f : Actor → Actor) : (s.onActor a f).refTime = s.refTime := rfl
@[simp] theorem State.onActor_cycles (s : State) (a : Nat) (f : Actor → Actor) : (s.onActor a f).cycles = s.cycles := rfl
@[simp] theorem State.onActor_who (s : State) (a : Nat) (f : Actor → Actor) : (s.onActor a f).who = s.who := rfl
@[simp] theorem State.onActor_agenda (s : State) (a : Nat) (f : Actor → Actor) : (s.onActor a f).agenda = s.agenda := rfl
@[simp] theorem State.onActor_turns (s : State) (a : Nat) (f : Actor → Actor) : (s.onActor a f).turns = s.turns := rfl
@[simp] theorem State.onActor_aliases (s : State) (a : Nat) (f : Actor → Actor) : (s.onActor a f).aliases = s.aliases := rfl
@[simp] theorem State.onActor_heldPosts (s : State) (a : Nat) (f : Actor → Actor) : (s.onActor a f).heldPosts = s.heldPosts := rfl
@[simp] theorem State.onActor_heldRaces (s : State) (a : Nat) (f : Actor → Actor) : (s.onActor a f).heldRaces = s.heldRaces := rfl
@[simp] theorem State.onActor_posts (s : State) (a : Nat) (f : Actor → Actor) : (s.onActor a f).posts = s.posts := rfl
@[simp] theorem State.onActor_unsent (s : State) (a : Nat) (f : Actor → Actor) : (s.onActor a f).unsent = s.unsent := rfl
@[simp] theorem State.onActor_arb (s : State) (a : Nat) (f : Actor → Actor) : (s.onActor a f).arb = s.arb := rfl
@[simp] theorem State.onActor_nextArb (s : State) (a : Nat) (f : Actor → Actor) : (s.onActor a f).nextArb = s.nextArb := rfl
@[simp] theorem State.onActor_subj (s : State) (a : Nat) (f : Actor → Actor) : (s.onActor a f).subj = s.subj := rfl

/-! ## bump -/

@[simp] theorem State.bump_caps (s : State) (a : Nat) : (s.bump a).caps = s.caps := rfl
@[simp] theorem State.bump_cores (s : State) (a : Nat) : (s.bump a).cores = s.cores := rfl
@[simp] theorem State.bump_path (s : State) (a : Nat) : (s.bump a).path = s.path := rfl
@[simp] theorem State.bump_links (s : State) (a : Nat) : (s.bump a).links = s.links := rfl
@[simp] theorem State.bump_done (s : State) (a : Nat) : (s.bump a).done = s.done := rfl
@[simp] theorem State.bump_mem (s : State) (a : Nat) : (s.bump a).mem = s.mem := rfl
@[simp] theorem State.bump_owners (s : State) (a : Nat) : (s.bump a).owners = s.owners := rfl
@[simp] theorem State.bump_absent (s : State) (a : Nat) : (s.bump a).absent = s.absent := rfl
@[simp] theorem State.bump_damage (s : State) (a : Nat) : (s.bump a).damage = s.damage := rfl
@[simp] theorem State.bump_spaces (s : State) (a : Nat) : (s.bump a).spaces = s.spaces := rfl
@[simp] theorem State.bump_remaps (s : State) (a : Nat) : (s.bump a).remaps = s.remaps := rfl
@[simp] theorem State.bump_dirty (s : State) (a : Nat) : (s.bump a).dirty = s.dirty := rfl
@[simp] theorem State.bump_domid (s : State) (a : Nat) : (s.bump a).domid = s.domid := rfl
@[simp] theorem State.bump_grants (s : State) (a : Nat) : (s.bump a).grants = s.grants := rfl
@[simp] theorem State.bump_exports (s : State) (a : Nat) : (s.bump a).exports = s.exports := rfl
@[simp] theorem State.bump_peerMem (s : State) (a : Nat) : (s.bump a).peerMem = s.peerMem := rfl
@[simp] theorem State.bump_nextUid (s : State) (a : Nat) : (s.bump a).nextUid = s.nextUid := rfl
@[simp] theorem State.bump_writers (s : State) (a : Nat) : (s.bump a).writers = s.writers := rfl
@[simp] theorem State.bump_ring (s : State) (a : Nat) : (s.bump a).ring = s.ring := rfl
@[simp] theorem State.bump_sbars (s : State) (a : Nat) : (s.bump a).sbars = s.sbars := rfl
@[simp] theorem State.bump_clusters (s : State) (a : Nat) : (s.bump a).clusters = s.clusters := rfl
@[simp] theorem State.bump_calendar (s : State) (a : Nat) : (s.bump a).calendar = s.calendar := rfl
@[simp] theorem State.bump_routes (s : State) (a : Nat) : (s.bump a).routes = s.routes := rfl
@[simp] theorem State.bump_asserted (s : State) (a : Nat) : (s.bump a).asserted = s.asserted := rfl
@[simp] theorem State.bump_pins (s : State) (a : Nat) : (s.bump a).pins = s.pins := rfl
@[simp] theorem State.bump_captured (s : State) (a : Nat) : (s.bump a).captured = s.captured := rfl
@[simp] theorem State.bump_clq (s : State) (a : Nat) : (s.bump a).clq = s.clq := rfl
@[simp] theorem State.bump_starts (s : State) (a : Nat) : (s.bump a).starts = s.starts := rfl
@[simp] theorem State.bump_frsHeld (s : State) (a : Nat) : (s.bump a).frsHeld = s.frsHeld := rfl
@[simp] theorem State.bump_scrubJobs (s : State) (a : Nat) : (s.bump a).scrubJobs = s.scrubJobs := rfl
@[simp] theorem State.bump_reads (s : State) (a : Nat) : (s.bump a).reads = s.reads := rfl
@[simp] theorem State.bump_images (s : State) (a : Nat) : (s.bump a).images = s.images := rfl
@[simp] theorem State.bump_nextOrder (s : State) (a : Nat) : (s.bump a).nextOrder = s.nextOrder := rfl
@[simp] theorem State.bump_lastServed (s : State) (a : Nat) : (s.bump a).lastServed = s.lastServed := rfl
@[simp] theorem State.bump_frames (s : State) (a : Nat) : (s.bump a).frames = s.frames := rfl
@[simp] theorem State.bump_tables (s : State) (a : Nat) : (s.bump a).tables = s.tables := rfl
@[simp] theorem State.bump_vifs (s : State) (a : Nat) : (s.bump a).vifs = s.vifs := rfl
@[simp] theorem State.bump_dropped (s : State) (a : Nat) : (s.bump a).dropped = s.dropped := rfl
@[simp] theorem State.bump_outbox (s : State) (a : Nat) : (s.bump a).outbox = s.outbox := rfl
@[simp] theorem State.bump_remotes (s : State) (a : Nat) : (s.bump a).remotes = s.remotes := rfl
@[simp] theorem State.bump_ballast (s : State) (a : Nat) : (s.bump a).ballast = s.ballast := rfl
@[simp] theorem State.bump_endings (s : State) (a : Nat) : (s.bump a).endings = s.endings := rfl
@[simp] theorem State.bump_orphans (s : State) (a : Nat) : (s.bump a).orphans = s.orphans := rfl
@[simp] theorem State.bump_incoming (s : State) (a : Nat) : (s.bump a).incoming = s.incoming := rfl
@[simp] theorem State.bump_asked (s : State) (a : Nat) : (s.bump a).asked = s.asked := rfl
@[simp] theorem State.bump_resets (s : State) (a : Nat) : (s.bump a).resets = s.resets := rfl
@[simp] theorem State.bump_stepJobs (s : State) (a : Nat) : (s.bump a).stepJobs = s.stepJobs := rfl
@[simp] theorem State.bump_retries (s : State) (a : Nat) : (s.bump a).retries = s.retries := rfl
@[simp] theorem State.bump_refTime (s : State) (a : Nat) : (s.bump a).refTime = s.refTime := rfl
@[simp] theorem State.bump_cycles (s : State) (a : Nat) : (s.bump a).cycles = s.cycles := rfl
@[simp] theorem State.bump_who (s : State) (a : Nat) : (s.bump a).who = s.who := rfl
@[simp] theorem State.bump_agenda (s : State) (a : Nat) : (s.bump a).agenda = s.agenda := rfl
@[simp] theorem State.bump_turns (s : State) (a : Nat) : (s.bump a).turns = s.turns := rfl
@[simp] theorem State.bump_aliases (s : State) (a : Nat) : (s.bump a).aliases = s.aliases := rfl
@[simp] theorem State.bump_heldPosts (s : State) (a : Nat) : (s.bump a).heldPosts = s.heldPosts := rfl
@[simp] theorem State.bump_heldRaces (s : State) (a : Nat) : (s.bump a).heldRaces = s.heldRaces := rfl
@[simp] theorem State.bump_posts (s : State) (a : Nat) : (s.bump a).posts = s.posts := rfl
@[simp] theorem State.bump_unsent (s : State) (a : Nat) : (s.bump a).unsent = s.unsent := rfl
@[simp] theorem State.bump_arb (s : State) (a : Nat) : (s.bump a).arb = s.arb := rfl
@[simp] theorem State.bump_nextArb (s : State) (a : Nat) : (s.bump a).nextArb = s.nextArb := rfl
@[simp] theorem State.bump_subj (s : State) (a : Nat) : (s.bump a).subj = s.subj := rfl

/-! ## publish -/

@[simp] theorem State.publish_caps (s : State) (a : Nat) : (s.publish a).caps = s.caps := rfl
@[simp] theorem State.publish_cores (s : State) (a : Nat) : (s.publish a).cores = s.cores := rfl
@[simp] theorem State.publish_path (s : State) (a : Nat) : (s.publish a).path = s.path := rfl
@[simp] theorem State.publish_links (s : State) (a : Nat) : (s.publish a).links = s.links := rfl
@[simp] theorem State.publish_done (s : State) (a : Nat) : (s.publish a).done = s.done := rfl
@[simp] theorem State.publish_mem (s : State) (a : Nat) : (s.publish a).mem = s.mem := rfl
@[simp] theorem State.publish_owners (s : State) (a : Nat) : (s.publish a).owners = s.owners := rfl
@[simp] theorem State.publish_absent (s : State) (a : Nat) : (s.publish a).absent = s.absent := rfl
@[simp] theorem State.publish_damage (s : State) (a : Nat) : (s.publish a).damage = s.damage := rfl
@[simp] theorem State.publish_spaces (s : State) (a : Nat) : (s.publish a).spaces = s.spaces := rfl
@[simp] theorem State.publish_remaps (s : State) (a : Nat) : (s.publish a).remaps = s.remaps := rfl
@[simp] theorem State.publish_dirty (s : State) (a : Nat) : (s.publish a).dirty = s.dirty := rfl
@[simp] theorem State.publish_domid (s : State) (a : Nat) : (s.publish a).domid = s.domid := rfl
@[simp] theorem State.publish_grants (s : State) (a : Nat) : (s.publish a).grants = s.grants := rfl
@[simp] theorem State.publish_exports (s : State) (a : Nat) : (s.publish a).exports = s.exports := rfl
@[simp] theorem State.publish_peerMem (s : State) (a : Nat) : (s.publish a).peerMem = s.peerMem := rfl
@[simp] theorem State.publish_nextUid (s : State) (a : Nat) : (s.publish a).nextUid = s.nextUid := rfl
@[simp] theorem State.publish_writers (s : State) (a : Nat) : (s.publish a).writers = s.writers := rfl
@[simp] theorem State.publish_ring (s : State) (a : Nat) : (s.publish a).ring = s.ring := rfl
@[simp] theorem State.publish_sbars (s : State) (a : Nat) : (s.publish a).sbars = s.sbars := rfl
@[simp] theorem State.publish_clusters (s : State) (a : Nat) : (s.publish a).clusters = s.clusters := rfl
@[simp] theorem State.publish_calendar (s : State) (a : Nat) : (s.publish a).calendar = s.calendar := rfl
@[simp] theorem State.publish_routes (s : State) (a : Nat) : (s.publish a).routes = s.routes := rfl
@[simp] theorem State.publish_asserted (s : State) (a : Nat) : (s.publish a).asserted = s.asserted := rfl
@[simp] theorem State.publish_pins (s : State) (a : Nat) : (s.publish a).pins = s.pins := rfl
@[simp] theorem State.publish_captured (s : State) (a : Nat) : (s.publish a).captured = s.captured := rfl
@[simp] theorem State.publish_clq (s : State) (a : Nat) : (s.publish a).clq = s.clq := rfl
@[simp] theorem State.publish_starts (s : State) (a : Nat) : (s.publish a).starts = s.starts := rfl
@[simp] theorem State.publish_frsHeld (s : State) (a : Nat) : (s.publish a).frsHeld = s.frsHeld := rfl
@[simp] theorem State.publish_scrubJobs (s : State) (a : Nat) : (s.publish a).scrubJobs = s.scrubJobs := rfl
@[simp] theorem State.publish_reads (s : State) (a : Nat) : (s.publish a).reads = s.reads := rfl
@[simp] theorem State.publish_images (s : State) (a : Nat) : (s.publish a).images = s.images := rfl
@[simp] theorem State.publish_nextOrder (s : State) (a : Nat) : (s.publish a).nextOrder = s.nextOrder := rfl
@[simp] theorem State.publish_lastServed (s : State) (a : Nat) : (s.publish a).lastServed = s.lastServed := rfl
@[simp] theorem State.publish_frames (s : State) (a : Nat) : (s.publish a).frames = s.frames := rfl
@[simp] theorem State.publish_tables (s : State) (a : Nat) : (s.publish a).tables = s.tables := rfl
@[simp] theorem State.publish_vifs (s : State) (a : Nat) : (s.publish a).vifs = s.vifs := rfl
@[simp] theorem State.publish_dropped (s : State) (a : Nat) : (s.publish a).dropped = s.dropped := rfl
@[simp] theorem State.publish_outbox (s : State) (a : Nat) : (s.publish a).outbox = s.outbox := rfl
@[simp] theorem State.publish_remotes (s : State) (a : Nat) : (s.publish a).remotes = s.remotes := rfl
@[simp] theorem State.publish_ballast (s : State) (a : Nat) : (s.publish a).ballast = s.ballast := rfl
@[simp] theorem State.publish_endings (s : State) (a : Nat) : (s.publish a).endings = s.endings := rfl
@[simp] theorem State.publish_orphans (s : State) (a : Nat) : (s.publish a).orphans = s.orphans := rfl
@[simp] theorem State.publish_incoming (s : State) (a : Nat) : (s.publish a).incoming = s.incoming := rfl
@[simp] theorem State.publish_asked (s : State) (a : Nat) : (s.publish a).asked = s.asked := rfl
@[simp] theorem State.publish_resets (s : State) (a : Nat) : (s.publish a).resets = s.resets := rfl
@[simp] theorem State.publish_stepJobs (s : State) (a : Nat) : (s.publish a).stepJobs = s.stepJobs := rfl
@[simp] theorem State.publish_retries (s : State) (a : Nat) : (s.publish a).retries = s.retries := rfl
@[simp] theorem State.publish_refTime (s : State) (a : Nat) : (s.publish a).refTime = s.refTime := rfl
@[simp] theorem State.publish_cycles (s : State) (a : Nat) : (s.publish a).cycles = s.cycles := rfl
@[simp] theorem State.publish_who (s : State) (a : Nat) : (s.publish a).who = s.who := rfl
@[simp] theorem State.publish_agenda (s : State) (a : Nat) : (s.publish a).agenda = s.agenda := rfl
@[simp] theorem State.publish_turns (s : State) (a : Nat) : (s.publish a).turns = s.turns := rfl
@[simp] theorem State.publish_aliases (s : State) (a : Nat) : (s.publish a).aliases = s.aliases := rfl
@[simp] theorem State.publish_heldPosts (s : State) (a : Nat) : (s.publish a).heldPosts = s.heldPosts := rfl
@[simp] theorem State.publish_heldRaces (s : State) (a : Nat) : (s.publish a).heldRaces = s.heldRaces := rfl
@[simp] theorem State.publish_posts (s : State) (a : Nat) : (s.publish a).posts = s.posts := rfl
@[simp] theorem State.publish_unsent (s : State) (a : Nat) : (s.publish a).unsent = s.unsent := rfl
@[simp] theorem State.publish_arb (s : State) (a : Nat) : (s.publish a).arb = s.arb := rfl
@[simp] theorem State.publish_nextArb (s : State) (a : Nat) : (s.publish a).nextArb = s.nextArb := rfl
@[simp] theorem State.publish_subj (s : State) (a : Nat) : (s.publish a).subj = s.subj := rfl

/-! ## physWrite -/

@[simp] theorem State.physWrite_caps (s : State) (a : Nat) (l : List Byte) : (s.physWrite a l).caps = s.caps := rfl
@[simp] theorem State.physWrite_cores (s : State) (a : Nat) (l : List Byte) : (s.physWrite a l).cores = s.cores := rfl
@[simp] theorem State.physWrite_actors (s : State) (a : Nat) (l : List Byte) : (s.physWrite a l).actors = s.actors := rfl
@[simp] theorem State.physWrite_path (s : State) (a : Nat) (l : List Byte) : (s.physWrite a l).path = s.path := rfl
@[simp] theorem State.physWrite_links (s : State) (a : Nat) (l : List Byte) : (s.physWrite a l).links = s.links := rfl
@[simp] theorem State.physWrite_done (s : State) (a : Nat) (l : List Byte) : (s.physWrite a l).done = s.done := rfl
@[simp] theorem State.physWrite_owners (s : State) (a : Nat) (l : List Byte) : (s.physWrite a l).owners = s.owners := rfl
@[simp] theorem State.physWrite_absent (s : State) (a : Nat) (l : List Byte) : (s.physWrite a l).absent = s.absent := rfl
@[simp] theorem State.physWrite_damage (s : State) (a : Nat) (l : List Byte) : (s.physWrite a l).damage = s.damage := rfl
@[simp] theorem State.physWrite_spaces (s : State) (a : Nat) (l : List Byte) : (s.physWrite a l).spaces = s.spaces := rfl
@[simp] theorem State.physWrite_remaps (s : State) (a : Nat) (l : List Byte) : (s.physWrite a l).remaps = s.remaps := rfl
@[simp] theorem State.physWrite_dirty (s : State) (a : Nat) (l : List Byte) : (s.physWrite a l).dirty = s.dirty := rfl
@[simp] theorem State.physWrite_domid (s : State) (a : Nat) (l : List Byte) : (s.physWrite a l).domid = s.domid := rfl
@[simp] theorem State.physWrite_grants (s : State) (a : Nat) (l : List Byte) : (s.physWrite a l).grants = s.grants := rfl
@[simp] theorem State.physWrite_exports (s : State) (a : Nat) (l : List Byte) : (s.physWrite a l).exports = s.exports := rfl
@[simp] theorem State.physWrite_peerMem (s : State) (a : Nat) (l : List Byte) : (s.physWrite a l).peerMem = s.peerMem := rfl
@[simp] theorem State.physWrite_nextUid (s : State) (a : Nat) (l : List Byte) : (s.physWrite a l).nextUid = s.nextUid := rfl
@[simp] theorem State.physWrite_writers (s : State) (a : Nat) (l : List Byte) : (s.physWrite a l).writers = s.writers := rfl
@[simp] theorem State.physWrite_ring (s : State) (a : Nat) (l : List Byte) : (s.physWrite a l).ring = s.ring := rfl
@[simp] theorem State.physWrite_sbars (s : State) (a : Nat) (l : List Byte) : (s.physWrite a l).sbars = s.sbars := rfl
@[simp] theorem State.physWrite_clusters (s : State) (a : Nat) (l : List Byte) : (s.physWrite a l).clusters = s.clusters := rfl
@[simp] theorem State.physWrite_calendar (s : State) (a : Nat) (l : List Byte) : (s.physWrite a l).calendar = s.calendar := rfl
@[simp] theorem State.physWrite_routes (s : State) (a : Nat) (l : List Byte) : (s.physWrite a l).routes = s.routes := rfl
@[simp] theorem State.physWrite_asserted (s : State) (a : Nat) (l : List Byte) : (s.physWrite a l).asserted = s.asserted := rfl
@[simp] theorem State.physWrite_pins (s : State) (a : Nat) (l : List Byte) : (s.physWrite a l).pins = s.pins := rfl
@[simp] theorem State.physWrite_captured (s : State) (a : Nat) (l : List Byte) : (s.physWrite a l).captured = s.captured := rfl
@[simp] theorem State.physWrite_clq (s : State) (a : Nat) (l : List Byte) : (s.physWrite a l).clq = s.clq := rfl
@[simp] theorem State.physWrite_starts (s : State) (a : Nat) (l : List Byte) : (s.physWrite a l).starts = s.starts := rfl
@[simp] theorem State.physWrite_frsHeld (s : State) (a : Nat) (l : List Byte) : (s.physWrite a l).frsHeld = s.frsHeld := rfl
@[simp] theorem State.physWrite_scrubJobs (s : State) (a : Nat) (l : List Byte) : (s.physWrite a l).scrubJobs = s.scrubJobs := rfl
@[simp] theorem State.physWrite_reads (s : State) (a : Nat) (l : List Byte) : (s.physWrite a l).reads = s.reads := rfl
@[simp] theorem State.physWrite_images (s : State) (a : Nat) (l : List Byte) : (s.physWrite a l).images = s.images := rfl
@[simp] theorem State.physWrite_nextOrder (s : State) (a : Nat) (l : List Byte) : (s.physWrite a l).nextOrder = s.nextOrder := rfl
@[simp] theorem State.physWrite_lastServed (s : State) (a : Nat) (l : List Byte) : (s.physWrite a l).lastServed = s.lastServed := rfl
@[simp] theorem State.physWrite_frames (s : State) (a : Nat) (l : List Byte) : (s.physWrite a l).frames = s.frames := rfl
@[simp] theorem State.physWrite_tables (s : State) (a : Nat) (l : List Byte) : (s.physWrite a l).tables = s.tables := rfl
@[simp] theorem State.physWrite_vifs (s : State) (a : Nat) (l : List Byte) : (s.physWrite a l).vifs = s.vifs := rfl
@[simp] theorem State.physWrite_dropped (s : State) (a : Nat) (l : List Byte) : (s.physWrite a l).dropped = s.dropped := rfl
@[simp] theorem State.physWrite_outbox (s : State) (a : Nat) (l : List Byte) : (s.physWrite a l).outbox = s.outbox := rfl
@[simp] theorem State.physWrite_remotes (s : State) (a : Nat) (l : List Byte) : (s.physWrite a l).remotes = s.remotes := rfl
@[simp] theorem State.physWrite_ballast (s : State) (a : Nat) (l : List Byte) : (s.physWrite a l).ballast = s.ballast := rfl
@[simp] theorem State.physWrite_endings (s : State) (a : Nat) (l : List Byte) : (s.physWrite a l).endings = s.endings := rfl
@[simp] theorem State.physWrite_orphans (s : State) (a : Nat) (l : List Byte) : (s.physWrite a l).orphans = s.orphans := rfl
@[simp] theorem State.physWrite_incoming (s : State) (a : Nat) (l : List Byte) : (s.physWrite a l).incoming = s.incoming := rfl
@[simp] theorem State.physWrite_asked (s : State) (a : Nat) (l : List Byte) : (s.physWrite a l).asked = s.asked := rfl
@[simp] theorem State.physWrite_resets (s : State) (a : Nat) (l : List Byte) : (s.physWrite a l).resets = s.resets := rfl
@[simp] theorem State.physWrite_stepJobs (s : State) (a : Nat) (l : List Byte) : (s.physWrite a l).stepJobs = s.stepJobs := rfl
@[simp] theorem State.physWrite_retries (s : State) (a : Nat) (l : List Byte) : (s.physWrite a l).retries = s.retries := rfl
@[simp] theorem State.physWrite_refTime (s : State) (a : Nat) (l : List Byte) : (s.physWrite a l).refTime = s.refTime := rfl
@[simp] theorem State.physWrite_cycles (s : State) (a : Nat) (l : List Byte) : (s.physWrite a l).cycles = s.cycles := rfl
@[simp] theorem State.physWrite_who (s : State) (a : Nat) (l : List Byte) : (s.physWrite a l).who = s.who := rfl
@[simp] theorem State.physWrite_agenda (s : State) (a : Nat) (l : List Byte) : (s.physWrite a l).agenda = s.agenda := rfl
@[simp] theorem State.physWrite_turns (s : State) (a : Nat) (l : List Byte) : (s.physWrite a l).turns = s.turns := rfl
@[simp] theorem State.physWrite_aliases (s : State) (a : Nat) (l : List Byte) : (s.physWrite a l).aliases = s.aliases := rfl
@[simp] theorem State.physWrite_heldPosts (s : State) (a : Nat) (l : List Byte) : (s.physWrite a l).heldPosts = s.heldPosts := rfl
@[simp] theorem State.physWrite_heldRaces (s : State) (a : Nat) (l : List Byte) : (s.physWrite a l).heldRaces = s.heldRaces := rfl
@[simp] theorem State.physWrite_posts (s : State) (a : Nat) (l : List Byte) : (s.physWrite a l).posts = s.posts := rfl
@[simp] theorem State.physWrite_unsent (s : State) (a : Nat) (l : List Byte) : (s.physWrite a l).unsent = s.unsent := rfl
@[simp] theorem State.physWrite_arb (s : State) (a : Nat) (l : List Byte) : (s.physWrite a l).arb = s.arb := rfl
@[simp] theorem State.physWrite_nextArb (s : State) (a : Nat) (l : List Byte) : (s.physWrite a l).nextArb = s.nextArb := rfl
@[simp] theorem State.physWrite_subj (s : State) (a : Nat) (l : List Byte) : (s.physWrite a l).subj = s.subj := rfl

/-! ## zeroFill -/

@[simp] theorem State.zeroFill_caps (s : State) (a n : Nat) : (s.zeroFill a n).caps = s.caps := rfl
@[simp] theorem State.zeroFill_cores (s : State) (a n : Nat) : (s.zeroFill a n).cores = s.cores := rfl
@[simp] theorem State.zeroFill_actors (s : State) (a n : Nat) : (s.zeroFill a n).actors = s.actors := rfl
@[simp] theorem State.zeroFill_path (s : State) (a n : Nat) : (s.zeroFill a n).path = s.path := rfl
@[simp] theorem State.zeroFill_links (s : State) (a n : Nat) : (s.zeroFill a n).links = s.links := rfl
@[simp] theorem State.zeroFill_done (s : State) (a n : Nat) : (s.zeroFill a n).done = s.done := rfl
@[simp] theorem State.zeroFill_owners (s : State) (a n : Nat) : (s.zeroFill a n).owners = s.owners := rfl
@[simp] theorem State.zeroFill_absent (s : State) (a n : Nat) : (s.zeroFill a n).absent = s.absent := rfl
@[simp] theorem State.zeroFill_damage (s : State) (a n : Nat) : (s.zeroFill a n).damage = s.damage := rfl
@[simp] theorem State.zeroFill_spaces (s : State) (a n : Nat) : (s.zeroFill a n).spaces = s.spaces := rfl
@[simp] theorem State.zeroFill_remaps (s : State) (a n : Nat) : (s.zeroFill a n).remaps = s.remaps := rfl
@[simp] theorem State.zeroFill_dirty (s : State) (a n : Nat) : (s.zeroFill a n).dirty = s.dirty := rfl
@[simp] theorem State.zeroFill_domid (s : State) (a n : Nat) : (s.zeroFill a n).domid = s.domid := rfl
@[simp] theorem State.zeroFill_grants (s : State) (a n : Nat) : (s.zeroFill a n).grants = s.grants := rfl
@[simp] theorem State.zeroFill_exports (s : State) (a n : Nat) : (s.zeroFill a n).exports = s.exports := rfl
@[simp] theorem State.zeroFill_peerMem (s : State) (a n : Nat) : (s.zeroFill a n).peerMem = s.peerMem := rfl
@[simp] theorem State.zeroFill_nextUid (s : State) (a n : Nat) : (s.zeroFill a n).nextUid = s.nextUid := rfl
@[simp] theorem State.zeroFill_writers (s : State) (a n : Nat) : (s.zeroFill a n).writers = s.writers := rfl
@[simp] theorem State.zeroFill_ring (s : State) (a n : Nat) : (s.zeroFill a n).ring = s.ring := rfl
@[simp] theorem State.zeroFill_sbars (s : State) (a n : Nat) : (s.zeroFill a n).sbars = s.sbars := rfl
@[simp] theorem State.zeroFill_clusters (s : State) (a n : Nat) : (s.zeroFill a n).clusters = s.clusters := rfl
@[simp] theorem State.zeroFill_calendar (s : State) (a n : Nat) : (s.zeroFill a n).calendar = s.calendar := rfl
@[simp] theorem State.zeroFill_routes (s : State) (a n : Nat) : (s.zeroFill a n).routes = s.routes := rfl
@[simp] theorem State.zeroFill_asserted (s : State) (a n : Nat) : (s.zeroFill a n).asserted = s.asserted := rfl
@[simp] theorem State.zeroFill_pins (s : State) (a n : Nat) : (s.zeroFill a n).pins = s.pins := rfl
@[simp] theorem State.zeroFill_captured (s : State) (a n : Nat) : (s.zeroFill a n).captured = s.captured := rfl
@[simp] theorem State.zeroFill_clq (s : State) (a n : Nat) : (s.zeroFill a n).clq = s.clq := rfl
@[simp] theorem State.zeroFill_starts (s : State) (a n : Nat) : (s.zeroFill a n).starts = s.starts := rfl
@[simp] theorem State.zeroFill_frsHeld (s : State) (a n : Nat) : (s.zeroFill a n).frsHeld = s.frsHeld := rfl
@[simp] theorem State.zeroFill_scrubJobs (s : State) (a n : Nat) : (s.zeroFill a n).scrubJobs = s.scrubJobs := rfl
@[simp] theorem State.zeroFill_reads (s : State) (a n : Nat) : (s.zeroFill a n).reads = s.reads := rfl
@[simp] theorem State.zeroFill_images (s : State) (a n : Nat) : (s.zeroFill a n).images = s.images := rfl
@[simp] theorem State.zeroFill_nextOrder (s : State) (a n : Nat) : (s.zeroFill a n).nextOrder = s.nextOrder := rfl
@[simp] theorem State.zeroFill_lastServed (s : State) (a n : Nat) : (s.zeroFill a n).lastServed = s.lastServed := rfl
@[simp] theorem State.zeroFill_frames (s : State) (a n : Nat) : (s.zeroFill a n).frames = s.frames := rfl
@[simp] theorem State.zeroFill_tables (s : State) (a n : Nat) : (s.zeroFill a n).tables = s.tables := rfl
@[simp] theorem State.zeroFill_vifs (s : State) (a n : Nat) : (s.zeroFill a n).vifs = s.vifs := rfl
@[simp] theorem State.zeroFill_dropped (s : State) (a n : Nat) : (s.zeroFill a n).dropped = s.dropped := rfl
@[simp] theorem State.zeroFill_outbox (s : State) (a n : Nat) : (s.zeroFill a n).outbox = s.outbox := rfl
@[simp] theorem State.zeroFill_remotes (s : State) (a n : Nat) : (s.zeroFill a n).remotes = s.remotes := rfl
@[simp] theorem State.zeroFill_ballast (s : State) (a n : Nat) : (s.zeroFill a n).ballast = s.ballast := rfl
@[simp] theorem State.zeroFill_endings (s : State) (a n : Nat) : (s.zeroFill a n).endings = s.endings := rfl
@[simp] theorem State.zeroFill_orphans (s : State) (a n : Nat) : (s.zeroFill a n).orphans = s.orphans := rfl
@[simp] theorem State.zeroFill_incoming (s : State) (a n : Nat) : (s.zeroFill a n).incoming = s.incoming := rfl
@[simp] theorem State.zeroFill_asked (s : State) (a n : Nat) : (s.zeroFill a n).asked = s.asked := rfl
@[simp] theorem State.zeroFill_resets (s : State) (a n : Nat) : (s.zeroFill a n).resets = s.resets := rfl
@[simp] theorem State.zeroFill_stepJobs (s : State) (a n : Nat) : (s.zeroFill a n).stepJobs = s.stepJobs := rfl
@[simp] theorem State.zeroFill_retries (s : State) (a n : Nat) : (s.zeroFill a n).retries = s.retries := rfl
@[simp] theorem State.zeroFill_refTime (s : State) (a n : Nat) : (s.zeroFill a n).refTime = s.refTime := rfl
@[simp] theorem State.zeroFill_cycles (s : State) (a n : Nat) : (s.zeroFill a n).cycles = s.cycles := rfl
@[simp] theorem State.zeroFill_who (s : State) (a n : Nat) : (s.zeroFill a n).who = s.who := rfl
@[simp] theorem State.zeroFill_agenda (s : State) (a n : Nat) : (s.zeroFill a n).agenda = s.agenda := rfl
@[simp] theorem State.zeroFill_turns (s : State) (a n : Nat) : (s.zeroFill a n).turns = s.turns := rfl
@[simp] theorem State.zeroFill_aliases (s : State) (a n : Nat) : (s.zeroFill a n).aliases = s.aliases := rfl
@[simp] theorem State.zeroFill_heldPosts (s : State) (a n : Nat) : (s.zeroFill a n).heldPosts = s.heldPosts := rfl
@[simp] theorem State.zeroFill_heldRaces (s : State) (a n : Nat) : (s.zeroFill a n).heldRaces = s.heldRaces := rfl
@[simp] theorem State.zeroFill_posts (s : State) (a n : Nat) : (s.zeroFill a n).posts = s.posts := rfl
@[simp] theorem State.zeroFill_unsent (s : State) (a n : Nat) : (s.zeroFill a n).unsent = s.unsent := rfl
@[simp] theorem State.zeroFill_arb (s : State) (a n : Nat) : (s.zeroFill a n).arb = s.arb := rfl
@[simp] theorem State.zeroFill_nextArb (s : State) (a n : Nat) : (s.zeroFill a n).nextArb = s.nextArb := rfl
@[simp] theorem State.zeroFill_subj (s : State) (a n : Nat) : (s.zeroFill a n).subj = s.subj := rfl

/-! ## What the accessors read after an update

No canonical form is needed: a key that is not written reads as before, and one that is written reads as written unless the value is
the one that an unlisted key reads as. -/

theorem State.core_setCore (s : State) {c : Nat} {x : Core} (h : x ≠ {}) : (s.setCore c x).core c = x := mget_mset_listed h
@[simp] theorem State.core_setCore_other (s : State) {c k : Nat} (x : Core) (h : k ≠ c) : (s.setCore c x).core k = s.core k := mget_mset_ne h
theorem State.core_onCore (s : State) {c : Nat} {f : Core → Core} (h : f (s.core c) ≠ {}) : (s.onCore c f).core c = f (s.core c) :=
  mget_mset_listed h
@[simp] theorem State.core_onCore_other (s : State) {c k : Nat} (f : Core → Core) (h : k ≠ c) : (s.onCore c f).core k = s.core k :=
  mget_mset_ne h
theorem State.actor_setActor (s : State) {a : Nat} {x : Actor} (h : x ≠ {}) : (s.setActor a x).actor a = x := mget_mset_listed h
@[simp] theorem State.actor_setActor_other (s : State) {a b : Nat} (x : Actor) (h : b ≠ a) : (s.setActor a x).actor b = s.actor b :=
  mget_mset_ne h
theorem State.actor_onActor (s : State) {a : Nat} {f : Actor → Actor} (h : f (s.actor a) ≠ {}) : (s.onActor a f).actor a = f (s.actor a) :=
  mget_mset_listed h
@[simp] theorem State.actor_onActor_other (s : State) {a b : Nat} (f : Actor → Actor) (h : b ≠ a) : (s.onActor a f).actor b = s.actor b :=
  mget_mset_ne h
@[simp] theorem State.actor_setCore (s : State) (c : Nat) (x : Core) (a : Nat) : (s.setCore c x).actor a = s.actor a := rfl
@[simp] theorem State.actor_onCore (s : State) (c : Nat) (f : Core → Core) (a : Nat) : (s.onCore c f).actor a = s.actor a := rfl
@[simp] theorem State.core_setActor (s : State) (a : Nat) (x : Actor) (c : Nat) : (s.setActor a x).core c = s.core c := rfl
@[simp] theorem State.core_onActor (s : State) (a : Nat) (f : Actor → Actor) (c : Nat) : (s.onActor a f).core c = s.core c := rfl
@[simp] theorem State.core_bump (s : State) (a c : Nat) : (s.bump a).core c = s.core c := rfl
@[simp] theorem State.core_physWrite (s : State) (a : Nat) (l : List Byte) (c : Nat) : (s.physWrite a l).core c = s.core c := rfl
@[simp] theorem State.actor_physWrite (s : State) (p : Nat) (l : List Byte) (a : Nat) : (s.physWrite p l).actor a = s.actor a := rfl
@[simp] theorem State.byteAt_onCore (s : State) (c : Nat) (f : Core → Core) (a : Nat) : (s.onCore c f).byteAt a = s.byteAt a := rfl
@[simp] theorem State.byteAt_onActor (s : State) (x : Nat) (f : Actor → Actor) (a : Nat) : (s.onActor x f).byteAt a = s.byteAt a := rfl
theorem Core.tg_set (c : Core) {k : Nat} {g : Tg} (h : g ≠ {}) : ({ c with tgs := mset {} c.tgs k g } : Core).tg k = g := mget_mset_listed h
@[simp] theorem Core.tg_set_other (c : Core) {k j : Nat} (g : Tg) (h : j ≠ k) : ({ c with tgs := mset {} c.tgs k g } : Core).tg j = c.tg j :=
  mget_mset_ne h

/-- A core that lists a group is no unlisted core. -/
theorem Core.ne_of_tg {c : Core} {k : Nat} {g : Tg} (h : g ≠ {}) (e : c.tg k = g) : c ≠ {} := by
  rintro rfl; exact h e.symm
/-- A core whose Spur has not ended is no unlisted core. -/
theorem Core.ne_of_run {c : Core} (h : c.spur.run ≠ .done) : c ≠ {} := by rintro rfl; exact h rfl
/-- A group in use is no unlisted group. -/
theorem Tg.ne_of_used {g : Tg} (h : g.used = true) : g ≠ {} := by rintro rfl; cases h
/-- An actor that has issued is no unlisted actor. -/
theorem Actor.ne_of_pos {x : Actor} (h : 0 < x.pos) : x ≠ {} := by rintro rfl; exact absurd h (Nat.lt_irrefl 0)

/-- A group replaced by one that is not the unlisted one. -/
theorem State.tg_setTg (s : State) {c k : Nat} {g : Tg} (h : g ≠ {}) : (s.setTg c k g).tg c k = g := by
  have e := (s.core c).tg_set (k := k) h
  rw [State.tg, State.setTg, s.core_onCore (Core.ne_of_tg h e)]
  exact e
/-- Another group of the core. -/
theorem State.tg_setTg_other (s : State) {c k j : Nat} {g : Tg} (h : g ≠ {}) (hj : j ≠ k) : (s.setTg c k g).tg c j = s.tg c j := by
  have e := (s.core c).tg_set (k := k) h
  rw [State.tg, State.setTg, s.core_onCore (Core.ne_of_tg h e)]
  exact (s.core c).tg_set_other g hj
/-- A group of another core. -/
theorem State.tg_setTg_core (s : State) {c d k j : Nat} (g : Tg) (hd : d ≠ c) : (s.setTg c k g).tg d j = s.tg d j := by
  rw [State.tg, State.setTg, s.core_onCore_other _ hd]; rfl

/-! ## The canonical forms -/

theorem State.cores_wf_setCore {s : State} (h : mwf {} s.cores = true) (c : Nat) (x : Core) : mwf {} (s.setCore c x).cores = true := mwf_mset h c x
theorem State.cores_wf_onCore {s : State} (h : mwf {} s.cores = true) (c : Nat) (f : Core → Core) : mwf {} (s.onCore c f).cores = true :=
  mwf_mset h c _
/-- A write of home memory keeps its canonical form. -/
theorem State.mem_wf_physWrite {s : State} (h : Memory.wf s.mem = true) (a : Nat) (l : List Byte) : Memory.wf (s.physWrite a l).mem = true :=
  mwf_mwrite l h a
/-- Bytes of home memory zeroed keep it. -/
theorem State.mem_wf_zeroFill {s : State} (h : Memory.wf s.mem = true) (a n : Nat) : Memory.wf (s.zeroFill a n).mem = true :=
  mwfFrom_filter _ h
/-- The merge of a compressed block keeps it. -/
theorem State.mem_wf_merge {s : State} (h : Memory.wf s.mem = true) (a ew : Nat) : Memory.wf (s.merge a ew).mem = true :=
  State.mem_wf_physWrite h _ _
/-- A write at any place keeps both memories' form. -/
theorem State.mem_wf_locWrite {s : State} (h : Memory.wf s.mem = true ∧ Memory.wf s.peerMem = true) (l : Loc) (d : List Byte) :
    Memory.wf (s.locWrite l d).mem = true ∧ Memory.wf (s.locWrite l d).peerMem = true := by
  have key : ∀ t : State, (Memory.wf t.mem = true ∧ Memory.wf t.peerMem = true) → ∀ p : Page,
      Memory.wf (if !p.c then t else if p.au then t.merge p.phys p.ew
        else if t.dirty.any (fun l => l.1 = p.phys / 128) then t else { t with dirty := (p.phys / 128, p.ew) :: t.dirty }).mem = true ∧
      Memory.wf (if !p.c then t else if p.au then t.merge p.phys p.ew
        else if t.dirty.any (fun l => l.1 = p.phys / 128) then t else { t with dirty := (p.phys / 128, p.ew) :: t.dirty }).peerMem = true := by
    intro t ht p
    by_cases h1 : (!p.c) = true
    · rw [if_pos h1]; exact ht
    rw [if_neg h1]
    by_cases h2 : p.au = true
    · rw [if_pos h2]; exact ⟨State.mem_wf_merge ht.1 _ _, ht.2⟩
    rw [if_neg h2]
    by_cases h3 : (t.dirty.any fun l => l.1 = p.phys / 128) = true
    · rw [if_pos h3]; exact ht
    · rw [if_neg h3]; exact ht
  cases l with
  | phys p =>
    refine key _ ?_ p
    by_cases h4 : d.length = 128
    · rw [if_pos h4]; exact ⟨State.mem_wf_physWrite h.1 _ _, h.2⟩
    · rw [if_neg h4]; exact ⟨State.mem_wf_physWrite h.1 _ _, h.2⟩
  | scr c o =>
    simp only [State.locWrite]
    by_cases h4 : d.length = 128
    · rw [if_pos h4]; exact h
    · rw [if_neg h4]; exact h
  | far va => exact ⟨h.1, mwf_mwrite d h.2 va⟩
/-- A write by the hardware itself at a home line keeps both memories' form. -/
theorem State.mem_wf_homeWrite {s : State} (h : Memory.wf s.mem = true ∧ Memory.wf s.peerMem = true) (p : Page) (d : List Byte) :
    Memory.wf (s.homeWrite p d).mem = true ∧ Memory.wf (s.homeWrite p d).peerMem = true :=
  ⟨(State.mem_wf_locWrite h (.phys p) d).1, h.2⟩
/-- A frame's lines written keep both. -/
theorem State.mem_wf_frameWrite (l : List Page) {s : State} (h : Memory.wf s.mem = true ∧ Memory.wf s.peerMem = true) (b : List Byte) :
    Memory.wf (s.frameWrite l b).mem = true ∧ Memory.wf (s.frameWrite l b).peerMem = true := by
  induction l generalizing s b with
  | nil => exact h
  | cons p l ih => exact ih (State.mem_wf_homeWrite h p _) _
theorem State.mem_wf_reset : Memory.wf State.reset.mem = true ∧ Memory.wf State.reset.peerMem = true := ⟨rfl, rfl⟩

/-- A byte after bytes of home memory were written. -/
theorem State.byteAt_physWrite {s : State} (h : Memory.wf s.mem = true) (a x : Nat) (l : List Byte) :
    (s.physWrite a l).byteAt x = if a ≤ x ∧ x < a + l.length then l.getD (x - a) 0 else s.byteAt x :=
  mget_mwrite l h a x
/-- The bytes that were written. -/
theorem State.physBytes_physWrite {s : State} (h : Memory.wf s.mem = true) (a : Nat) (l : List Byte) :
    (s.physWrite a l).physBytes a l.length = l :=
  mbytes_mwrite l h a

end Sys2Proof.Machine
end

