-- ==== Sys2Proof/Laws/Images.lean ====
section
/-! SUPPORT. What a digest and a saved image's header are, whatever the body holds (R405, R407). -/

namespace Sys2Proof.Machine

theorem shaRounds_length (l : List (Word × Word)) (v : List Word) : (shaRounds l v).length = v.length := by
  induction l, v using shaRounds.induct with
  | case1 k w l a b c d e f g h t u ih => simpa [shaRounds] using ih
  | case2 l v hv =>
    unfold shaRounds; split
    · exact (hv _ _ _ _ _ _ _ _ _ _ _ rfl rfl).elim
    · rfl

theorem shaBlocks_length (n : Nat) (l : List Byte) (h : List Word) : (shaBlocks n l h).length = h.length := by
  induction n generalizing l h with
  | zero => rfl
  | succ n ih => simp [shaBlocks, ih, shaRounds_length]

/-- A digest has 32 bytes. -/
@[simp] theorem sha256_length (l : List Byte) : (sha256 l).length = 32 := by
  have h : ∀ w : List Word, (w.flatMap fun x => (leBytes 4 x.toNat).reverse).length = 4 * w.length := fun w => by
    induction w with
    | nil => rfl
    | cons x w ih => simp [ih]; omega
  simp [sha256, h, shaBlocks_length, shaH]

/-- The header of an image has 128 bytes. -/
@[simp] theorem Img.fields_length (i : Img) : i.fields.length = 128 := by simp [Img.fields]

/-! ## A header -/

/-- The header has as many bytes as its fields. -/
@[simp] theorem Img.header_length (i : Img) : i.header.length = 128 := by simp [Img.header]

/-- BDIGEST is zero among the fields. -/
theorem Img.fields_split (i : Img) : i.fields.take 80 ++ List.replicate 32 0 ++ i.fields.drop 112 = i.fields := by
  simp [Img.fields, leBytes]

/-- The fields of an image's header. -/
@[simp] theorem headerFields_header (i : Img) : headerFields i.header = i.fields := by
  have h : (i.fields.take 80).length = 80 := by simp
  have hd : (i.fields.take 80 ++ sha256 i.body).length = 112 := by simp
  rw [headerFields, Img.header, List.drop_left' hd, List.append_assoc (i.fields.take 80), List.take_left' h, i.fields_split]

/-- A header gives its body's digest. -/
@[simp] theorem header_digest (i : Img) : (i.header.drop 80).take 32 = sha256 i.body := by
  rw [Img.header, List.append_assoc, List.drop_left' (by simp), List.take_left' (by simp)]

/-- A header gives its body's length. -/
theorem fieldAt_header (i : Img) : fieldAt i.header 40 8 = i.body.length % 2 ^ 64 := by
  have h : (i.header.drop 40).take 8 = leBytes 8 i.body.length := by simp [Img.header, Img.fields, leBytes]
  have e : 256 ^ 8 = 2 ^ 64 := rfl
  rw [fieldAt, h, leNat_leBytes, e]

/-! ## The length of a body -/

@[simp] theorem Block.bytes_length (b : Block) : b.bytes.length = 16 + b.body.length := by
  simp only [Block.bytes, List.length_append, leBytes_length, List.length_replicate]

/-- A list laid out in parts of one length. -/
theorem flatMap_length {α β : Type} {f : α → List β} {n : Nat} (h : ∀ x, (f x).length = n) (l : List α) :
    (l.flatMap f).length = l.length * n := by
  induction l with
  | nil => simp
  | cons x l ih => simp [h, ih, Nat.add_mul, Nat.add_comm]

/-- Block 6 has one length. -/
@[simp] theorem Saved.scratchBody_length (v : Saved) : v.scratchBody.length = 525408 := by
  have h (f : Nat → List Byte) (n k : Nat) (hf : ∀ x, (f x).length = n) : ((List.range k).flatMap f).length = k * n := by
    rw [flatMap_length hf, List.length_range]
  unfold Saved.scratchBody
  simp only [List.length_append, mbytes_length, bitsBytes, List.length_map, List.length_range]
  rw [h _ 8 16 fun x => by simp, h _ 24 16 fun x => h _ 8 3 fun k => by simp, flatMap_length (n := 8) fun x => by simp]
  rfl

/-! ## Images in firmware memory -/

/-- A part of the bytes that were written. -/
theorem mbytes_mwrite_part {d : Byte} (l : List Byte) {m : NMap Byte} (h : mwf d m = true) (a k n : Nat) (hl : k + n ≤ l.length) :
    mbytes d (mwrite d m a l) (a + k) n = (l.drop k).take n := by
  apply List.ext_getElem (by simp; omega)
  intro j h1 h2
  simp at h1
  rw [mbytes_getElem, mget_mwrite l h]
  simp [show a + k + j < a + l.length by omega, show a + k + j - a = k + j by omega, show k + j < l.length by omega, show a ≤ a + k + j by omega]

section
variable {s : State} (h : Memory.wf s.mem = true) {i : Img} (hb : i.body.length ≤ imageSize - 128)
include h

/-- The header of an image that was written. -/
theorem State.imageHeader_storeImage : (s.storeImage i).imageHeader i = i.header := by
  have e : i.bytes.take imageSize = i.header ++ i.body.take (imageSize - 128) := by
    rw [Img.bytes, List.take_append, Img.header_length, List.take_of_length_le (by rw [Img.header_length]; decide)]
  have p := mbytes_mwrite_part (i.bytes.take imageSize) h i.phys 0 128 (by rw [e, List.length_append, Img.header_length]; omega)
  rw [State.imageHeader, State.storeImage, State.physBytes, State.physWrite]
  rw [Nat.add_zero] at p
  rw [p, e, List.drop_zero, List.take_left' i.header_length]

include hb

/-- The body of an image that was written, if it has room. -/
theorem State.imageBody_storeImage : (s.storeImage i).imageBody i = i.body := by
  have hz : imageSize - 128 < 2 ^ 64 := by decide
  have e : i.bytes.take imageSize = i.bytes := List.take_of_length_le (by
    have : 128 ≤ imageSize := by decide
    simp [Img.bytes]; omega)
  have p := mbytes_mwrite_part i.bytes h i.phys 128 i.body.length (by simp [Img.bytes])
  rw [State.imageBody, State.imageHeader_storeImage h, fieldAt_header, Nat.mod_eq_of_lt (Nat.lt_of_le_of_lt hb hz),
    show Nat.min i.body.length (imageSize - 128) = i.body.length from Nat.min_eq_left hb, State.storeImage, e]
  rw [State.physBytes, State.physWrite, p]
  simp [Img.bytes]

/-- An image that was written, and that no damage has met, carries the digest of its body. -/
theorem State.digestOk_storeImage (hd : s.damage = []) : (s.storeImage i).digestOk i = true := by
  have he : ∀ n, (s.storeImage i).imageDamaged i 128 n = false := fun n => by simp [State.imageDamaged, State.storeImage, hd]
  simp [State.digestOk, State.imageHeader_storeImage h, State.imageBody_storeImage h hb, he]

end

end Sys2Proof.Machine
end

