-- ==== Sys2Proof/Laws/Ops.lean ====
section
/-! SUPPORT. What the shared operations do, once each: finishing an instruction, the wrong engine, the shapes of lane and
Spur instructions, traps and the entries they leave. -/

namespace Sys2Proof.Machine

/-! ## Finishing an instruction -/

/-- A group with its arm's PC and park state replaced is in use as it was. -/
theorem Tg.goesTo_used (g : Tg) (arm : Bool) (pc : DWord) : (g.goesTo arm pc).used = g.used := by
  unfold Tg.goesTo Tg.setPark Tg.setArmPc
  cases g.div <;> rfl

/-- An actor that has issued one more instruction is no unlisted actor. -/
theorem Actor.issued_ne (x : Actor) : x.issued ≠ {} := Actor.ne_of_pos (Nat.succ_pos _)

/-- The issue point of an actor moves. -/
theorem State.actor_bump (s : State) (a : Nat) : (s.bump a).actor a = (s.actor a).issued :=
  s.actor_onActor (Actor.issued_ne (s.actor a))

/-- The issue points of the others stay. -/
theorem State.actor_bump_other (s : State) {a b : Nat} (h : b ≠ a) : (s.bump a).actor b = s.actor b :=
  s.actor_onActor_other _ h

/-- A Spur instruction that is done: the PC moves, the issue point moves, and nothing else changes. -/
theorem State.spurNext_acts {s : State} {c : Nat} (h : (s.core c).spur.run = .run) (pc : DWord) :
    SpurActs s (s.spurNext c pc) c { (s.core c).spur with pc := pc } (s.actor (spurActor c)).issued := by
  refine ⟨rfl, fun k hk => ?_, fun b hb => State.actor_bump_other _ hb, ?_, State.actor_bump _ _⟩
  · exact State.core_onCore_other s (fun d => { d with spur := { d.spur with pc := pc, run := if d.spur.run = .run || d.spur.run = .parkFault then d.spur.run else .run } }) hk
  have e := s.core_onCore (c := c) (f := fun d => { d with spur := { d.spur with pc := pc, run := if d.spur.run = .run || d.spur.run = .parkFault then d.spur.run else .run } })
    (by simp [h])
  simpa [State.spurNext, State.onSpur, h] using e

/-- A Spur instruction that changes the Spur's registers and is done. -/
theorem State.spurDone_acts {s : State} {c : Nat} {f : Spur → Spur} (hr : (f (s.core c).spur).run = .run) (units : Nat) :
    SpurActs s (s.spurDone c units f) c (Spur.past (f (s.core c).spur) units (f (s.core c).spur)) (s.actor (spurActor c)).issued := by
  have e : (s.onSpur c f).core c = { s.core c with spur := f (s.core c).spur } :=
    s.core_onCore (Core.ne_of_run (by simp [hr]))
  have hr' : ((s.onSpur c f).core c).spur.run = .run := by rw [e]; exact hr
  obtain ⟨-, k2, -, k4, k5⟩ := State.spurNext_acts hr' (((s.onSpur c f).core c).spur.pc + BitVec.ofNat 64 (4 * units))
  refine ⟨rfl, fun k hk => (k2 k hk).trans (State.core_onCore_other s _ hk), fun b hb => State.actor_bump_other _ hb, ?_, k5⟩
  rw [e] at k4
  simpa [State.spurDone, State.spurSkip, Spur.past, e] using k4

/-- A core whose group is replaced keeps everything but its groups. -/
theorem State.core_setTg (s : State) {c k : Nat} {g : Tg} (h : g ≠ {}) :
    (s.setTg c k g).core c = { s.core c with tgs := ((s.setTg c k g).core c).tgs } := by
  have e := (s.core c).tg_set (k := k) h
  have q : (s.setTg c k g).core c = { s.core c with tgs := mset {} (s.core c).tgs k g } :=
    s.core_onCore (f := fun d => { d with tgs := mset {} d.tgs k g }) (Core.ne_of_tg h e)
  rw [q]

/-- The other cores are as they were. -/
theorem State.core_setTg_other (s : State) {c k j : Nat} (g : Tg) (h : j ≠ c) : (s.setTg c k g).core j = s.core j :=
  s.core_onCore_other (fun d => { d with tgs := mset {} d.tgs k g }) h

/-- A group's instruction that is done: its arm goes on at a PC, the issue point moves, and nothing else changes. -/
theorem State.tgNext_acts {s : State} {c k : Nat} (h : (s.tg c k).used = true) (arm : Bool) (pc : DWord) :
    TgActs s (s.tgNext c k arm pc) c k ((s.tg c k).goesTo arm pc) (s.actor (tgActor c k)).issued := by
  have hg : (s.tg c k).goesTo arm pc ≠ {} := Tg.ne_of_used ((Tg.goesTo_used _ _ _).trans h)
  have eq : s.tgNext c k arm pc = (s.setTg c k ((s.tg c k).goesTo arm pc)).bump (tgActor c k) := rfl
  rw [eq]
  exact ⟨rfl, fun j hj => State.core_setTg_other s _ hj, fun b hb => State.actor_bump_other _ hb, State.core_setTg s hg,
    fun j hj => State.tg_setTg_other s hg hj, State.tg_setTg s hg, State.actor_bump _ _⟩

/-- A group's instruction that replaces its registers and is done. -/
theorem State.tgDone_acts {s : State} {c k : Nat} {g : Tg} (h : g.used = true) (arm : Bool) (units : Nat) :
    TgActs s (s.tgDone c k arm units g) c k (g.past arm units g) (s.actor (tgActor c k)).issued := by
  have e : (s.setTg c k g).tg c k = g := State.tg_setTg s (Tg.ne_of_used h)
  obtain ⟨-, k2, -, k4, k5, k6, k7⟩ := State.tgNext_acts (s := s.setTg c k g) (c := c) (k := k) (by rw [e]; exact h) arm
    (((s.setTg c k g).tg c k).armPc arm + BitVec.ofNat 64 (4 * units))
  have hc := s.core_setTg (c := c) (k := k) (Tg.ne_of_used h)
  refine ⟨rfl, fun j hj => (k2 j hj).trans (State.core_setTg_other s g hj), fun b hb => State.actor_bump_other _ hb, ?_,
    fun j hj => (k5 j hj).trans (State.tg_setTg_other s (Tg.ne_of_used h) hj), k6.trans (by rw [e]; rfl), k7⟩
  rw [hc] at k4
  exact k4

/-- A Spur step leaves every byte as it was. -/
theorem SpurActs.keepsBytes {s t : State} {c : Nat} {p : Spur} {x : Actor} (h : SpurActs s t c p x) : KeepsBytes s t := by
  obtain ⟨hd, ho, -, hc, -⟩ := h
  refine ⟨fun a => by rw [hd]; rfl, fun a => by rw [hd], fun k off => ?_⟩
  by_cases hk : k = c
  · rw [hk, hc]
  · rw [ho k hk]

/-- A group's step leaves every byte as it was. -/
theorem TgActs.keepsBytes {s t : State} {c k : Nat} {g : Tg} {x : Actor} (h : TgActs s t c k g x) : KeepsBytes s t := by
  obtain ⟨hd, ho, -, hc, -⟩ := h
  refine ⟨fun a => by rw [hd]; rfl, fun a => by rw [hd], fun j off => ?_⟩
  by_cases hj : j = c
  · rw [hj, hc]
  · rw [ho j hj]

/-! ## The issuing agent -/

/-- The engine without the instruction answers a next state. -/
theorem wrongEngine_next (units : Nat) (s : State) : ∃ t, wrongEngine units s = .next t := by
  unfold wrongEngine; cases s.who <;> exact ⟨_, rfl⟩

/-- A Spur that meets a lane instruction takes WRONG_ENGINE (R90). -/
theorem onLane_spur {s : State} {c : Nat} (h : s.who = .spur c) (units : Nat) (f : Nat → Nat → Bool → State) :
    onLane units s f = .next (s.spurTrap c cWrongEngine 0) := by simp [onLane, wrongEngine, h]

/-- A group that meets a Spur instruction takes WRONG_ENGINE (R90). -/
theorem onScalar_tg {s : State} {c k : Nat} {arm : Bool} (h : s.who = .tg c k arm) (units : Nat) (f : Nat → State) :
    onScalar units s f = .next (s.tgCause c k arm units cWrongEngine) := by simp [onScalar, wrongEngine, h]

/-- A lane instruction of a group. -/
theorem onLane_tg {s : State} {c k : Nat} {arm : Bool} (h : s.who = .tg c k arm) (units : Nat) (f : Nat → Nat → Bool → State) :
    onLane units s f = .next (f c k arm) := by simp [onLane, h]

/-- A Spur instruction of a Spur. -/
theorem onScalar_spur {s : State} {c : Nat} (h : s.who = .spur c) (units : Nat) (f : Nat → State) :
    onScalar units s f = .next (f c) := by simp [onScalar, h]

/-- A lane instruction always answers a next state. -/
theorem onLane_next (units : Nat) (s : State) (f : Nat → Nat → Bool → State) : ∃ t, onLane units s f = .next t := by
  unfold onLane wrongEngine; cases s.who <;> exact ⟨_, rfl⟩

/-- A Spur instruction always answers a next state. -/
theorem onScalar_next (units : Nat) (s : State) (f : Nat → State) : ∃ t, onScalar units s f = .next t := by
  unfold onScalar wrongEngine; cases s.who <;> exact ⟨_, rfl⟩

/-! ## The shapes of instructions -/

/-- A destination that is written keeps the Spur's run state and PC. -/
theorem Spur.put_run (p : Spur) (d : Dst) (v : DWord) : (p.put d v).run = p.run ∧ (p.put d v).pc = p.pc := by
  unfold Spur.put Spur.setReg
  repeat' split
  all_goals exact ⟨rfl, rfl⟩

/-- A Spur instruction with a result: the destination is written where the guard holds (R139). -/
theorem spurCalc_acts {s : State} {c : Nat} (hw : s.who = .spur c) (hr : (s.core c).spur.run = .run) (h : Hd) (d : Dst)
    (f : Spur → DWord) :
    ∃ t, spurCalc h d f s = .next t ∧
      SpurActs s t c ((s.core c).spur.past (hdLen h)
        (if (s.core c).spur.guard h then (s.core c).spur.put d (f (s.core c).spur) else (s.core c).spur))
        (s.actor (spurActor c)).issued := by
  refine ⟨_, onScalar_spur hw _ _, ?_⟩
  have q := State.spurDone_acts (s := s) (c := c)
    (f := fun q => if q.guard h then q.put d (f q) else q) (by
      by_cases g : (s.core c).spur.guard h = true
      · simp only [if_pos g, (Spur.put_run _ _ _).1, hr]
      · simp only [if_neg g, hr]) (hdLen h)
  by_cases g : (s.core c).spur.guard h = true
  · simpa [State.spurDone, State.onSpur, State.onCore, Spur.past, g, (Spur.put_run _ _ _).2] using q
  · simpa [State.spurDone, State.onSpur, State.onCore, Spur.past, g] using q

/-- A lane instruction with integer results whose threads have no cause: the destinations of the contributing threads are
written, and with a uniform header the one destination of the group (R173, R198). -/
theorem laneCalc_acts {s : State} {c k : Nat} {arm : Bool} (hw : s.who = .tg c k arm) (h : Hd) (units : Nat) (wide : Bool)
    (d : Dst) (f : Tg → Nat → DWord) (ext : DWord → DWord)
    (hu : (if h.u then (if (maskOf fun i => (s.tg c k).leadGuard arm h.pred h.pn && i = (s.tg c k).lead arm) = 0 then s.tg c k
        else (s.tg c k).putUniform d (ext (f (s.tg c k) ((s.tg c k).lead arm))))
      else (s.tg c k).putLanes wide (s.nextPos (tgActor c k)) ((s.tg c k).contrib arm h.pred h.pn) d (f (s.tg c k))).used = true) :
    ∃ t g, laneCalc h units wide d noCause f ext s = .next t ∧ TgActs s t c k (g.past arm units g) (s.actor (tgActor c k)).issued ∧
      g = (if h.u then (if (maskOf fun i => (s.tg c k).leadGuard arm h.pred h.pn && i = (s.tg c k).lead arm) = 0 then s.tg c k
          else (s.tg c k).putUniform d (ext (f (s.tg c k) ((s.tg c k).lead arm))))
        else (s.tg c k).putLanes wide (s.nextPos (tgActor c k)) ((s.tg c k).contrib arm h.pred h.pn) d (f (s.tg c k))) := by
  have noErr : ∀ l : List Nat, (l.filterMap fun i => if noCause (s.tg c k) i = 0 then none else some (i, noCause (s.tg c k) i)) = [] := by
    intro l; simp [noCause]
  refine ⟨_, _, onLane_tg hw _ _, ?_, rfl⟩
  by_cases u : h.u = true
  · simpa [noErr, u] using State.tgDone_acts (s := s) (c := c) (k := k) (by simpa [u] using hu) arm units
  · simpa [noErr, u] using State.tgDone_acts (s := s) (c := c) (k := k) (by simpa [u] using hu) arm units

/-! ## Traps -/

/-- Both memories of a state are in canonical form. -/
theorem State.memOk_iff (s : State) : s.memOk = true ↔ Memory.wf s.mem = true ∧ Memory.wf s.peerMem = true := Bool.and_eq_true_iff

/-- A change of any cores touches no memory. -/
theorem State.foldCores_mem (p : Nat → Bool) (f : Core → Core) (l : List Nat) (s : State) :
    (l.foldl (fun s c => if s.corePresent c && p c then s.onCore c f else s) s).mem = s.mem ∧
    (l.foldl (fun s c => if s.corePresent c && p c then s.onCore c f else s) s).peerMem = s.peerMem := by
  induction l generalizing s with
  | nil => exact ⟨rfl, rfl⟩
  | cons a l ih =>
    rw [List.foldl_cons]
    by_cases g : (s.corePresent a && p a) = true
    · rw [if_pos g]; exact ih (s.onCore a f)
    · rw [if_neg g]; exact ih s

/-- Every core changed is a list of cores changed. -/
theorem State.onAllCores_eq (s : State) (p : Nat → Bool) (f : Core → Core) :
    ∃ l : List Nat, s.onAllCores p f = l.foldl (fun s c => if s.corePresent c && p c then s.onCore c f else s) s :=
  ⟨List.range 768, State.onAllCores.eq_1 s p f⟩

/-- A change of every core touches no memory. -/
theorem State.onAllCores_mem (s : State) (p : Nat → Bool) (f : Core → Core) :
    (s.onAllCores p f).mem = s.mem ∧ (s.onAllCores p f).peerMem = s.peerMem := by
  obtain ⟨l, e⟩ := s.onAllCores_eq p f
  rw [e]
  exact State.foldCores_mem p f l s

/-- What the recorded lines and the cores do not touch, an asserted line keeps. -/
theorem State.assertLine_keeps {P : State → Prop} (h1 : ∀ t x, P t → P { t with asserted := x }) (h2 : ∀ t x, P t → P { t with pins := x })
    (h3 : ∀ t q f, P t → P (State.onAllCores t q f)) (h4 : ∀ t x, P t → P { t with captured := x }) {s : State} (h : P s) (n : Nat) : P (s.assertLine n) := by
  have ite : ∀ (b : Prop) [Decidable b] (u v : State), P u → P v → P (if b then u else v) := by
    intro b _ u v hu hv
    by_cases hb : b
    · rw [if_pos hb]; exact hu
    · rw [if_neg hb]; exact hv
  unfold State.assertLine
  refine ite _ _ _ h ?_
  extract_lets s1 cap s2 s3
  have e1 : P s1 := ite _ _ _ (h1 _ _ h) h
  have e2 : P s2 := by
    unfold s2
    cases cap with
    | none => exact e1
    | some k => exact h4 _ _ (h3 _ _ _ e1)
  have e3 : P s3 := ite _ _ _ (h3 _ _ _ e2) e2
  exact ite _ _ _ (h2 _ _ e3) e3

/-- An asserted line touches no memory. -/
theorem State.assertLine_mem (s : State) (n : Nat) : (s.assertLine n).mem = s.mem ∧ (s.assertLine n).peerMem = s.peerMem :=
  State.assertLine_keeps (P := fun t => t.mem = s.mem ∧ t.peerMem = s.peerMem) (fun _ _ h => h) (fun _ _ h => h)
    (fun t q f h => ⟨(t.onAllCores_mem q f).1.trans h.1, (t.onAllCores_mem q f).2.trans h.2⟩) (fun _ _ h => h) ⟨rfl, rfl⟩ n

/-- Nor does an event that drives lines. -/
theorem State.driveSrc_mem (s : State) (k : Nat) : (s.driveSrc k).mem = s.mem ∧ (s.driveSrc k).peerMem = s.peerMem := by
  rw [State.driveSrc]
  generalize List.range 32 = l
  induction l generalizing s with
  | nil => exact ⟨rfl, rfl⟩
  | cons n l ih =>
    rw [List.foldl_cons]
    by_cases g : (s.lineOn n && s.lineSrc n k) = true
    · rw [if_pos g]; exact ⟨(ih _).1.trans (s.assertLine_mem n).1, (ih _).2.trans (s.assertLine_mem n).2⟩
    · rw [if_neg g]; exact ih s

/-- A ring entry stored: the entry stands at the ring's next place, and the write index has moved (R414). -/
theorem State.ringStore_some {s t : State} {l : List Byte} (h : s.ringStore l = some t) :
    s.ring.room = true ∧ ∃ a, s.ringPage 0 ((s.ring.base.extractLsb' 12 44).toNat * 4096 + 64 * (s.ring.widx % 2 ^ s.ring.logn)) = some a ∧
      t = { s.homeWrite a l with ring := { s.ring with ctl := s.ring.ctl.extractLsb' 17 47 ++ BitVec.ofNat 17 (s.ring.widx + 1) } } := by
  unfold State.ringStore at h
  by_cases g : s.ring.room = true
  · simp only [g, Bool.not_true, Bool.false_eq_true, if_false] at h
    split at h
    · cases h
    · rename_i a ha
      exact ⟨g, a, ha, (Option.some.inj h).symm⟩
  · simp [g] at h

/-- A posted entry waits for a saddle's end, or is stored and drives the lines of its source, or is lost; where it is not stored,
memory and every core are as they were (R414, R447). -/
theorem State.post_cases (s : State) (p : RingPost) :
    (s.drained? = true ∧ s.post p = { s with heldPosts := s.heldPosts ++ [(p, s.refTime)] }) ∨
    (∃ t, s.ringStore (p.bytes s.refTime) = some t ∧ s.post p = t.driveSrc 2) ∨
    (s.ringStore (p.bytes s.refTime) = none ∧ ∃ r, s.post p = { s with ring := r }) := by
  rw [State.post]
  by_cases g : s.drained? = true
  · exact .inl ⟨g, if_pos g⟩
  · rw [if_neg g, State.postNow]
    refine .inr ?_
    cases s.ringStore (p.bytes s.refTime) with
    | some t => exact .inl ⟨t, rfl, rfl⟩
    | none => exact .inr ⟨rfl, by dsimp only; split <;> exact ⟨_, rfl⟩⟩

/-- A stored entry keeps the memories' canonical form. -/
theorem State.memOk_ringStore {s t : State} (h : s.memOk = true) {l : List Byte} (e : s.ringStore l = some t) : t.memOk = true := by
  obtain ⟨-, a, -, rfl⟩ := State.ringStore_some e
  rw [State.memOk_iff] at h ⊢
  exact State.mem_wf_homeWrite (s := s) h a l

/-- An event that drives lines keeps it. -/
theorem State.memOk_driveSrc {s : State} (h : s.memOk = true) (k : Nat) : (s.driveSrc k).memOk = true := by
  rw [State.memOk_iff] at h ⊢
  rw [(State.driveSrc_mem _ _).1, (State.driveSrc_mem _ _).2]
  exact h

/-- A posted entry keeps it. -/
theorem State.memOk_post {s : State} (h : s.memOk = true) (p : RingPost) : (s.post p).memOk = true := by
  obtain ⟨-, e⟩ | ⟨t, ht, e⟩ | ⟨-, _, e⟩ := s.post_cases p
  · rw [e]; exact h
  · rw [e]; exact State.memOk_driveSrc (State.memOk_ringStore h ht) 2
  · rw [e]; exact h

/-- A trace record is dropped, or stored at a place of home memory; nothing else but the core's trace index changes. -/
theorem State.traceStore_cases (s : State) (core : Nat) (r : List Byte) :
    ∃ v, s.traceStore core r = s.onCore core (fun k => { k with csr := { k.csr with trcidx := v } }) ∨
      ∃ a, s.traceStore core r = (s.homeWrite a r).onCore core (fun k => { k with csr := { k.csr with trcidx := v } }) := by
  unfold State.traceStore
  dsimp only
  split
  · exact ⟨_, .inl rfl⟩
  · split
    · exact ⟨_, .inl rfl⟩
    · exact ⟨_, .inr ⟨_, rfl⟩⟩

/-- A trace record keeps the memories' canonical form. -/
theorem State.memOk_trace {s : State} (h : s.memOk = true) (core kind actor : Nat) (spc seq : DWord) (value aux : Nat) :
    (s.trace core kind actor spc seq value aux).memOk = true := by
  rw [State.memOk_iff] at h ⊢
  unfold State.trace
  split
  · obtain ⟨v, e | ⟨a, e⟩⟩ := s.traceStore_cases core (traceBytes s.refTime (s.cyclesOf core) kind actor spc seq value aux)
    · rw [e, State.onCore_mem, State.onCore_peerMem]; exact h
    · rw [e, State.onCore_mem, State.onCore_peerMem]; exact State.mem_wf_homeWrite h _ _
  · exact h

/-- A change of cores keeps it. -/
theorem State.memOk_onCore (s : State) (c : Nat) (f : Core → Core) : (s.onCore c f).memOk = s.memOk := rfl

/-- A change of a Spur keeps it. -/
theorem State.memOk_onSpur (s : State) (c : Nat) (f : Spur → Spur) : (s.onSpur c f).memOk = s.memOk := rfl

/-- A change of a group keeps it. -/
theorem State.memOk_onTg (s : State) (c k : Nat) (f : Tg → Tg) : (s.onTg c k f).memOk = s.memOk := rfl

/-- A trap of the Spur keeps it. -/
theorem State.memOk_spurTrap {s : State} (h : s.memOk = true) (c cause : Nat) (addr : DWord) : (s.spurTrap c cause addr).memOk = true := by
  rw [State.spurTrap]
  refine State.memOk_post ?_ _
  rw [State.memOk_onSpur]
  exact State.memOk_trace h _ _ _ _ _ _ _

/-- A trap that goes to firmware keeps it. -/
theorem State.memOk_tgService {s : State} (h : s.memOk = true) (c k : Nat) (arm : Bool) (f : Frame) : (s.tgService c k arm f).memOk = true := by
  rw [State.tgService]
  refine State.memOk_post ?_ _
  rw [State.memOk_onTg]
  exact State.memOk_trace h _ _ _ _ _ _ _

/-- A trap delivered locally keeps it. -/
theorem State.memOk_tgHandler {s : State} (h : s.memOk = true) (c k : Nat) (f : Frame) (lines : List Page) (va : Nat) :
    (s.tgHandler c k f lines va).memOk = true := by
  have h1 : (s.frameWrite lines f.bytes).memOk = true := by
    rw [State.memOk_iff] at h ⊢
    exact State.mem_wf_frameWrite _ h _
  unfold State.tgHandler
  exact (State.memOk_onCore _ _ _).trans (State.memOk_trace h1 _ _ _ _ _ _ _)

/-- Everything a trap of a group can do: wait, enter handler mode with its frame stored at the group's frame address, or go to
firmware (R189 to R193). -/
theorem State.tgTrap_cases (s : State) (c k : Nat) (arm : Bool) (x : TrapInfo) :
    s.tgTrap c k arm x = s ∨
    (∃ lines, s.framePages (s.asidOf c) ((s.core c).csr.frameVa k) = some lines ∧ (s.tg c k).frame = none ∧
      (s.core c).csr.delivers x.cause = true ∧
      s.tgTrap c k arm x = s.tgHandler c k (mkFrame (s.tg c k) (tgActor c k) arm x) lines ((s.core c).csr.frameVa k)) ∨
    (∃ ff, s.tgTrap c k arm x = s.tgService c k arm { mkFrame (s.tg c k) (tgActor c k) arm x with frameFail := ff }) := by
  unfold State.tgTrap
  dsimp only
  split
  · exact .inl rfl
  · split
    · rename_i hd
      rw [Bool.and_eq_true, Option.isNone_iff_eq_none] at hd
      split
      · rename_i lines hl
        split
        · exact .inl rfl
        · exact .inr (.inl ⟨lines, hl, hd.1, hd.2, rfl⟩)
      · exact .inr (.inr ⟨true, rfl⟩)
    · exact .inr (.inr ⟨false, rfl⟩)

/-- A trap of a group keeps the memories' canonical form. -/
theorem State.memOk_tgTrap {s : State} (h : s.memOk = true) (c k : Nat) (arm : Bool) (x : TrapInfo) : (s.tgTrap c k arm x).memOk = true := by
  obtain e | ⟨_, -, -, -, e⟩ | ⟨_, e⟩ := s.tgTrap_cases c k arm x
  · rw [e]; exact h
  · rw [e]; exact State.memOk_tgHandler h _ _ _ _ _
  · rw [e]; exact State.memOk_tgService h _ _ _ _

/-- The wrong engine keeps it. -/
theorem memOk_wrongEngine {s t : State} {units : Nat} (h : s.memOk = true) (e : wrongEngine units s = .next t) : t.memOk = true := by
  unfold wrongEngine at e
  split at e <;> cases e
  · exact State.memOk_spurTrap h _ _ _
  · exact State.memOk_tgTrap h _ _ _ _
  · exact h
  · exact h

end Sys2Proof.Machine
end

