-- ==== Sys2Proof/Machine/Tools.lean ====
section
/-! DEFINITION. What the assembler and the linker compute before a file reaches the device: source operands, the shortest
form, data directives, relocations and the link (R97 to R103, R107 to R109). No step of the device uses it; the text of a
source line is outside (log 75). -/

namespace Sys2Proof.Machine

/-! ## Source operands (R98, R99) -/

/-- A value cut to a source's width, kept in 64 bits. -/
def atWidth (w : Nat) (p : DWord) : DWord := BitVec.ofNat 64 (p.toNat % 2 ^ w)

/-- A constant of a source's width: a small immediate where its low 8 bits give it, else the literal, which a 64-bit source
takes only as the sign extension of 32 bits (R99). The second part is the literal that it needs. -/
def asmConst (w : Nat) (v : DWord) : Option (Src × Option Word) :=
  let p := atWidth w v
  if atWidth w ((p.setWidth 8).signExtend 64) = p then some (.imm (p.setWidth 8), none)
  else if w = 64 && (p.setWidth 32).signExtend 64 != p then none
  else some (.lit, some (p.setWidth 32))

/-- An integer expression as an operand of a width (R99 step 1). -/
def asmInt (w : Nat) (v : Int) : Option (Src × Option Word) := asmConst w (BitVec.ofInt 64 v)

/-- A floating-point constant as it is written (R98): a decimal fraction with its sign, an infinity, `nan`, or `bits(…)`. -/
inductive FConst
  | frac (neg : Bool) (n d : Nat)
  | inf (neg : Bool)
  | nan
  | bits (p : Nat)
  deriving DecidableEq, Repr

/-- The magnitude n/d is beyond the largest finite value of a format. -/
def beyondMax (f : Fmt) (n d : Nat) : Bool :=
  match FV.ofBits f false f.maxBits with
  | .fin _ m e => m * 2 ^ e.toNat * d < n * 2 ^ (-e).toNat
  | _ => false

/-- A floating-point constant in a format (R99 step 1): a fraction rounded to nearest even, `nan` the canonical NaN (R50), an
infinity where the format has one, a raw pattern that fits it. A fraction beyond the largest finite value is an error, also
where rounding would bring it back. The quotient carries a sticky bit far below the last place of every format. -/
def asmFloat (f : Fmt) : FConst → Option Nat
  | .frac neg n d =>
    let q := n * 2 ^ 200 / d
    let m := 2 * q + if n * 2 ^ 200 % d = 0 then 0 else 1
    if d = 0 || beyondMax f n d then none else some (f.round { mode := .rne } (.fin neg m (-201))).1
  | .inf neg => if f.hasInf then some (f.expMask + if neg then f.signBit else 0) else none
  | .nan => some f.canon
  | .bits p => if p < 2 * f.signBit then some p else none

/-- The one literal of an instruction: operands that need one must need the same (R99). -/
def asmLiteral : List (Option Word) → Option (Option Word)
  | [] => some none
  | none :: l => asmLiteral l
  | some x :: l =>
    match asmLiteral l with
    | some none => some (some x)
    | some (some y) => if x = y then some (some x) else none
    | none => none

/-- A relocation entry (R108): the symbol is an index into its object's table. -/
structure Reloc where
  offset : Nat
  type : Nat
  sym : Nat
  addend : Int
  deriving DecidableEq, Repr

/-- The 24 bytes of a relocation entry. -/
def Reloc.bytes (r : Reloc) : List Byte :=
  leBytes 8 r.offset ++ leBytes 4 r.type ++ leBytes 4 r.sym ++ leBytes 8 (BitVec.ofInt 64 r.addend).toNat

/-- A relocation entry of a file. -/
def Reloc.ofBytes (bs : List Byte) : Reloc where
  offset := fieldAt bs 0 8
  type := fieldAt bs 8 4
  sym := fieldAt bs 12 4
  addend := (BitVec.ofNat 64 (fieldAt bs 16 8)).toInt

/-- An operand that names a symbol (R99 step 4): the literal, zero until the link, with the relocation of its field, a handler's
ID or a 32-bit value. `at_` is the instruction's offset, whose literal is its third unit. -/
def asmSymbol (handler : Bool) (at_ n : Nat) (addend : Int) : Src × Word × Reloc :=
  (.lit, 0, ⟨at_ + 8, if handler then 4 else 2, n, addend⟩)

/-- The name of a lane register by its specifier (R98). -/
def laneOperand (sp : BitVec 10) : Option String :=
  let i := sp.toNat % 256
  match sp.toNat / 256 with
  | 0 => some ("v" ++ toString i)
  | 1 => if i < 8 then some ("o" ++ toString i) else if i = 8 then some "l0"
    else if 16 ≤ i && i ≤ 22 then some ("p" ++ toString (i - 16)) else none
  | 2 => if i < 32 then some ("g" ++ toString i) else none
  | _ => none

/-- The name of a Spur register by its specifier (R98). -/
def spurOperand (sp : BitVec 10) : Option String :=
  let i := sp.toNat % 256
  match sp.toNat / 256 with
  | 0 => if i < 64 then some ("s" ++ toString i) else none
  | 1 => if i < 7 then some ("q" ++ toString i) else none
  | _ => none

/-- The predicate prefix of a header (R97). -/
def prefixText (lane : Bool) (h : Hd) : String :=
  if h.pred == 7 then "" else "?" ++ (if h.pn then "!" else "") ++ (if lane then "p" else "q") ++ toString h.pred.toNat

/-! ## The shortest form (R100) -/

/-- A header that a compact form can hold. -/
def compactHd (h : Hd) : Bool := !h.u && h.lit.isNone

/-- The compact form of an instruction where R100 allows it, else the instruction. -/
def shortest : Instr → Instr
  | .iadd h .s32 false (.main d) (.main a) .l0 => if compactHd h then .iaddCompact h.pred h.pn d a else .iadd h .s32 false (.main d) (.main a) .l0
  | .isub h .s32 false (.main d) (.main a) .l0 => if compactHd h then .isubCompact h.pred h.pn d a else .isub h .s32 false (.main d) (.main a) .l0
  | .imul h .s32 (.main d) (.main a) .l0 => if compactHd h then .imulCompact h.pred h.pn d a else .imul h .s32 (.main d) (.main a) .l0
  | .imin h .s32 (.main d) (.main a) .l0 => if compactHd h then .iminCompact h.pred h.pn d a else .imin h .s32 (.main d) (.main a) .l0
  | .imax h .s32 (.main d) (.main a) .l0 => if compactHd h then .imaxCompact h.pred h.pn d a else .imax h .s32 (.main d) (.main a) .l0
  | .and h .s32 (.main d) (.main a) .l0 => if compactHd h then .andCompact h.pred h.pn d a else .and h .s32 (.main d) (.main a) .l0
  | .or h .s32 (.main d) (.main a) .l0 => if compactHd h then .orCompact h.pred h.pn d a else .or h .s32 (.main d) (.main a) .l0
  | .xor h .s32 (.main d) (.main a) .l0 => if compactHd h then .xorCompact h.pred h.pn d a else .xor h .s32 (.main d) (.main a) .l0
  | .andn h .s32 (.main d) (.main a) .l0 => if compactHd h then .andnCompact h.pred h.pn d a else .andn h .s32 (.main d) (.main a) .l0
  | .shl h .s32 (.main d) (.main a) .l0 => if compactHd h then .shlCompact h.pred h.pn d a else .shl h .s32 (.main d) (.main a) .l0
  | .shr h .s32 (.main d) (.main a) .l0 => if compactHd h then .shrCompact h.pred h.pn d a else .shr h .s32 (.main d) (.main a) .l0
  | .sar h .s32 (.main d) (.main a) .l0 => if compactHd h then .sarCompact h.pred h.pn d a else .sar h .s32 (.main d) (.main a) .l0
  | .mov h .s32 (.main d) (.main a) => if compactHd h then .movCompact h.pred h.pn d a else .mov h .s32 (.main d) (.main a)
  | .fadd h .f32 (.main d) (.main a) .l0 => if compactHd h then .faddCompact h.pred h.pn d a else .fadd h .f32 (.main d) (.main a) .l0
  | .fsub h .f32 (.main d) (.main a) .l0 => if compactHd h then .fsubCompact h.pred h.pn d a else .fsub h .f32 (.main d) (.main a) .l0
  | .fmul h .f32 (.main d) (.main a) .l0 => if compactHd h then .fmulCompact h.pred h.pn d a else .fmul h .f32 (.main d) (.main a) .l0
  | .fmin h .f32 (.main d) (.main a) .l0 => if compactHd h then .fminCompact h.pred h.pn d a else .fmin h .f32 (.main d) (.main a) .l0
  | .fmax h .f32 (.main d) (.main a) .l0 => if compactHd h then .fmaxCompact h.pred h.pn d a else .fmax h .f32 (.main d) (.main a) .l0
  | .f2add h .f16x2 (.main d) (.main a) .l0 => if compactHd h then .f2addCompact h.pred h.pn d a else .f2add h .f16x2 (.main d) (.main a) .l0
  | .f2mul h .f16x2 (.main d) (.main a) .l0 => if compactHd h then .f2mulCompact h.pred h.pn d a else .f2mul h .f16x2 (.main d) (.main a) .l0
  | .rcp h (.main d) (.main a) => if compactHd h then .rcpCompact h.pred h.pn d a else .rcp h (.main d) (.main a)
  | .rsq h (.main d) (.main a) => if compactHd h then .rsqCompact h.pred h.pn d a else .rsq h (.main d) (.main a)
  | .sqrt h (.main d) (.main a) => if compactHd h then .sqrtCompact h.pred h.pn d a else .sqrt h (.main d) (.main a)
  | .exp2 h (.main d) (.main a) => if compactHd h then .exp2Compact h.pred h.pn d a else .exp2 h (.main d) (.main a)
  | .log2 h (.main d) (.main a) => if compactHd h then .log2Compact h.pred h.pn d a else .log2 h (.main d) (.main a)
  | .sin h (.main d) (.main a) => if compactHd h then .sinCompact h.pred h.pn d a else .sin h (.main d) (.main a)
  | .cos h (.main d) (.main a) => if compactHd h then .cosCompact h.pred h.pn d a else .cos h (.main d) (.main a)
  | .tanh h (.main d) (.main a) => if compactHd h then .tanhCompact h.pred h.pn d a else .tanh h (.main d) (.main a)
  | .nop h => if compactHd h then .nopCompact h.pred h.pn else .nop h
  | i => i

/-- The units that the assembler emits for an instruction of a section, or the error of R101: the shortest form, where no
decode check fails in the section's engine under the declared register count. -/
def assemble (x : Cx) (i : Instr) : Option (List Word) :=
  let us := encode x.eng (shortest i)
  match decode x us with
  | .ok j _ => if j = shortest i then some us else none
  | .trap _ => none

/-! ## Sections (R103) -/

/-- The alignment of a section type (R103); `most` is the largest `.align` of a data section. -/
def sectAlign (type most : Nat) : Nat :=
  match type with
  | 1 | 2 | 3 => 4
  | 4 => 256
  | 5 => 16
  | 6 => Nat.max 8 most
  | 7 => 128
  | 8 => 64
  | 9 => 1
  | _ => 8

/-- The name of a section type (R103). -/
def sectName (type : Nat) : Option String :=
  [".text.spur", ".text.lanes", ".hdl", ".prec", ".cprog", ".data", ".scratch", ".image"][type - 1]?

/-! ## Data directives (R102) -/

/-- An operand of `.byte`, `.half`, `.word` or `.dword`: a number, or a symbol with an addend. -/
inductive DataVal
  | num (v : Int)
  | sym (handler : Bool) (n : Nat) (addend : Int)
  deriving DecidableEq, Repr

/-- A data directive with its operands evaluated. -/
inductive Directive
  | align (n : Nat)
  | space (n : Nat) (fill : Byte)
  | ints (bytes : Nat) (vs : List DataVal)
  | floats (f : Fmt) (vs : List FConst)
  | q4block (scale : Nat) (xs : List FV)
  deriving DecidableEq, Repr

/-- The code of a value in a block (R54): it must be a table entry times the scale exactly. -/
def q4code (scale : Nat) (x : FV) : Option Nat :=
  let same (a b : FV) : Bool := match a, b with
    | .fin n m e, .fin n' m' e' => (n == n' || m = 0) && m * 2 ^ (e - min e e').toNat = m' * 2 ^ (e' - min e e').toNat
    | _, _ => false
  (List.range 16).find? fun c => same x (blockValue (scale / 64) c (scale % 64))

/-- The two codes of a byte, the even one low (R52). -/
def nibbles : List Nat → List Byte
  | a :: b :: l => BitVec.ofNat 8 (16 * b + a) :: nibbles l
  | _ => []

/-- An operand of `bytes` bytes at an offset: a number that fits the width as signed or unsigned; a symbol with its relocation,
lit32 in `.word`, abs64 in `.dword`, a handler's ID in `.byte`. -/
def DataVal.emit (bytes at_ : Nat) : DataVal → Option (List Byte × List Reloc)
  | .num v =>
    if -(2 ^ (8 * bytes - 1) : Int) ≤ v && v < 2 ^ (8 * bytes) then some (leBytes bytes (v % 2 ^ (8 * bytes)).toNat, []) else none
  | .sym handler n a =>
    let type := if bytes = 8 then 1 else if bytes = 4 then 2 else if bytes = 1 && handler then 4 else 0
    if type = 0 then none else some (List.replicate bytes 0, [⟨at_, type, n, a⟩])

/-- Pieces emitted one after the other from an offset: their bytes and relocations, or the error of one of them. -/
def emitSeq {α : Type} (one : Nat → α → Option (List Byte × List Reloc)) : Nat → List α → Option (List Byte × List Reloc)
  | _, [] => some ([], [])
  | at_, x :: l => do
    let (bs, rs) ← one at_ x
    let (bs', rs') ← emitSeq one (at_ + bs.length) l
    pure (bs ++ bs', rs ++ rs')

/-- The bytes and relocations that a directive emits at an offset of a section, or its error. Text sections pad with the compact
NOP. DESIGN CHOICE (log 101): in a text section at an offset that is no multiple of 4, which `.byte` can leave, `.align` emits
as many whole NOP units as fit before the multiple of n, and so stops short of it; R102 names no padding for the rest. -/
def Directive.emit (text : Bool) (at_ : Nat) : Directive → Option (List Byte × List Reloc)
  | .align n =>
    let k := (n - at_ % n) % n
    if !isPow2 n || n > 65536 || (text && n < 4) then none
    else some (if text then (List.replicate (k / 4) (leBytes 4 0x0000383C)).flatten else List.replicate k 0, [])
  | .space n fill => some (List.replicate n fill, [])
  | .ints b vs => emitSeq (DataVal.emit b) at_ vs
  | .floats f vs => (vs.mapM (asmFloat f)).map fun l => (l.flatMap (leBytes ((f.eb + f.fb + 1) / 8)), [])
  | .q4block s xs => if xs.length = 32 then (xs.mapM (q4code s)).map fun l => (nibbles l, []) else none

/-- The 256 bytes of a problem record that `.prec` opens at an offset of its section (R102): its data directives from byte 0,
then zeros; more than 256 bytes are an error. -/
def emitPrec (at_ : Nat) (ds : List Directive) : Option (List Byte × List Reloc) :=
  (emitSeq (Directive.emit false) at_ ds).bind fun p =>
    if p.1.length ≤ 256 then some (p.1 ++ List.replicate (256 - p.1.length) 0, p.2) else none

/-- The register count that `.regs` or `.handler` declares (R102): 1 to 256, rounded up to a multiple of 8. -/
def declaredRegs (n : Nat) : Option Nat := if 1 ≤ n && n ≤ 256 then some ((n + 7) / 8 * 8) else none

/-- AUX of the symbol that `.handler` defines (R102, R106): `id` is none for `auto`. -/
def handlerAux (id : Option Nat) (width regs : Nat) : Option Nat :=
  if (id.all fun i => i ≤ 15) && (width = 16 || width = 32 || width = 64) then
    (declaredRegs regs).map fun r => id.getD 0xFF + 2 ^ 8 * width + 2 ^ 16 * r
  else none

/-! ## Relocations (R108) -/

/-- What a relocation needs of its symbol: its linked value, its handler ID if it is a handler, whether its section holds code
of the same engine as the patched one, whether it is a `.scratch` symbol. -/
structure RelocSym where
  value : Nat
  hid : Option Nat
  sameEngine : Bool
  scratch : Bool
  deriving DecidableEq, Repr

/-- Some bytes of a section replaced. -/
def patch (bs : List Byte) (at_ : Nat) (new : List Byte) : List Byte := bs.take at_ ++ new ++ bs.drop (at_ + new.length)

/-- A relocation applied to a section placed at a VA, or the link error (R108). -/
def Reloc.apply (r : Reloc) (va : Nat) (bs : List Byte) (y : RelocSym) : Option (List Byte) :=
  let v : Int := y.value + r.addend
  match r.type with
  | 1 => if 0 ≤ v && v < 2 ^ 56 then some (patch bs r.offset (leBytes 8 v.toNat)) else none
  | 2 => if 0 ≤ v && v < 2 ^ 32 then some (patch bs r.offset (leBytes 4 v.toNat)) else none
  | 3 =>
    match unitCount (BitVec.ofNat 32 (fieldAt bs r.offset 4)) with
    | none => none
    | some n =>
      let q := v - (va + r.offset + 4 * n : Nat)
      if y.sameEngine && q % 4 = 0 && -(2 ^ 19 : Int) ≤ q / 4 && q / 4 < 2 ^ 19 then
        some (patch bs r.offset (leBytes 8 (fieldAt bs r.offset 8 % 2 ^ 44 + ((q / 4) % 2 ^ 20).toNat * 2 ^ 44))) else none
  | 4 => match y.hid with
    | some h => if r.addend = 0 && h ≤ 15 then some (patch bs r.offset (leBytes 1 h)) else none
    | none => none
  | 5 => if y.scratch && 0 ≤ v && v < 524288 && v % 128 = 0 then some (patch bs r.offset (leBytes 4 v.toNat)) else none
  | _ => none

/-! ## The link (R107, R109) -/

/-- A section of an object. -/
structure ObjSect where
  type : Nat
  align : Nat
  bytes : List Byte
  relocs : List Reloc
  deriving DecidableEq, Repr

/-- A symbol of an object (R106): `sect` is 0 where undefined, 0xFFFF where absolute, else a section's number from 1. -/
structure ObjSym where
  name : String
  glob : Bool
  kind : Nat
  sect : Nat
  aux : Nat
  value : Nat
  deriving DecidableEq, Repr

/-- An object file. -/
structure Obj where
  sects : List ObjSect
  syms : List ObjSym
  deriving DecidableEq, Repr

/-- A section of a link: the input that it comes from, its number there, its place in the merged section. -/
structure Placed where
  obj : Nat
  no : Nat
  off : Nat
  sect : ObjSect
  deriving DecidableEq, Repr

/-- A number rounded up to a multiple. -/
def upTo (n a : Nat) : Nat := (n + a - 1) / a * a

/-- Sections of one type merged in input order (R109 step 1). -/
def mergeSects : Nat → List (Nat × Nat × ObjSect) → List Placed
  | _, [] => []
  | off, (o, n, x) :: l =>
    let at_ := upTo off (Nat.max 1 x.align)
    ⟨o, n, at_, x⟩ :: mergeSects (at_ + x.bytes.length) l

/-- The sections of a type in input order. -/
def sectsOf (os : List Obj) (type : Nat) : List (Nat × Nat × ObjSect) :=
  ((List.range os.length).zip os).flatMap fun p =>
    (((List.range p.2.sects.length).zip p.2.sects).filter fun q => q.2.type = type).map fun q => (p.1, q.1 + 1, q.2)

/-- The bytes of a merged section, gaps filled with zeros. -/
def mergedBytes (l : List Placed) : List Byte :=
  l.foldl (fun bs p => bs ++ List.replicate (p.off - bs.length) 0 ++ p.sect.bytes) []

/-- A link under way: the placed sections by type, and the VA of each mapped type (R109 steps 1 and 2). -/
structure Link where
  objs : List Obj
  placed : List (Nat × List Placed)
  vas : List (Nat × Nat)
  deriving DecidableEq, Repr

/-- The VAs of the mapped types from a base, each on a page. -/
def layTypes (placed : List (Nat × List Placed)) : Nat → List Nat → List (Nat × Nat)
  | _, [] => []
  | va, t :: l =>
    let n := (mergedBytes ((placed.find? fun p => p.1 = t).map Prod.snd |>.getD [])).length
    (t, va) :: layTypes placed (va + 65536 * pagesFor n) l

/-- The placement of a link's sections from a base. -/
def Link.of (os : List Obj) (base : Nat) : Link :=
  let placed := [1, 2, 3, 4, 5, 6, 7, 8].map fun t => (t, mergeSects 0 (sectsOf os t))
  { objs := os, placed, vas := layTypes placed base [1, 2, 3, 4, 5, 6, 7] }

/-- The placed sections of a type. -/
def Link.get (k : Link) (t : Nat) : List Placed := ((k.placed.find? fun p => p.1 = t).map Prod.snd).getD []

/-- The VA of a type. -/
def Link.va (k : Link) (t : Nat) : Nat := ((k.vas.find? fun p => p.1 = t).map Prod.snd).getD 0

/-- A symbol of an object, by number. -/
def Link.symAt (k : Link) (o n : Nat) : Option ObjSym := k.objs[o]? >>= fun x => x.syms[n]?

/-- Where a symbol is defined: the object and number, through the global names for an undefined one. -/
def Link.resolve (k : Link) (o n : Nat) : Option (Nat × Nat × ObjSym) :=
  match k.symAt o n with
  | none => none
  | some y =>
    if y.sect != 0 then some (o, n, y)
    else (((List.range k.objs.length).zip k.objs).flatMap fun p =>
        ((List.range p.2.syms.length).zip p.2.syms).map fun q => (p.1, q.1, q.2)).find? fun d =>
      d.2.2.glob && d.2.2.sect != 0 && d.2.2.name = y.name

/-- The type and linked value of a defined symbol: a VA, a scratch offset, or the value itself (R106). -/
def Link.valueOf (k : Link) (o : Nat) (y : ObjSym) : Nat × Nat :=
  if y.sect = 0xFFFF then (0, y.value)
  else
    match [1, 2, 3, 4, 5, 6, 7, 8].findSome? fun t => ((k.get t).find? fun p => p.obj = o && p.no = y.sect).map fun p => (t, p) with
    | some (t, p) => (t, if t = 7 || t = 8 then p.off + y.value else k.va t + p.off + y.value)
    | none => (0, y.value)

/-- The handlers of a link in definition order, with their explicit ID if they have one. -/
def Link.handlers (k : Link) : List (Nat × Nat × Option Nat) :=
  ((List.range k.objs.length).zip k.objs).flatMap fun p =>
    (((List.range p.2.syms.length).zip p.2.syms).filter fun q => q.2.kind = 4 && q.2.sect != 0).map fun q =>
      (p.1, q.1, if q.2.aux % 256 = 0xFF then none else some (q.2.aux % 256))

/-- The symbols that the linked sections reference, in the order of R109 step 3. -/
def Link.refs (k : Link) : List (Nat × Nat) :=
  ([1, 2, 3, 4, 5, 6, 7].flatMap fun t => (k.get t).flatMap fun p =>
    (sortBy (fun a b => a.offset ≤ b.offset) p.sect.relocs).filterMap fun r => (k.resolve p.obj r.sym).map fun d => (d.1, d.2.1)).eraseDups

/-- The lowest IDs still free, given in order (R109 step 3). -/
def giveIds : List (Nat × Nat) → List ((Nat × Nat) × Nat) → Option (List ((Nat × Nat) × Nat))
  | [], got => some got
  | x :: l, got =>
    match (List.range 16).find? fun i => got.all fun g => g.2 != i with
    | some i => giveIds l (got ++ [(x, i)])
    | none => none

/-- The handler IDs of a link, or its error: explicit ones, then the referenced `auto` ones, then the others. -/
def Link.ids (k : Link) : Option (List ((Nat × Nat) × Nat)) :=
  let hs := k.handlers
  let given := hs.filterMap fun h => h.2.2.map fun i => ((h.1, h.2.1), i)
  let autos := (hs.filter fun h => h.2.2.isNone).map fun h => (h.1, h.2.1)
  let used := k.refs.filter autos.contains
  if hs.length > 16 || (given.map Prod.snd).eraseDups.length != given.length || given.any (fun g => g.2 > 15) then none
  else giveIds (used ++ autos.filter fun a => !used.contains a) given

/-- Whether two section types hold code of one engine: Spur code, or lane and handler code (R108). -/
def sameEngine (t u : Nat) : Bool := (t = 1 && u = 1) || ((t = 2 || t = 3) && (u = 2 || u = 3))

/-- A relocation of a placed section applied to the merged bytes. -/
def Link.patch (k : Link) (ids : List ((Nat × Nat) × Nat)) (t : Nat) (p : Placed) (bs : List Byte) (r : Reloc) : Option (List Byte) :=
  match k.resolve p.obj r.sym with
  | none => none
  | some (o, n, y) =>
    let v := k.valueOf o y
    { r with offset := p.off + r.offset }.apply (k.va t) bs
      { value := v.2, hid := (ids.find? fun (g : (Nat × Nat) × Nat) => g.1.1 = o && g.1.2 = n).map Prod.snd, sameEngine := sameEngine t v.1,
        scratch := v.1 = 7 }

/-- A merged section with its relocations applied (R109 step 4). -/
def Link.section_ (k : Link) (ids : List ((Nat × Nat) × Nat)) (t : Nat) : Option (List Byte) :=
  (k.get t).foldlM (fun bs p => p.sect.relocs.foldlM (k.patch ids t p) bs) (mergedBytes (k.get t))

/-- The scope of an ordered access. -/
def ordDom : Ord → Bool
  | .sync .dom => true
  | _ => false

/-- The optional units that an instruction provably needs, as `sys.caps` bits [4:0] (R2, R107): an SR modifier, a `.dom` scope,
CDEC. -/
def needCaps : Instr → Nat
  | .cvt _ _ _ _ sr _ _ => if sr then 8 else 0
  | .sld _ _ o _ _ _ | .sst _ _ o _ _ _ | .ld _ _ o _ _ _ | .st _ _ o _ _ _ | .lds _ _ o _ _ _ | .sts _ _ o _ _ _ =>
    if ordDom o then 16 else 0
  | .samo _ _ _ sc _ _ _ _ | .atom _ _ _ sc _ _ _ | .atomf _ _ _ sc _ _ _ | .atoms _ _ _ sc _ _ _ | .cas _ _ sc _ _ _ _
  | .fence _ _ sc =>
    if sc = .dom then 16 else 0
  | .cdec .. => 1
  | _ => 0

/-- The descriptor that `.image` emits (R102, R107): PRIO, REGS from the kernel's declared count, and CAPS from the image's
instructions and the fourth operand; SPENTRY is an abs64 relocation's field, and the linker completes the rest. A priority above
7, a fourth operand above 31 or a count outside 1 to 256 is an error. -/
def emitDesc (regs prio : Nat) (code : List Instr) (caps : Nat) : Option (List Byte) :=
  if prio ≤ 7 && caps ≤ 31 then
    (declaredRegs regs).map fun r =>
      List.replicate 24 0 ++ leBytes 1 (r / 8) ++ [0] ++ leBytes 1 prio ++ [0] ++
        leBytes 4 (code.foldl (fun n i => n ||| needCaps i) caps) ++ List.replicate 32 0
  else none

/-- A descriptor as the linker completes it: SCRIMG, SCRBASE, SCRSIZE and NHDL (R107). -/
def completeDesc (scrVa scrLen nhdl : Nat) (d : List Byte) : List Byte :=
  d.take 8 ++ leBytes 8 scrVa ++ leBytes 4 (upTo scrLen 128) ++ leBytes 4 0 ++ (d.drop 24).take 1 ++ leBytes 1 nhdl ++ d.drop 26

/-- A linked image: its sections by type with their VA, and the handler IDs. -/
structure Linked where
  sects : List (Nat × Nat × List Byte)
  ids : List ((Nat × Nat) × Nat)
  deriving DecidableEq, Repr

/-- Global names defined twice. -/
def twiceDefined (os : List Obj) : Bool :=
  let ns := os.flatMap fun o => (o.syms.filter fun y => y.glob && y.sect != 0).map (·.name)
  ns.eraseDups.length != ns.length

/-- The link of some objects from a base, or its error (R109). -/
def link (os : List Obj) (base : Nat) : Option Linked :=
  let k := Link.of os base
  let scr := (mergedBytes (k.get 7)).length
  if twiceDefined os || scr > 524288 then none
  else
    match k.ids with
    | none => none
    | some ids =>
      ([1, 2, 3, 4, 5, 6, 7, 8].mapM fun t => (k.section_ ids t).map fun bs =>
        (t, k.va t, if t = 7 then bs ++ List.replicate (upTo scr 128 - scr) 0
          else if t = 8 then (List.range (bs.length / 64)).flatMap fun i =>
            completeDesc (if scr = 0 then 0 else k.va 7) scr ids.length ((bs.drop (64 * i)).take 64)
          else bs)).map fun l => { sects := l, ids }

end Sys2Proof.Machine
end

