-- ==== Sys2Proof/Laws/Tools.lean ====
section
/-! SUPPORT. The assembler's shortest form is the same instruction (R80, R100). -/

namespace Sys2Proof.Machine

/-- A header that a compact form can hold is the header of its expansion. -/
theorem cHd_of_compactHd {h : Hd} (e : compactHd h = true) : cHd h.pred h.pn = h := by
  obtain ⟨p, n, u, l⟩ := h
  cases u <;> cases l <;> first | rfl | cases e

/-- An instruction that is no compact form expands to itself. -/
theorem expand_of_not_compact (i : Instr) (h : i.compact? = none) : expand i = i := by
  cases i <;> first | rfl | cases h

/-- A compact form executes as the long form that it stands for. -/
theorem expand_shortest (i : Instr) (h : i.compact? = none) : expand (shortest i) = i := by
  unfold shortest
  split <;> first
    | exact expand_of_not_compact _ h
    | (split
       · rename_i e
         simp only [expand, cHd_of_compactHd e]
       · exact expand_of_not_compact _ h)

end Sys2Proof.Machine
end

