-- ==== Sys2Proof/Tests/Slice0.lean ====
section
/-! SUPPORT. Tests: words of spec/ against the decoder, ill-formed terms that WellFormed refuses, single steps of instructions
with results taken from spec/, and for every statement a state and operands that meet its hypotheses. -/

open Sys2Proof Sys2Proof.Machine

namespace Sys2Proof.Tests

set_option Elab.async false

/-! ## Helpers -/

/-- The lane decoder's context with every register declared. -/
def laneCx : Cx := ⟨.lane, 256⟩
/-- The Spur decoder's context. -/
def spurCx : Cx := ⟨.spur, 0⟩
/-- A request that names no address space. -/
def rq0 : Rq := { vif := 5, tag := 0x11223344, reply := 0 }
/-- A request with a reply VA. -/
def rq1 : Rq := { vif := 5, tag := 0x11223344, reply := 0xF0000000001000 }
/-- Bytes 0, 1, 2 … -/
def nonce (n : Nat) : List Byte := (List.range n).map fun i => BitVec.ofNat 8 i
/-- A uniform header. -/
def uniHd : Hd := ⟨7, false, true, none⟩

/-- A device whose core 0 runs a launch of address space 1. -/
def onCore0 (w : Who) (c : Core) : State :=
  { caps := capsOf 1, cores := [(0, { c with launch := some { vif := 1, asid := 1 } })], who := w }
/-- It is the turn of core 0's Spur. -/
def spurAt (p : Spur) : State := onCore0 (.spur 0) { spur := { p with run := .run, pc := 0x1000 } }
/-- A group with all its threads. -/
def tg0 : Tg := { used := true, live := 0xFFFF, path := 0xFFFF, regs := 64, pc := 0x1000 }
/-- It is the turn of a group in slot 0 of core 0. -/
def tgAt (g : Tg) : State := onCore0 (.tg 0 0 true) { spur := { run := .run }, tgs := [(0, g)] }
/-- It is the turn of a queue of core 0. -/
def queueAt (q : Queue) : State := onCore0 (.queue 0 0) { spur := { run := .run }, queues := [(0, { q with run := true })] }

/-- Address space 1 of interface 5 with one page at VA 0, at physical 0x20000, that may be read, written and executed, with other
attribute bits: the entries of its four tables (R255, R417). -/
def withPage (extra : Nat) (s : State) : State :=
  let b6 : Byte := BitVec.ofNat 8 (extra / 2 ^ 48)
  { s with
    spaces := [(1, { root := 0x10000, place := [⟨0, 2 ^ 40 - 1, 2, 0⟩], live := true, vif := 5 })]
    mem := [(0x10001, 0x20), (0x10002, 1), (0x10007, 0x80), (0x12001, 0x40), (0x12002, 1), (0x12007, 0x80),
      (0x14001, 0x60), (0x14002, 1), (0x14007, 0x80), (0x16002, 2)] ++ (if b6 = 0 then [] else [(0x16006, b6)]) ++
      [(0x16007, 0xB8 + BitVec.ofNat 8 (extra / 2 ^ 56))] }

/-- Bytes behind every byte that memory lists. -/
def put (a : Nat) (l : List Byte) (s : State) : State :=
  { s with mem := s.mem ++ ((List.range l.length).zip l).filterMap fun p => if p.2 = 0 then none else some (a + p.1, p.2) }

/-- What an access of an actor carries, plain and without Cairn. -/
def anAcc (actor pos : Nat) : Acc :=
  { actor, pos, ipc := 0x1000, spc := 0, seq := 0, clk := 0, sc := 0, vec := 0, acq := false, rel := false, mode := 1, time := 0 }
/-- An entry of an actor. -/
def anEntry (uid actor : Nat) (place : Place) (eff : Eff) : Entry := ⟨uid, anAcc actor 1, place, 1, eff, none, none⟩
/-- A load of thread 0. -/
def aLoad (actor : Nat) (place : Place) : Load := ⟨anAcc actor 1, 4, [⟨0, place⟩], ⟨.main 1, .ld .b32⟩⟩

/-- The state after an instruction. -/
def after (i : Instr) (s : State) : State := match exec i s with | .next t => t | _ => s
/-- A register of core 0's Spur after an instruction. -/
def spurReg (n : Nat) (i : Instr) (p : Spur) : DWord := ((after i (spurAt p)).core 0).spur.reg n
/-- A lane register of core 0's group after an instruction. -/
def laneReg (n j : Nat) (i : Instr) (g : Tg) : Word := ((after i (tgAt g)).tg 0 0).vreg n j

/-- Words built field by field from the encoding tables of spec/ (R71 to R81, R84 to R91): sscal. -/
def words_sscal : List (List Word × Instr) :=
  [([0x05003821, 0x0032800C], .add plainHd .s64 (.main 5) (.main 3) (.imm 40)),
   ([0x06013841, 0x00329010], .sub plainHd .s32 (.main 6) (.main 4) (.imm 41)),
   ([0x07023861, 0x0032A014], .mul plainHd .z32 (.main 7) (.main 5) (.imm 42)),
   ([0x08033881, 0x0032B018], .mulh plainHd .z64 (.main 8) (.main 6) (.imm 43)),
   ([0x090038E1, 0x0032C01C], .spurAnd plainHd .s64 (.main 9) (.main 7) (.imm 44)),
   ([0x0A013901, 0x0032D020], .spurOr plainHd .s32 (.main 10) (.main 8) (.imm 45)),
   ([0x0B023921, 0x0032E024], .spurXor plainHd .z32 (.main 11) (.main 9) (.imm 46)),
   ([0x0C033941, 0x0032F028], .spurAndn plainHd .z64 (.main 12) (.main 10) (.imm 47)),
   ([0x0D003961, 0x0033002C], .spurShl plainHd .s64 (.main 13) (.main 11) (.imm 48)),
   ([0x0E013981, 0x00331030], .spurShr plainHd .s32 (.main 14) (.main 12) (.imm 49)),
   ([0x0F0239A1, 0x00332034], .spurSar plainHd .z32 (.main 15) (.main 13) (.imm 50)),
   ([0x100339C1, 0x00333038], .rot plainHd .z64 (.main 16) (.main 14) (.imm 51)),
   ([0x110039E1, 0x0033403C], .min plainHd .s64 (.main 17) (.main 15) (.imm 52)),
   ([0x12013A01, 0x00335040], .max plainHd .s32 (.main 18) (.main 16) (.imm 53)),
   ([0x3F0538A1, 0x00106004], .divs plainHd .s32 true (.main 63) (.main 1) (.pred 6)),
   ([0x020358C1, 0x00009FFD], .divz ⟨3, true, false, none⟩ .z64 false (.pred 2) (.imm 0xFF) (.main 9)),
   ([0x07023A22, 0x00000FFC, 0xDEADBEEF], .spurClz ⟨7, false, false, some 0xDEADBEEF⟩ .z32 (.main 7) .lit),
   ([0x07023A42, 0x00000FFC, 0xDEADBEEF], .spurPopc ⟨7, false, false, some 0xDEADBEEF⟩ .z32 (.main 7) .lit),
   ([0x07023AC2, 0x00000FFC, 0xDEADBEEF], .spurMov ⟨7, false, false, some 0xDEADBEEF⟩ .z32 (.main 7) .lit),
   ([0x01013A61, 0xC1003008], .spurBfx plainHd .s32 (.main 1) (.main 2) (.main 3) (.imm 4)),
   ([0x01003A81, 0x01303008], .spurBfi plainHd .s64 1 (.main 2) (.imm 3) (.main 4)),
   ([0x01073AA1, 0x01003008], .lea plainHd 7 (.main 1) (.main 2) (.main 3) (.main 4)),
   ([0x0C043AE2, 0x00000FFC, 0x12345678], .spurLi ⟨7, false, false, some 0x12345678⟩ .s64 true 12 .lit),
   ([0x01003B01, 0x41003008], .spurSel plainHd (.main 1) (.main 2) (.main 3) (.pred 4)),
   ([0x020A3B21, 0x00005011], .cmp plainHd .z32 .lt (.pred 2) (.main 4) (.main 5)),
   ([0x00000401, 0xFFFFD000], .br ⟨0, false, false, none⟩ (-3)),
   ([0x00003C21, 0x00000014], .jmp plainHd 0 (.main 5)),
   ([0x1F003C41, 0x12345000], .call plainHd 31 0x12345),
   ([0x00003C61, 0x0000007C], .ret plainHd (.main 31)),
   ([0x08003C81, 0xFFFFF000], .loopn plainHd 8 (-1)),
   ([0x09033D01, 0x00308008], .sld plainHd .s16 .plain (.main 9) (.main 2) (.imm 8)),
   ([0x09693D21, 0x00301008], .sst plainHd .s8 (.sync .dev) 9 (.main 2) (.imm 1)),
   ([0x094F3D41, 0x01003008], .samo plainHd .cas .s32 .clu (.main 9) (.main 2) (.main 3) (some (.main 4)))]

theorem test_decode_sscal : (words_sscal.all fun p => decode spurCx p.1 == .ok p.2 p.1.length) = true := by decide +kernel

/-- Words built field by field from the encoding tables of spec/ (R71 to R81, R84 to R91): seng. -/
def words_seng : List (List Word × Instr) :=
  [([0x04003825, 0x00000014], .fork plainHd 4 (.main 5)),
   ([0x01003845, 0x00000C0D], .rdzv plainHd (.pred 1) (.imm 3)),
   ([0x04023865, 0xFFC06014], .wspawn plainHd .w64 (.main 4) (.main 5) (.main 6) (.imm 0xFF)),
   ([0x00003885, 0x00000024], .dqput plainHd (.main 9)),
   ([0x030738A5, 0x00000024], .launch plainHd .cluster (some (.main 3)) (.main 9)),
   ([0x000038C5, 0x00310024], .ljoin plainHd (.main 9) (.imm 16)),
   ([0x010038E5, 0x01303008], .cprog plainHd (.main 1) (.main 2) (.imm 3) (.main 4)),
   ([0x00003A05, 0x00000000], .yield plainHd),
   ([0x00003A25, 0x00000C14], .trap plainHd (.imm 5)),
   ([0x00003A45, 0x00000000], .sdone plainHd)]

theorem test_decode_seng : (words_seng.all fun p => decode spurCx p.1 == .ok p.2 p.1.length) = true := by decide +kernel

/-- Words built field by field from the encoding tables of spec/ (R71 to R81, R84 to R91): lint. -/
def words_lint : List (List Word × Instr) :=
  [([0x04043829, 0x00103018], .iadd plainHd .s32 true (.main 4) (.main 6) (.opnd 3)),
   ([0x04053849, 0x00103018], .isub plainHd .z32 true (.main 4) (.main 6) (.opnd 3)),
   ([0x04023869, 0x00008018], .imul plainHd .s64 (.main 4) (.main 6) (.main 8)),
   ([0x04033909, 0x00008018], .imin plainHd .z64 (.main 4) (.main 6) (.main 8)),
   ([0x04003929, 0x00103018], .imax plainHd .s32 (.main 4) (.main 6) (.opnd 3)),
   ([0x04013949, 0x00103018], .and plainHd .z32 (.main 4) (.main 6) (.opnd 3)),
   ([0x04023969, 0x00008018], .or plainHd .s64 (.main 4) (.main 6) (.main 8)),
   ([0x04033989, 0x00008018], .xor plainHd .z64 (.main 4) (.main 6) (.main 8)),
   ([0x040039A9, 0x00103018], .andn plainHd .s32 (.main 4) (.main 6) (.opnd 3)),
   ([0x040139C9, 0x00103018], .shl plainHd .z32 (.main 4) (.main 6) (.opnd 3)),
   ([0x040239E9, 0x00103018], .shr plainHd .s64 (.main 4) (.main 6) (.opnd 3)),
   ([0x04033A09, 0x00103018], .sar plainHd .z64 (.main 4) (.main 6) (.opnd 3)),
   ([0x04063889, 0x02808018], .imad plainHd .s64 true (.main 4) (.main 6) (.main 8) (.main 10)),
   ([0x0701B8A9, 0x0030380A], .imulh ⟨7, false, true, none⟩ .z32 (.grp 7) (.grp 2) (.imm 3)),
   ([0x030538C9, 0x41D08004], .idot4 plainHd true false true (.main 3) (.main 1) .l0 (.opnd 7)),
   ([0x040638E9, 0x00000018], .iabs plainHd .s64 true (.main 4) (.main 6)),
   ([0x01003A29, 0xC1003008], .bfx plainHd .s32 (.main 1) (.main 2) (.main 3) (.imm 4)),
   ([0x02033A49, 0x01703010], .bfi plainHd .z64 (.main 2) (.main 4) (.imm 3) (.main 5)),
   ([0x03033A69, 0x00000010], .popc plainHd .z64 (.main 3) (.main 4)),
   ([0x05013A89, 0x000003FD], .clz plainHd .z32 (.opnd 5) (.main 255)),
   ([0xFE023AA9, 0x00000010], .brev plainHd .s64 (.main 254) (.main 4)),
   ([0x16193AC9, 0x00006015], .icmp plainHd .z32 .tst (.pred 6) (.main 5) (.main 6)),
   ([0x02023AE9, 0x44C06010], .sel plainHd .s64 (.main 2) (.main 4) (.main 6) (.pred 3)),
   ([0x1000BB09, 0x00000459], .mov ⟨7, false, true, none⟩ .s32 (.pred 0) (.pred 6)),
   ([0x07003B2A, 0x00000FFC, 0x3FC00000], .li ⟨7, false, false, some 0x3FC00000⟩ (.main 7) .lit)]

theorem test_decode_lint : (words_lint.all fun p => decode laneCx p.1 == .ok p.2 p.1.length) = true := by decide +kernel

/-- Words built field by field from the encoding tables of spec/ (R71 to R81, R84 to R91): lintCompact. -/
def words_lintCompact : List (List Word × Instr) :=
  [([0xC8053828], .iaddCompact 7 false 5 200),
   ([0xC9063848], .isubCompact 7 false 6 201),
   ([0xCA073868], .imulCompact 7 false 7 202),
   ([0xCB083908], .iminCompact 7 false 8 203),
   ([0xCC093928], .imaxCompact 7 false 9 204),
   ([0xCD0A3948], .andCompact 7 false 10 205),
   ([0xCE0B3968], .orCompact 7 false 11 206),
   ([0xCF0C3988], .xorCompact 7 false 12 207),
   ([0xD00D39A8], .andnCompact 7 false 13 208),
   ([0xD10E39C8], .shlCompact 7 false 14 209),
   ([0xD20F39E8], .shrCompact 7 false 15 210),
   ([0xD3103A08], .sarCompact 7 false 16 211),
   ([0x03055308], .movCompact 2 true 5 3)]

theorem test_decode_lintCompact : (words_lintCompact.all fun p => decode laneCx p.1 == .ok p.2 p.1.length) = true := by decide +kernel

/-- Words built field by field from the encoding tables of spec/ (R71 to R81, R84 to R91): lflt. -/
def words_lflt : List (List Word × Instr) :=
  [([0x0A00502D, 0x00103004], .fadd ⟨2, true, false, none⟩ .f32 (.main 10) (.main 1) (.opnd 3)),
   ([0x0A01504D, 0x00103004], .fsub ⟨2, true, false, none⟩ .f16 (.main 10) (.main 1) (.opnd 3)),
   ([0x0A02506D, 0x00103004], .fmul ⟨2, true, false, none⟩ .bf16 (.main 10) (.main 1) (.opnd 3)),
   ([0x0A0050AD, 0x00103004], .fmin ⟨2, true, false, none⟩ .f32 (.main 10) (.main 1) (.opnd 3)),
   ([0x0A0150CD, 0x00103004], .fmax ⟨2, true, false, none⟩ .f16 (.main 10) (.main 1) (.opnd 3)),
   ([0x0102388D, 0x42003008], .ffma plainHd .bf16 (.main 1) (.main 2) (.main 3) .l0),
   ([0x111D38ED, 0x00003009], .fcmp plainHd .f16 .ord (.pred 1) (.main 2) (.main 3)),
   ([0x0110390D, 0x00000008], .frnd plainHd .f32 .rdn (.main 1) (.main 2)),
   ([0x0102392D, 0x00000008], .fclass plainHd .bf16 (.main 1) (.main 2)),
   ([0x0101394D, 0x00003008], .f2add plainHd .bf16x2 (.main 1) (.main 2) (.main 3)),
   ([0x0100396D, 0x00003008], .f2mul plainHd .f16x2 (.main 1) (.main 2) (.main 3)),
   ([0x0101398D, 0x01003008], .f2fma plainHd .bf16x2 (.main 1) (.main 2) (.main 3) (.main 4)),
   ([0x010039AD, 0x01003008], .fdot2 plainHd .f16x2 (.main 1) (.main 2) (.main 3) (.main 4)),
   ([0x00003A0D, 0x00000191], .rcp plainHd (.opnd 0) (.main 100)),
   ([0x01003A2D, 0x00000195], .rsq plainHd (.opnd 1) (.main 101)),
   ([0x02003A4D, 0x00000199], .sqrt plainHd (.opnd 2) (.main 102)),
   ([0x03003A6D, 0x0000019D], .exp2 plainHd (.opnd 3) (.main 103)),
   ([0x04003A8D, 0x000001A1], .log2 plainHd (.opnd 4) (.main 104)),
   ([0x05003AAD, 0x000001A5], .sin plainHd (.opnd 5) (.main 105)),
   ([0x06003ACD, 0x000001A9], .cos plainHd (.opnd 6) (.main 106)),
   ([0x07003AED, 0x000001AD], .tanh plainHd (.opnd 7) (.main 107)),
   ([0x01D83C0D, 0x00000008], .cvt plainHd .e4m3 .f32 true true (.main 1) (.main 2)),
   ([0x01003C2D, 0x00203008], .qpack plainHd .f32 (.main 1) (.main 2) (.grp 3)),
   ([0x02003C4D, 0x0000500C], .qunpk plainHd .f32 (.main 2) (.main 3) (.main 5)),
   ([0x09073C6D, 0x0000000E], .qscale plainHd .bf16x2 .hyb (.grp 9) (.main 3))]

theorem test_decode_lflt : (words_lflt.all fun p => decode laneCx p.1 == .ok p.2 p.1.length) = true := by decide +kernel

/-- Words built field by field from the encoding tables of spec/ (R71 to R81, R84 to R91): lfltCompact. -/
def words_lfltCompact : List (List Word × Instr) :=
  [([0xFA00002C], .faddCompact 0 false 0 250),
   ([0xF901084C], .fsubCompact 1 false 1 249),
   ([0xF802106C], .fmulCompact 2 false 2 248),
   ([0xF70318AC], .fminCompact 3 false 3 247),
   ([0xF60420CC], .fmaxCompact 4 false 4 246),
   ([0xF505294C], .f2addCompact 5 false 5 245),
   ([0xF406316C], .f2mulCompact 6 false 6 244),
   ([0xF307020C], .rcpCompact 0 false 7 243),
   ([0xF2080A2C], .rsqCompact 1 false 8 242),
   ([0xF109124C], .sqrtCompact 2 false 9 241),
   ([0xF00A1A6C], .exp2Compact 3 false 10 240),
   ([0xEF0B228C], .log2Compact 4 false 11 239),
   ([0xEE0C2AAC], .sinCompact 5 false 12 238),
   ([0xED0D32CC], .cosCompact 6 false 13 237),
   ([0xEC0E02EC], .tanhCompact 0 false 14 236)]

theorem test_decode_lfltCompact : (words_lfltCompact.all fun p => decode laneCx p.1 == .ok p.2 p.1.length) = true := by decide +kernel

/-- Words built field by field from the encoding tables of spec/ (R71 to R81, R84 to R91): lctl. -/
def words_lctl : List (List Word × Instr) :=
  [([0x03033831, 0x0030100C], .shfl plainHd .xor (.main 3) (.main 3) (.imm 1)),
   ([0x04033851, 0x0000044A], .vote plainHd .ballot (.grp 4) (.pred 2)),
   ([0x040A3871, 0x00000008], .redux plainHd .fmax (.main 4) (.main 2)),
   ([0x04133891, 0x00000009], .scan plainHd .zmin true (.opnd 4) (.main 2)),
   ([0x010038B2, 0xFFC03008, 0x00007654], .prmt ⟨7, false, false, some 0x7654⟩ (.main 1) (.main 2) (.main 3) .lit),
   ([0x00000A11, 0x54321C24], .bra ⟨1, false, false, none⟩ (some (.imm 9)) 0x54321),
   ([0x00003A31, 0x00000000], .reconv plainHd),
   ([0x00003A51, 0x00000000], .fuse plainHd),
   ([0x1D00BA71, 0x00000002], .dpush ⟨7, false, true, none⟩ 29),
   ([0x0000BA91, 0x00000800], .dpop ⟨7, false, true, none⟩ 0),
   ([0x1F00BAB1, 0x00000002], .dqpop ⟨7, false, true, none⟩ 31),
   ([0x000062D1, 0x00000000], .exit ⟨4, true, false, none⟩),
   ([0x00003C11, 0x00302C0C], .bar plainHd (.imm 3) (.imm 2)),
   ([0x00003C31, 0x00000018], .barm plainHd (.main 6)),
   ([0x00003C51, 0x00002004], .arrive plainHd (.main 1) (.main 2)),
   ([0x00003C71, 0x0000080C], .await plainHd (.grp 3)),
   ([0x00023C91, 0x00000CA0], .sbar plainHd .clu (.imm 40))]

theorem test_decode_lctl : (words_lctl.all fun p => decode laneCx p.1 == .ok p.2 p.1.length) = true := by decide +kernel

/-- Words built field by field from the encoding tables of spec/ (R71 to R81, R84 to R91): mem. -/
def words_mem : List (List Word × Instr) :=
  [([0x084E3835, 0x00003018], .ld plainHd .b128 (.sync .clu) (.main 8) (.main 6) (.main 3)),
   ([0x086B3855, 0x00302018], .st plainHd .s16 (.sync .dev) (.main 8) (.main 6) (.imm 2)),
   ([0x0302B875, 0x00301812], .lds ⟨7, false, true, none⟩ .z8 .plain (.grp 3) (.grp 4) (.imm 1)),
   ([0x08053895, 0x0010201C], .sts plainHd .b64 .plain (.main 8) (.main 7) (.opnd 2)),
   ([0x045438B5, 0x0000A020], .atom plainHd .zmax true .clu (.main 4) (.main 8) (.main 10)),
   ([0x047238D5, 0x0000A020], .atomf plainHd .max .bf16x2 .dev (.main 4) (.main 8) (.main 10)),
   ([0x040938F5, 0x0000A01C], .atoms plainHd .pmax false .tg (.main 4) (.main 7) (.main 10)),
   ([0x04303915, 0x0300A020], .cas plainHd true .core (.main 4) (.main 8) (.main 10) (.main 12)),
   ([0x00983935, 0x00000000], .fence plainHd .cum .dom),
   ([0x00003955, 0x00000000], .waitst plainHd),
   ([0x00013975, 0x00340020], .pref plainHd true (.main 8) (.imm 64)),
   ([0x04003A15, 0x00000C3E], .rres plainHd (.grp 4) (.imm 15)),
   ([0x00003A35, 0x00204C3C], .rpub plainHd (.imm 15) (.grp 4)),
   ([0x04003A55, 0x0000000C], .rget plainHd (.main 4) (.main 3)),
   ([0x00003A75, 0x0000400C], .rrel plainHd (.main 3) (.main 4)),
   ([0x02043B15, 0x00000002], .cairn plainHd .once (.grp 2)),
   ([0x00003B35, 0x00340010], .cscrub plainHd (.main 4) (.imm 0x40))]

theorem test_decode_mem : (words_mem.all fun p => decode laneCx p.1 == .ok p.2 p.1.length) = true := by decide +kernel

/-- Words built field by field from the encoding tables of spec/ (R71 to R81, R84 to R91): travSpur. -/
def words_travSpur : List (List Word × Instr) :=
  [([0x03003839, 0x00000010], .walk plainHd 3 (.main 4)),
   ([0x01003879, 0x00000C05], .wpause plainHd (.pred 1) (.imm 1)),
   ([0x01003899, 0x00000C05], .wresume plainHd (.pred 1) (.imm 1)),
   ([0x010038B9, 0x00000C05], .wcancel plainHd (.pred 1) (.imm 1)),
   ([0x03053859, 0x00000C04], .wstat plainHd .upcalls (.main 3) (.imm 1)),
   ([0x00013919, 0x01404C08], .hreg plainHd .w32 (.imm 2) (.main 4) (.main 5)),
   ([0x00003939, 0x00000C08], .hunreg plainHd (.imm 2))]

theorem test_decode_travSpur : (words_travSpur.all fun p => decode spurCx p.1 == .ok p.2 p.1.length) = true := by decide +kernel

/-- Words built field by field from the encoding tables of spec/ (R71 to R81, R84 to R91): trav. -/
def words_trav : List (List Word × Instr) :=
  [([0x04003A19, 0x00000C24], .hdesc plainHd (.main 4) (.imm 9)),
   ([0x08023A39, 0x00002004], .acld plainHd .x4 (.main 8) (.main 1) (.main 2)),
   ([0x00003A5A, 0x00000FFC, 0x80000001], .hret ⟨7, false, false, some 0x80000001⟩ .lit)]

theorem test_decode_trav : (words_trav.all fun p => decode laneCx p.1 == .ok p.2 p.1.length) = true := by decide +kernel

/-- Words built field by field from the encoding tables of spec/ (R71 to R81, R84 to R91): sys. -/
def words_sys : List (List Word × Instr) :=
  [([0x0000383D, 0x00000000], .nop plainHd),
   ([0x0000383C], .nopCompact 7 false),
   ([0x0400385D, 0x00000A70], .csrr plainHd (.main 4) 0x9C),
   ([0x1000B87D, 0x0000080E], .csrw ⟨7, false, true, none⟩ 0x10 (.grp 3)),
   ([0x0400389D, 0x00000000], .time plainHd (.main 4)),
   ([0x0400B8BD, 0x00000002], .cyc ⟨7, false, true, none⟩ (.grp 4)),
   ([0x000138DD, 0x00000000], .xret plainHd true),
   ([0x04013A1D, 0x00000CFC], .sadl plainHd true (.main 4) (.imm 63)),
   ([0x11003A3D, 0x00000D91], .sclr plainHd (.pred 1) (.imm 100)),
   ([0x00003A5D, 0x00000000], .scle plainHd),
   ([0x00003B1D, 0x00000C14], .bkpt plainHd (.imm 5)),
   ([0x00013B3D, 0x00000C1C], .trigw plainHd .set (.imm 7)),
   ([0x00003B5E, 0x00000FFC, 0x00001234], .mark ⟨7, false, false, some 0x1234⟩ .lit)]

theorem test_decode_sys : (words_sys.all fun p => decode laneCx p.1 == .ok p.2 p.1.length) = true := by decide +kernel

/-- Words built field by field from the encoding tables of spec/ (R71 to R81, R84 to R91): sysSpur. -/
def words_sysSpur : List (List Word × Instr) :=
  [([0x8200387D, 0x0000000E], .csrwRaceidx plainHd (.main 3)),
   ([0x9100387D, 0x0000000E], .csrwTrctl plainHd (.main 3)),
   ([0x9200387D, 0x0000000E], .csrwTrrd plainHd (.main 3)),
   ([0x2500387D, 0x0000000E], .csrwHpool plainHd (.main 3)),
   ([0x2000387D, 0x0000000E], .csrwHshare plainHd (.main 3)),
   ([0x9A00387D, 0x0000000E], .csrwMreqcap plainHd (.main 3)),
   ([0xA000387D, 0x0000000E], .csrwDbgctl plainHd (.main 3)),
   ([0x0300385D, 0x00000A44], .csrrTrctl plainHd (.main 3)),
   ([0x7D00387D, 0x0000000E], .csrwRlgeom plainHd 15 (.main 3)),
   ([0x4A00387D, 0x0000000E], .csrwRlpos plainHd 2 (.main 3))]

theorem test_decode_sysSpur : (words_sysSpur.all fun p => decode spurCx p.1 == .ok p.2 p.1.length) = true := by decide +kernel

/-- Command records built from R92 and R379. -/
def records : List (Rec × Instr) :=
  [(⟨0x12340301, 0x789ABCD0, 0x00123456, 0x0F000010⟩, .ccpy .e4m3 0x1234 0x123456789ABCD0 0xF000010),
   (⟨0x00010901, 0x789ABCD0, 0x00123456, 0x00000020⟩, .ccpyG .bf16 1 0x123456789ABCD0 0x20),
   (⟨0x00000211, 0x789ABCD0, 0x00123456, 0x00000000⟩, .ccpyD2 .f16 0x123456789ABCD0),
   (⟨0x00000021, 0x789ABCD0, 0x00123456, 0x00000000⟩, .ccpyD3 .none 0x123456789ABCD0),
   (⟨0x00000102, 0x789ABCD0, 0x00123456, 0x00000000⟩, .cgth true 0x123456789ABCD0),
   (⟨0x00000003, 0x789ABCD0, 0x00123456, 0x00000000⟩, .csct false 0x123456789ABCD0),
   (⟨0x00070004, 0xAABBCCDD, 0x00000000, 0x00000040⟩, .cfil 7 0xAABBCCDD 0x40),
   (⟨0x00070804, 0x789ABCD0, 0x00123456, 0xAABBCCDD⟩, .cfilG 7 0x123456789ABCD0 0xAABBCCDD),
   (⟨0x00030005, 0x789ABCD0, 0x00123456, 0x00000080⟩, .cdec 3 0x123456789ABCD0 0x80),
   (⟨0x00000006, 0x789ABCD0, 0x00123456, 0x00000009⟩, .csig 0x123456789ABCD0 9),
   (⟨0x07FF0016, 0x00000000, 0x00000000, 0x00000000⟩, .csigArrive 15 127),
   (⟨0x00000007, 0x789ABCD0, 0x00123456, 0x00000009⟩, .cwat 0x123456789ABCD0 9),
   (⟨0x00030017, 0x00000000, 0x00000000, 0x00000000⟩, .cwatBar 3),
   (⟨0x00000008, 0xFFFFFFFE, 0x00000000, 0x00000000⟩, .cjmp 0xFFFFFFFE),
   (⟨0x0000000F, 0x00000000, 0x00000000, 0x00000000⟩, .cend)]

theorem test_decode_records : (records.all fun p => decodeRec p.1 == some p.2) = true := by decide +kernel

/-- Requests built from R418, R420 and R468, at interface 5 with TAG 0x11223344. -/
def requests : List (List DWord × Instr) :=
  [([0x1122334400000001, 0x0, 0x0, 0x0, 0xDEADBEEF], .createAs rq0 0xDEADBEEF),
   ([0x1122334400000002, 0xF0000000001000, 0x0, 0x0, 0x3FFF], .destroyAs rq1 0x3FFF),
   ([0x1122334400000003, 0xF0000000001000, 0x0, 0x0, 0x3, 0x10000, 0x20000, 0x4A40000000000000], .map rq1 3 0x10000 0x20000 0x129),
   ([0x1122334400000004, 0xF0000000001000, 0x0, 0x0, 0x3, 0x10000, 0x20000, 0x4A40000000000000], .protect rq1 3 0x10000 0x20000 0x129),
   ([0x1122334400000005, 0xF0000000001000, 0x0, 0x0, 0x3, 0x10000, 0x20000], .unmap rq1 3 0x10000 0x20000),
   ([0x1122334400000006, 0xF0000000001000, 0x0, 0x0, 0x3, 0x8000], .place rq1 3 0x8000),
   ([0x1122334400000007, 0xF0000000001000, 0x0, 0x0, 0x3, 0x8000, 0x999], .loadImage rq1 3 0x8000 0x999),
   ([0x1122334400000008, 0xF0000000001000, 0x0, 0x0, 0x3, 0x8000, 0x3FF, 0x9000, 0xA000, 0x7], .start rq1 3 0x8000 0x3FF 0x9000 0xA000 7),
   ([0x1122334400000009, 0xF0000000001000, 0x0, 0x0, 0x3, 0x4], .setCairn rq1 3 4),
   ([0x112233440000000A, 0xF0000000001000, 0x0, 0x0, 0x3, 0x8000, 0x1000], .scrub rq1 3 0x8000 4096),
   ([0x112233440000000B, 0x0, 0x0, 0x0, 0x706050403020100, 0xF0E0D0C0B0A0908, 0x1716151413121110, 0x1F1E1D1C1B1A1918], .attest rq0 (nonce 32)),
   ([0x112233440000000C, 0x0, 0x0, 0x0], .resetVif rq0),
   ([0x112233440000000D, 0xF0000000001000, 0x0, 0x0, 0xFE, 0x3FFF, 0x3, 0x10000, 0x20000], .peerGrant rq1 0xFE 0x3FFF 3 0x10000 0x20000),
   ([0x112233440000000E, 0x0, 0x0, 0x0, 0x1, 0x2FF80], .halt rq0 ⟨0x2FF, 0x80⟩),
   ([0x112233440000000E, 0x0, 0x0, 0x0, 0x2, 0x2FF80], .resume rq0 ⟨0x2FF, 0x80⟩),
   ([0x112233440000000E, 0x0, 0x0, 0x0, 0x3, 0x2FF80], .step rq0 ⟨0x2FF, 0x80⟩),
   ([0x112233440000000E, 0x0, 0x0, 0x0, 0x4, 0x2FF80, 0x64], .inflight rq0 ⟨0x2FF, 0x80⟩ 100),
   ([0x112233440000000E, 0x0, 0x0, 0x0, 0x5, 0x0, 0x1F, 0x8000000000000001], .route rq0 31 0x8000000000000001),
   ([0x112233440000000E, 0x0, 0x0, 0x0, 0x6, 0x2FF80, 0x6], .ctl rq0 ⟨0x2FF, 0x80⟩ 6)]

theorem test_decode_requests : (requests.all fun p => decodeReq 5 {} p.1 == p.2) = true := by decide +kernel

/-! ## Ill-formed terms, one for each check of WellFormed -/

/-- None of some instructions is well formed. -/
def refused (cx : Cx) (l : List Instr) : Bool := l.all fun i => !i.wf cx

theorem test_wf_engine : (refused laneCx [.add plainHd .s64 (.main 1) (.main 2) (.main 3)] &&
    refused spurCx [.iadd plainHd .s32 false (.main 1) (.main 2) (.main 3), .iaddCompact 7 false 1 2]) = true := by decide +kernel
theorem test_wf_header : (refused laneCx [.nop ⟨7, true, false, none⟩, .nopCompact 7 true, .iaddCompact 7 true 1 2, .nop uniHd,
    .dqpop plainHd 3] && refused spurCx [.time uniHd (.main 3)]) = true := by decide +kernel
theorem test_wf_modifiers : (refused spurCx [.spurLi plainHd .s32 true 1 (.imm 3), .sst plainHd .z8 .plain 1 (.main 2) (.main 3),
      .samo plainHd .cas .s64 .clu (.main 1) (.main 2) (.main 3) none, .samo plainHd .add .s64 .clu (.main 1) (.main 2) (.main 3) (some (.main 4))] &&
    refused laneCx [.iabs plainHd .z32 false (.main 1) (.main 2), .cvt plainHd .f16 .f32 true false (.main 1) (.main 2),
      .cvt plainHd .s8 .s8 false false (.main 1) (.main 2), .st plainHd .z16 .plain (.main 1) (.main 2) (.imm 0),
      .ld uniHd .b128 .plain (.grp 1) (.grp 2) (.imm 0), .atom plainHd .pmax false .tg (.main 1) (.main 2) (.main 3),
      .atoms plainHd .pmax true .tg (.main 2) (.main 3) (.main 4), .bra uniHd (some (.imm 3)) 0]) = true := by decide +kernel
theorem test_wf_literal : refused laneCx [.li ⟨7, false, false, some 5⟩ (.main 1) (.imm 3), .li plainHd (.main 1) .lit,
    .li ⟨7, false, false, some 5⟩ (.main 1) (.imm 0xFF), .reconv ⟨7, false, false, some 5⟩] = true := by decide +kernel
theorem test_wf_sources : (refused laneCx [.li plainHd (.main 1) (.main 2), .mov uniHd .s32 (.grp 1) (.main 2), .mov uniHd .s32 (.grp 1) .l0,
      .mov plainHd .s64 (.main 2) (.main 3), .mov plainHd .s64 (.main 2) (.opnd 3), .mov plainHd .s64 (.main 2) .l0,
      .mov plainHd .s64 (.main 2) (.pred 1), .ld uniHd .b32 .plain (.grp 1) (.grp 2) (.pred 0)] &&
    refused spurCx [.spurMov plainHd .s64 (.main 1) (.main 64), .spurMov plainHd .s64 (.main 1) (.grp 2),
      .spurMov plainHd .s64 (.main 1) .l0, .spurMov plainHd .s64 (.main 1) (.opnd 2)]) = true := by decide +kernel
theorem test_wf_destinations : (refused laneCx [.mov plainHd .s32 (.grp 1) (.main 2), .mov uniHd .s32 (.main 1) (.grp 2),
      .mov plainHd .s64 (.main 3) (.main 2), .mov plainHd .s64 (.opnd 2) (.main 2), .mov plainHd .s64 (.pred 2) (.main 2),
      .ld plainHd .b128 .plain (.main 6) (.main 2) (.imm 0), .ld plainHd .b32 .plain (.pred 1) (.main 2) (.imm 0), .dpush uniHd 30] &&
    refused ⟨.lane, 64⟩ [.mov plainHd .s32 (.main 64) (.main 2), .mov plainHd .s32 (.main 2) (.main 64), .movCompact 7 false 64 1] &&
    refused spurCx [.spurMov plainHd .s64 (.main 64) (.main 1), .spurMov plainHd .s64 (.opnd 1) (.main 1), .call plainHd 64 0,
      .cairn plainHd .off (.pred 1), .time plainHd (.pred 1)]) = true := by decide +kernel
theorem test_wf_control_registers : refused spurCx [.csrr plainHd (.main 1) 0x91, .csrw plainHd 0x20 (.main 1),
    .csrw plainHd 0x41 (.main 1)] = true := by decide +kernel
theorem test_wf_not_of_a_stream : refused laneCx [.droop, .cend, .resetVif rq0] = true := by decide +kernel

/-- Patterns that no instruction has (R83): reserved operations, MOD bits, files and positions, and a length of three. -/
theorem test_decode_refuses :
    ([[0x00000003], [0x0000383C ||| 0x00010000], [0x010038DD, 0], [0x000238DD, 0], [0x05083821, 0x0031000C]].all fun us =>
      match decode laneCx us with | .trap _ => true | .ok _ _ => false) = true ∧
    decode laneCx [0x00000003] = .trap .illegalLength ∧ decode spurCx [0x05083821, 0x0031000C] = .trap .illegalEncoding ∧
    decodeRec ⟨0, 0, 0, 0⟩ = none ∧ decodeRec ⟨0x1006, 0, 0, 0⟩ = none ∧ decodeRec ⟨0xF, 0, 1, 0⟩ = none ∧
    decodeReq 5 {} [0x1122334400000001, 0, 0, 1, 0] = .badRequest ⟨rq0, none⟩ ∧
    decodeReq 5 {} [0x112233440000000E, 0, 0, 0, 9, 0] = .badRequest ⟨rq0, none⟩ := by
  decide +kernel
/-! ## Single steps, with results from spec/ or worked out by hand from its rules -/

/-- Scalar registers 1 and 2. -/
def spur2 (a b : DWord) : Spur := { s := [(1, a), (2, b)] }
/-- Lane registers 2 and 3 of thread 0, and 4 to 5. -/
def lane2 (a b : Word) : Tg := { tg0 with v := [(32, a), (48, b)] }

-- R150's worked encoding
theorem test_add_s32 : spurReg 5 (.add plainHd .s32 (.main 5) (.main 1) (.imm 16)) (spur2 0x7FFFFFF8 0) = 0xFFFFFFFF80000008 := by
  decide +kernel
theorem test_sub_z32 : spurReg 5 (.sub plainHd .z32 (.main 5) (.main 1) (.main 2)) (spur2 0 1) = 0xFFFFFFFF := by decide +kernel
theorem test_mulh_z64 : spurReg 5 (.mulh plainHd .z64 (.main 5) (.main 1) (.main 2)) (spur2 (-1) (-1)) = -2 := by decide +kernel
theorem test_mulh_s64 : spurReg 5 (.mulh plainHd .s64 (.main 5) (.main 1) (.main 2)) (spur2 (-1) (-1)) = 0 := by decide +kernel
-- R146: the least number by -1, and a divisor of 0
theorem test_divs_least : spurReg 5 (.divs plainHd .s32 false (.main 5) (.main 1) (.main 2)) (spur2 0x80000000 (-1)) = 0xFFFFFFFF80000000 := by
  decide +kernel
theorem test_divs_rem : spurReg 5 (.divs plainHd .s64 true (.main 5) (.main 1) (.main 2)) (spur2 (-7) 2) = -1 := by decide +kernel
theorem test_divz_zero : spurReg 5 (.divz plainHd .z32 false (.main 5) (.main 1) (.main 2)) (spur2 9 0) = 0xFFFFFFFF := by decide +kernel
theorem test_sar_z32 : spurReg 5 (.spurSar plainHd .z32 (.main 5) (.main 1) (.main 2)) (spur2 0x80000000 36) = 0xF8000000 := by decide +kernel
theorem test_rot_z32 : spurReg 5 (.rot plainHd .z32 (.main 5) (.main 1) (.main 2)) (spur2 0x80000001 33) = 3 := by decide +kernel
theorem test_min_s32 : spurReg 5 (.min plainHd .s32 (.main 5) (.main 1) (.main 2)) (spur2 0xFFFFFFFF 1) = -1 := by decide +kernel
theorem test_clz_zero : spurReg 5 (.spurClz plainHd .z32 (.main 5) (.main 1)) (spur2 0 0) = 32 := by decide +kernel
-- R147: the length is cut at the width
theorem test_bfx_cut : spurReg 5 (.spurBfx plainHd .s32 (.main 5) (.main 1) (.imm 28) (.imm 16)) (spur2 0x90000000 0) = -7 := by decide +kernel
theorem test_bfi : spurReg 1 (.spurBfi plainHd .s64 1 (.main 2) (.imm 4) (.imm 8)) (spur2 (-1) 0) = 0xFFFFFFFFFFFFF00F := by decide +kernel
theorem test_lea : spurReg 5 (.lea plainHd 3 (.main 5) (.main 1) (.main 2) (.imm 0xFF)) (spur2 100 5) = 139 := by decide +kernel
theorem test_li_hi : spurReg 1 (.spurLi (litHd 0x12345678) .s64 true 1 .lit) (spur2 0x9ABCDEF0 0) = 0x123456789ABCDEF0 := by decide +kernel
theorem test_spur_sel : spurReg 5 (.spurSel plainHd (.main 5) (.main 1) (.main 2) (.pred 0)) (spur2 3 4) = 4 := by decide +kernel
theorem test_cmp_tst : ((after (.cmp plainHd .z32 .tst (.pred 3) (.main 1) (.main 2)) (spurAt (spur2 0x100000000 (-1)))).core 0).spur.q = 0 := by
  decide +kernel
theorem test_s0_discards : spurReg 0 (.add plainHd .s64 (.main 0) (.main 1) (.main 2)) (spur2 3 4) = 0 := by decide +kernel
-- R151: a count of 1 falls through and leaves 0
theorem test_loopn_last : (((after (.loopn plainHd 1 (-4)) (spurAt (spur2 1 0))).core 0).spur.pc, spurReg 1 (.loopn plainHd 1 (-4)) (spur2 1 0)) =
    (0x1008, 0) := by decide +kernel
theorem test_loopn_back : (((after (.loopn plainHd 1 (-4)) (spurAt (spur2 2 0))).core 0).spur.pc, spurReg 1 (.loopn plainHd 1 (-4)) (spur2 2 0)) =
    (0xFF8, 1) := by decide +kernel

-- R205's worked encodings
theorem test_iadd_sat : laneReg 9 0 (.iadd plainHd .z32 true (.main 9) (.main 2) (.main 3)) (lane2 0xFFFFFFF0 0x20) = 0xFFFFFFFF := by
  decide +kernel
theorem test_iadd_wraps : laneReg 9 0 (.iadd plainHd .z32 false (.main 9) (.main 2) (.main 3)) (lane2 0xFFFFFFF0 0x20) = 0x10 := by
  decide +kernel
theorem test_isub_sat : laneReg 9 0 (.isub plainHd .z32 true (.main 9) (.main 2) (.main 3)) (lane2 1 2) = 0 := by decide +kernel
theorem test_imulh_z32 : laneReg 9 0 (.imulh plainHd .z32 (.main 9) (.main 2) (.main 3)) (lane2 (-1) (-1)) = 0xFFFFFFFE := by decide +kernel
theorem test_idot4 : laneReg 9 0 (.idot4 plainHd true false false (.main 9) (.main 2) (.main 3) (.imm 1)) (lane2 0xFF000002 0x80000003) =
    BitVec.ofInt 32 (255 * (-128) + 6 + 1) := by decide +kernel
-- R202
theorem test_iabs_sat : laneReg 9 0 (.iabs plainHd .s32 true (.main 9) (.main 2)) (lane2 0x80000000 0) = 0x7FFFFFFF := by decide +kernel
theorem test_iabs_wraps : laneReg 9 0 (.iabs plainHd .s32 false (.main 9) (.main 2)) (lane2 0x80000000 0) = 0x80000000 := by decide +kernel
theorem test_shl_mod : laneReg 9 0 (.shl plainHd .s32 (.main 9) (.main 2) (.main 3)) (lane2 3 33) = 6 := by decide +kernel
theorem test_brev : laneReg 9 0 (.brev plainHd .s32 (.main 9) (.main 2)) (lane2 0xD 0) = 0xB0000000 := by decide +kernel
theorem test_lane_bfx : laneReg 9 0 (.bfx plainHd .s32 (.main 9) (.main 2) (.imm 4) (.imm 4)) (lane2 0x80 0) = 0xFFFFFFF8 := by decide +kernel
theorem test_icmp_l0 : (((after (.icmp plainHd .s32 .lt (.pred 1) (.main 2) (.imm 8)) (tgAt (lane2 7 0))).tg 0 0).preg 1 0,
    ((after (.icmp plainHd .s32 .lt (.pred 1) (.main 2) (.imm 8)) (tgAt (lane2 7 0))).tg 0 0).l0reg 0) = (true, 1) := by decide +kernel
theorem test_compact_reads_l0 : laneReg 5 0 (.isubCompact 7 false 5 2) { lane2 9 0 with l0 := [(0, 4)] } = 5 := by decide +kernel
theorem test_li_group : ((after (.li uniHd (.grp 4) (.imm 0x80)) (tgAt tg0)).tg 0 0).greg 4 = -128 := by decide +kernel

-- R208: 1 + 2^-24 is a tie and goes to even
theorem test_fadd_tie : laneReg 9 0 (.fadd plainHd .f32 (.main 9) (.main 2) (.main 3)) (lane2 0x3F800000 0x33800000) = 0x3F800000 := by
  decide +kernel
theorem test_fadd_nx : ((after (.fadd plainHd .f32 (.main 9) (.main 2) (.main 3)) (tgAt (lane2 0x3F800000 0x33800000))).tg 0 0).fpctl = 0x100 := by
  decide +kernel
theorem test_fmul_bf16 : laneReg 9 0 (.fmul plainHd .bf16 (.main 9) (.main 2) (.main 3)) (lane2 0xABCD4040 0x4000) = 0x40C0 := by decide +kernel
theorem test_ffma : laneReg 9 0 (.ffma plainHd .f32 (.main 9) (.main 2) (.main 3) (.main 2)) (lane2 0x40000000 0x40400000) = 0x41000000 := by
  decide +kernel
theorem test_fmin_nan : laneReg 9 0 (.fmin plainHd .f32 (.main 9) (.main 2) (.main 3)) (lane2 0x7FC00000 0x40400000) = 0x40400000 := by
  decide +kernel
theorem test_fcmp_un : laneReg 9 0 (.fcmp plainHd .f32 .un (.main 9) (.main 2) (.main 3)) (lane2 0x7FC00000 0x40400000) = 1 := by decide +kernel
theorem test_frnd_rup : laneReg 9 0 (.frnd plainHd .f32 .rup (.main 9) (.main 2)) (lane2 0xBF000000 0) = 0x80000000 := by decide +kernel
theorem test_fclass : laneReg 9 0 (.fclass plainHd .f32 (.main 9) (.main 2)) (lane2 0x80000001 0) = 4 := by decide +kernel
theorem test_f2add : laneReg 9 0 (.f2add plainHd .f16x2 (.main 9) (.main 2) (.main 3)) (lane2 0x3C004000 0x3C003C00) = 0x40004200 := by
  decide +kernel
theorem test_fdot2 : laneReg 9 0 (.fdot2 plainHd .bf16x2 (.main 9) (.main 2) (.main 3) (.imm 0)) (lane2 0x3F804000 0x40404000) = 0x40E00000 := by
  decide +kernel
theorem test_rcp : laneReg 9 0 (.rcp plainHd (.main 9) (.main 2)) (lane2 0x40800000 0) = 0x3E800000 := by decide +kernel
theorem test_sqrt : laneReg 9 0 (.sqrt plainHd (.main 9) (.main 2)) (lane2 0x41100000 0) = 0x40400000 := by decide +kernel
theorem test_log2_zero : laneReg 9 0 (.log2 plainHd (.main 9) (.main 2)) (lane2 0 0) = 0xFF800000 := by decide +kernel
-- R64's worked example: thread 5 of a CVT to BF16 under SR, thread 6 predicated off
theorem test_cvt_sr : laneReg 9 5 (.cvt ⟨0, false, false, none⟩ .bf16 .f32 false true (.main 9) (.main 2))
    { tg0 with v := [(36, 0x40491234), (37, 0x3F808000)], p := [(0, 0xFFBF)] } = 0x3F81 := by decide +kernel
theorem test_cvt_rne : laneReg 9 5 (.cvt plainHd .bf16 .f32 false false (.main 9) (.main 2)) { tg0 with v := [(37, 0x3F808000)] } = 0x3F80 := by
  decide +kernel
/-- The pairs of R221's worked block: (1.0, -3.0) in thread 0 and (5.0, 0.75) in thread 1, and its scale byte. -/
def block : Tg :=
  { tg0 with v := [(64, 0x3F800000), (65, 0x40A00000), (80, 0xC0400000), (81, 0x3F400000), (96, 0xDF), (97, 0xDF), (112, 0xD2), (113, 0x26)] }
theorem test_qscale : laneReg 9 3 (.qscale plainHd .f32 .hyb (.main 9) (.main 4)) block = 0xDF := by decide +kernel
theorem test_qpack : ((List.range 2).map fun j => laneReg 9 j (.qpack plainHd .f32 (.main 9) (.main 4) (.main 6)) block) = [0xD2, 0x26] := by
  decide +kernel
theorem test_qunpk : ([8, 9].map fun n => laneReg n 0 (.qunpk plainHd .f32 (.main 8) (.main 7) (.main 6)) block) = [0x3F800000, 0xC0200000] := by
  decide +kernel

theorem test_shfl_up : ([0, 3].map fun j => laneReg 9 j (.shfl plainHd .up (.main 9) (.main 2) (.imm 1))
    { tg0 with v := [(32, 7), (34, 8), (35, 9)] }) = [7, 8] := by decide +kernel
theorem test_vote_ballot : ((after (.vote plainHd .ballot (.grp 4) (.main 2)) (tgAt { tg0 with v := [(33, 1), (47, 5)] })).tg 0 0).greg 4 = 0x8002 := by
  decide +kernel
theorem test_redux_smin : laneReg 9 4 (.redux plainHd .smin (.main 9) (.main 2)) (lane2 0xFFFFFFFE 0) = 0xFFFFFFFE := by decide +kernel
theorem test_scan_ex : ([0, 1, 2].map fun j => laneReg 9 j (.scan plainHd .add true (.main 9) (.main 2))
    { tg0 with v := [(32, 5), (33, 6), (34, 7)] }) = [0, 5, 11] := by decide +kernel
theorem test_prmt : laneReg 9 0 (.prmt (litHd 0x0C41) (.main 9) (.main 2) (.main 3) .lit) (lane2 0x11223344 0xAABBCC80) = 0x44FF8033 := by
  decide +kernel
/-- R228: threads 0 and 1 take a divergent branch. -/
theorem test_bra_splits : ((after (.bra ⟨0, false, false, none⟩ (some (.imm 4)) 2) (tgAt { tg0 with p := [(0, 3)] })).tg 0 0).div =
    some ⟨⟨3, 0x1010, false, .ready⟩, ⟨0xFFFC, 0x1008, false, .ready⟩, 0x1018⟩ := by decide +kernel
/-- The divergence entry of that branch. -/
def split : Div := ⟨⟨3, 0x1010, false, .ready⟩, ⟨0xFFFC, 0x1008, false, .ready⟩, 0x1018⟩
theorem test_dpush : ([4, 5, 6].map ((after (.dpush uniHd 4) (tgAt { tg0 with div := some split })).tg 0 0).greg) =
    [0x0003FFFC00000001, 0x1018, 0x1008] := by decide +kernel
theorem test_exit : ((after (.exit ⟨0, false, false, none⟩) (tgAt { tg0 with p := [(0, 3)] })).tg 0 0).live = 0xFFFC := by decide +kernel
theorem test_arrive_completes : (((after (.arrive plainHd (.imm 3) (.imm 2))
    (onCore0 (.tg 0 0 true) { tgs := [(0, tg0)], bars := [(3, { exp := 2, cur := 1 })] })).core 0).bar 3).phase = true := by decide +kernel

/-- R39, R41: a store joins the queue and changes no byte; a DRAIN and an APPLY later, memory holds it. -/
def stored0 : State := after (.st plainHd .b32 .plain (.main 2) (.grp 4) (.imm 0)) (withPage 0 (tgAt { lane2 0x11223344 0 with live := 1, path := 1, g := [(4, 0x100)] }))
theorem test_store_queues : ((stored0.actor (tgActor 0 0)).storeQ.map (·.place), stored0.byteAt 0x20100) = ([.glob 1 0x100], 0) := by decide +kernel
theorem test_store_applies :
    let uid := ((stored0.actor (tgActor 0 0)).storeQ.map (·.uid)).headD 0
    (after (.apply uid) (after (.drain (tgActor 0 0) uid) stored0)).physBytes 0x20100 4 = [0x44, 0x33, 0x22, 0x11] := by decide +kernel
theorem test_load_misaligned : ((after (.ld plainHd .b32 .plain (.main 2) (.grp 4) (.imm 2)) (tgAt tg0)).tg 0 0).svc.map (fun f => (f.cause, f.addr, f.lvec)) =
    some (0x08, 2, 0x2222222222222222) := by decide +kernel
theorem test_trap : (((after (.trap plainHd (.main 1)) (spurAt (spur2 0x12345 0))).core 0).spur.frame) = some ⟨0x1000, 0x0F, 0x2345, none, 0x1000⟩ := by
  decide +kernel
theorem test_csrw_fpctl : ((after (.csrw plainHd 0x10 (.main 1)) (spurAt (spur2 2 0))).core 0).spur.fpctl = 2 := by decide +kernel
theorem test_csrw_value : ((after (.csrw plainHd 0x10 (.main 1)) (spurAt (spur2 0x2000 0))).core 0).spur.frame = some ⟨0x1000, 0x06, 0, none, 0x1000⟩ := by
  decide +kernel
-- R430: the longest saddle
theorem test_saddle_length : (saddleLen 65536, saddleLen 1, saddleLen 16) = (2800, 96, 128) := by decide +kernel
theorem test_sadl : spurReg 5 (.sadl plainHd false (.main 5) (.imm 2)) {} = 12288 := by decide +kernel
theorem test_cfil_issues : ((after (.cfil 1 0xAABBCCDD 0x40) (queueAt {})).queue 0 0).cmd.map (fun m => m.pieces.map (·.len)) = some [32] := by
  decide +kernel
/-- A step from the state of the host's probe runs the placed word: `IADD v5, v3, l0`. -/
theorem test_step_runs : (match step (State.reset.withFetchWord 32 0x03053828) with
    | .next t => ((t.tg 0 0).pc, (t.actor (tgActor 0 0)).pos) | _ => (0, 0)) = (4, 1) := by decide +kernel
/-! ## Witnesses: for every clause of a statement, a state and operands that meet its hypotheses -/

/-- A Spur with values in its registers and its first predicates set. -/
def spurW : Spur := { s := [(1, 0x2000), (2, 3), (3, 0x2001), (4, 1)], q := 1 }
/-- The guard `q0` negated: false where `q0` is set. -/
def notQ0 : Hd := ⟨0, true, false, none⟩
/-- A group in which threads 0 and 1 hold `p0`, with a value and an address in its registers. -/
def tgW : Tg := { tg0 with p := [(0, 3)], v := [(32, 7), (48, 0x40)], g := [(4, 0x100), (5, 0xF0000040)] }
/-- The guard `p0`. -/
def onP0 : Hd := ⟨0, false, false, none⟩

theorem witness_SpurScalarComputes_members : ∃ f, spurMember (.mulh plainHd .z64 (.main 63) (.main 1) (.imm 0x80)) =
    some (plainHd, .main 63, .main 1, .imm 0x80, f) ∧ SpurTurn (spurAt spurW) 0 ∧ ((spurAt spurW).core 0).spur.guard plainHd = true :=
  ⟨_, rfl, ⟨rfl, rfl⟩, by decide +kernel⟩
theorem witness_SpurScalarComputes_others : ∃ v, spurOther ((spurAt spurW).core 0).spur (.spurBfi plainHd .s64 1 (.main 2) (.imm 63) (.imm 127)) =
    some (plainHd, .main 1, v) ∧ SpurTurn (spurAt spurW) 0 ∧ ((spurAt spurW).core 0).spur.guard plainHd = true :=
  ⟨_, rfl, ⟨rfl, rfl⟩, by decide +kernel⟩
theorem witness_SpurScalarFrame_guard : spurCalcHead ((spurAt spurW).core 0).spur (.spurMov notQ0 .s64 (.main 0) (.main 1)) =
    some (notQ0, .main 0) ∧ SpurTurn (spurAt spurW) 0 ∧ ((spurAt spurW).core 0).spur.guard notQ0 = false :=
  ⟨rfl, ⟨rfl, rfl⟩, by decide +kernel⟩
theorem witness_SpurScalarFrame_frame : ∃ t, spurCalcHead ((spurAt spurW).core 0).spur (.spurMov plainHd .s64 (.main 0) (.main 1)) =
    some (plainHd, .main 0) ∧ SpurTurn (spurAt spurW) 0 ∧ exec (.spurMov plainHd .s64 (.main 0) (.main 1)) (spurAt spurW) = .next t :=
  ⟨_, rfl, ⟨rfl, rfl⟩, rfl⟩
theorem witness_SpurTransfersControl_legal : ∃ target q, spurTransfer ((spurAt spurW).core 0).spur (.jmp plainHd 0 (.main 1)) =
    some (plainHd, target, q) ∧ SpurTurn (spurAt spurW) 0 ∧ ((spurAt spurW).core 0).spur.guard plainHd = true ∧ legalTarget target :=
  ⟨_, _, rfl, ⟨rfl, rfl⟩, by decide +kernel, by unfold legalTarget; decide +kernel⟩
theorem witness_SpurTransfersControl_misaligned : ∃ target q, spurTransfer ((spurAt spurW).core 0).spur (.ret plainHd (.main 3)) =
    some (plainHd, target, q) ∧ SpurTurn (spurAt spurW) 0 ∧ ((spurAt spurW).core 0).spur.guard plainHd = true ∧ ¬ legalTarget target :=
  ⟨_, _, rfl, ⟨rfl, rfl⟩, by decide +kernel, by unfold legalTarget; decide +kernel⟩
theorem witness_SpurTransfersControl_loopn : SpurTurn (spurAt spurW) 0 ∧ ((spurAt spurW).core 0).spur.guard plainHd = true ∧
    ((spurAt spurW).core 0).spur.reg 0 = 0 ∧ ((spurAt spurW).core 0).spur.reg 4 = 1 :=
  ⟨⟨rfl, rfl⟩, by decide +kernel, by decide +kernel, by decide +kernel⟩

/-- A place that the Spur reaches, on a device with peer links. -/
theorem spur_reaches {s : State} {c size : Nat} {ea : DWord} {pl : Place} (hp : State.hasPeer s = true)
    (h : (decide (decodeEa c (s.asidOf c) ea = .ok pl) && decide (ea.toNat % size = 0) && !s.bitWaits c pl) = true) :
    SpurReaches s c size ea pl := by
  simp only [Bool.and_eq_true, decide_eq_true_eq, Bool.not_eq_true'] at h
  exact ⟨h.1.1, h.1.2, h.2, .inl hp⟩

theorem witness_SpurAccessesIssue_sld : SpurTurn (spurAt spurW) 0 ∧ ((spurAt spurW).core 0).spur.guard plainHd = true ∧
    OrdPresent (spurAt spurW) (.sync .dom) ∧
    SpurReaches (spurAt spurW) 0 (sizeOfSpur .b64) (((spurAt spurW).core 0).spur.src none (.main 1) + ((spurAt spurW).core 0).spur.src none (.imm 8))
      (.glob 1 0x2008) :=
  ⟨⟨rfl, rfl⟩, by decide +kernel, fun _ => by decide +kernel, spur_reaches (by decide +kernel) (by decide +kernel)⟩
/-- A Spur with addresses of its scratchpad. -/
def spurS : Spur := { s := [(1, 0xF000000000000040), (2, 3)] }
theorem witness_SpurAccessesIssue_sst : SpurTurn (spurAt spurS) 0 ∧ ((spurAt spurS).core 0).spur.guard plainHd = true ∧
    OrdPresent (spurAt spurS) (.sync .clu) ∧
    SpurReaches (spurAt spurS) 0 (sizeOfSpur .s16) (((spurAt spurS).core 0).spur.src none (.main 1) + ((spurAt spurS).core 0).spur.src none (.imm 2))
      (.scr 0 0x42) ∧ (spurAt spurS).damaged (.scr 0 0x42) = false ∧
    (∀ sc, Ord.sync .clu = .sync sc → (spurAt spurS).releaseReady (spurActor 0) (((spurAt spurS).actor (spurActor 0)).pos + 1) sc = true) :=
  ⟨⟨rfl, rfl⟩, by decide +kernel, fun h => (by cases h), spur_reaches (by decide +kernel) (by decide +kernel), by decide +kernel,
    fun _ h => (by cases h; decide +kernel)⟩
theorem witness_SpurAccessesIssue_samo : SpurTurn (spurAt spurW) 0 ∧ ((spurAt spurW).core 0).spur.guard plainHd = true ∧
    (Scope.dom = .dom → (spurAt spurW).hasPeer = true) ∧
    SpurReaches (spurAt spurW) 0 4 (((spurAt spurW).core 0).spur.src none (.main 1)) (.glob 1 0x2000) ∧
    (SAop.cas = .cas → ∀ k off, Place.glob 1 0x2000 ≠ .scr k off) ∧
    (spurAt spurW).releaseReady (spurActor 0) (((spurAt spurW).actor (spurActor 0)).pos + 1) .dom = true :=
  ⟨⟨rfl, rfl⟩, by decide +kernel, fun _ => by decide +kernel, spur_reaches (by decide +kernel) (by decide +kernel),
    (fun _ _ _ h => (by cases h)), by decide +kernel⟩

theorem witness_LaneIntegerInstructionsCompute_computes : ∃ o, laneIntOp (.bfi onP0 .s32 (.main 9) (.main 2) (.imm 31) (.imm 1)) = some o ∧
    TgTurn (tgAt tgW) 0 0 true ∧
    (∀ j < 16, (o.threads ((tgAt tgW).tg 0 0) true).getLsbD j = true → o.legal ((tgAt tgW).tg 0 0) j = true) :=
  ⟨_, rfl, ⟨rfl, rfl⟩, by decide +kernel⟩
theorem witness_LaneIntegerInstructionsCompute_traps : ∃ o, laneIntOp (.bfx onP0 .s32 (.main 9) (.main 2) (.imm 31) (.imm 2)) = some o ∧
    TgTurn (tgAt tgW) 0 0 true ∧ (1 : Nat) < 16 ∧ (o.threads ((tgAt tgW).tg 0 0) true).getLsbD 1 = true ∧ o.legal ((tgAt tgW).tg 0 0) 1 = false ∧
    (tgAt tgW).busy (tgActor 0 0) = false ∧ ((tgAt tgW).tg 0 0).late = [] ∧ ((tgAt tgW).tg 0 0).svc = none ∧
    (((tgAt tgW).tg 0 0).frame.isSome = true ∨ ((tgAt tgW).core 0).csr.delivers 0x0D = false) :=
  ⟨_, rfl, ⟨rfl, rfl⟩, by decide, by decide +kernel, by decide +kernel, by decide +kernel, rfl, rfl, .inr (by decide +kernel)⟩
theorem witness_FclassSetsOneBit : TgTurn (tgAt tgW) 0 0 true := ⟨rfl, rfl⟩
theorem witness_LaneFloatInstructionsCompute_computes : ∃ o, laneFloatOp (.cvt onP0 .bf16 .f32 false true (.main 9) (.main 2)) = some o ∧
    TgTurn (tgAt tgW) 0 0 true ∧ (o.sr ((tgAt tgW).tg 0 0).fpctl = true → (tgAt tgW).hasSrnd = true) :=
  ⟨_, rfl, ⟨rfl, rfl⟩, fun _ => by decide +kernel⟩
theorem witness_LaneFloatInstructionsCompute_qscale : TgTurn (tgAt tgW) 0 0 true := ⟨rfl, rfl⟩
theorem witness_LaneFrames_integer : ∃ o t, laneIntOp (.iadd onP0 .s32 false (.main 9) (.main 2) (.main 3)) = some o ∧ TgTurn (tgAt tgW) 0 0 true ∧
    (∀ j < 16, (o.threads ((tgAt tgW).tg 0 0) true).getLsbD j = true → o.legal ((tgAt tgW).tg 0 0) j = true) ∧
    exec (.iadd onP0 .s32 false (.main 9) (.main 2) (.main 3)) (tgAt tgW) = .next t :=
  ⟨_, _, rfl, ⟨rfl, rfl⟩, by decide +kernel, rfl⟩
theorem witness_LaneFrames_float : ∃ o t, laneFloatOp (.fadd onP0 .f32 (.main 9) (.main 2) (.main 3)) = some o ∧ TgTurn (tgAt tgW) 0 0 true ∧
    (o.sr ((tgAt tgW).tg 0 0).fpctl = true → (tgAt tgW).hasSrnd = true) ∧
    exec (.fadd onP0 .f32 (.main 9) (.main 2) (.main 3)) (tgAt tgW) = .next t :=
  ⟨_, _, rfl, ⟨rfl, rfl⟩, fun _ => by decide +kernel, rfl⟩
theorem witness_FloatArithmeticLaws_rounds : fp16 ∈ [fp32, fp16, bf16, e4m3, e5m2] ∧ ({ mode := .sr } : RCtl).ftz = false ∧
    0xFC00 < 2 ^ (1 + fp16.eb + fp16.fb) ∧ (FV.ofBits fp16 false 0xFC00).isNan = false ∧
    (({ mode := .sr } : RCtl).sat = true → (FV.ofBits fp16 false 0xFC00).isInf = false) := by
  refine ⟨?_, ?_, ?_, ?_, ?_⟩ <;> decide +kernel

theorem witness_CrossLaneComputes : ∃ u, crossRegs ((tgAt tgW).tg 0 0) true (((tgAt tgW).actor (tgActor 0 0)).pos + 1)
      (.shfl onP0 .idx (.main 9) (.main 2) (.imm 15)) = some (onP0, u) ∧ TgTurn (tgAt tgW) 0 0 true ∧
    CrossLegal (tgAt tgW) ((tgAt tgW).tg 0 0) true (.shfl onP0 .idx (.main 9) (.main 2) (.imm 15)) :=
  ⟨_, rfl, ⟨rfl, rfl⟩, fun _ => by decide +kernel⟩
theorem witness_CrossLaneComputes_sum : ∃ u, crossRegs ((tgAt tgW).tg 0 0) true (((tgAt tgW).actor (tgActor 0 0)).pos + 1)
      (.redux onP0 .fadd (.main 9) (.main 2)) = some (onP0, u) ∧ TgTurn (tgAt tgW) 0 0 true ∧
    CrossLegal (tgAt tgW) ((tgAt tgW).tg 0 0) true (.redux onP0 .fadd (.main 9) (.main 2)) :=
  ⟨_, rfl, ⟨rfl, rfl⟩, fun _ _ => by decide +kernel⟩
theorem witness_ExitEndsItsThreads : TgTurn (tgAt tgW) 0 0 true ∧ ((tgAt tgW).tg 0 0).frame = none ∧ ((tgAt tgW).tg 0 0).handler = none ∧
    ((tgAt tgW).tg 0 0).div = none ∧ branching ((tgAt tgW).tg 0 0) true ⟨1, false, false, none⟩ = 0 ∧
    branching ((tgAt tgW).tg 0 0) true onP0 ≠ 0 ∧ ((tgAt tgW).tg 0 0).live &&& ~~~branching ((tgAt tgW).tg 0 0) true onP0 ≠ 0 ∧
    ((tgAt tgW).tg 0 0).live &&& ~~~branching ((tgAt tgW).tg 0 0) true plainHd = 0 :=
  ⟨⟨rfl, rfl⟩, rfl, rfl, rfl, by decide +kernel, by decide +kernel, by decide +kernel, by decide +kernel⟩
theorem witness_BranchesAndTheirDepth : TgTurn (tgAt tgW) 0 0 true ∧ branching ((tgAt tgW).tg 0 0) true ⟨1, false, false, none⟩ = 0 ∧
    branching ((tgAt tgW).tg 0 0) true uniHd ≠ 0 ∧ (braTarget ((tgAt tgW).tg 0 0) true uniHd (-3)).extractLsb' 56 8 = 0 ∧
    branching ((tgAt tgW).tg 0 0) true onP0 ≠ 0 ∧ branching ((tgAt tgW).tg 0 0) true onP0 ≠ ((tgAt tgW).tg 0 0).active true ∧
    ((tgAt tgW).tg 0 0).div = none ∧ (((tgAt tgW).tg 0 0).armPc true + BitVec.ofNat 64 (4 * hdLen onP0) + (recDist onP0 (.imm 4) <<< 2)).extractLsb' 56 8 = 0 :=
  ⟨⟨rfl, rfl⟩, by decide +kernel, by decide +kernel, by decide +kernel, by decide +kernel, by decide +kernel, rfl, by decide +kernel⟩
/-- A diverged group. -/
def tgD : Tg := { tgW with div := some split }
/-- A divergent BRA without a reconvergence operand, and one whose operand lies outside the global addresses. -/
def tgHigh : Tg := { tgW with pc := 0xFFFFFFFFFFFFFC }
theorem witness_BranchesAndTheirDepth_operand : ∀ g ∈ [tgW, tgHigh],
    (tgAt g).who = .tg 0 0 true ∧ ((tgAt g).tg 0 0).used = true ∧ onP0.u = false ∧ branching ((tgAt g).tg 0 0) true onP0 ≠ 0 ∧
    branching ((tgAt g).tg 0 0) true onP0 ≠ ((tgAt g).tg 0 0).active true ∧
    (g = tgHigh →
      (((tgAt g).tg 0 0).armPc true + BitVec.ofNat 64 (4 * hdLen onP0) + (recDist onP0 (.imm 4) <<< 2)).extractLsb' 56 8 ≠ 0) ∧
    (tgAt g).busy (tgActor 0 0) = false ∧ ((tgAt g).tg 0 0).late = [] ∧ ((tgAt g).tg 0 0).svc = none ∧
    (((tgAt g).tg 0 0).frame.isSome = true ∨ ((tgAt g).core 0).csr.delivers 0x07 = false) := by decide +kernel
theorem witness_BranchesAndTheirDepth_depth : TgTurn (tgAt { tgD with p := [(0, 1)] }) 0 0 true ∧ onP0.u = false ∧
    branching ((tgAt { tgD with p := [(0, 1)] }).tg 0 0) true onP0 ≠ 0 ∧
    branching ((tgAt { tgD with p := [(0, 1)] }).tg 0 0) true onP0 ≠ ((tgAt { tgD with p := [(0, 1)] }).tg 0 0).active true ∧
    ((tgAt { tgD with p := [(0, 1)] }).tg 0 0).div.isSome = true ∧
    (((tgAt { tgD with p := [(0, 1)] }).tg 0 0).armPc true + BitVec.ofNat 64 (4 * hdLen onP0) + (recDist onP0 (.imm 4) <<< 2)).extractLsb' 56 8 = 0 ∧
    (tgAt { tgD with p := [(0, 1)] }).busy (tgActor 0 0) = false ∧ ((tgAt { tgD with p := [(0, 1)] }).tg 0 0).late = [] ∧
    ((tgAt { tgD with p := [(0, 1)] }).tg 0 0).svc = none ∧ (((tgAt { tgD with p := [(0, 1)] }).tg 0 0).frame.isSome = true ∨
    ((tgAt { tgD with p := [(0, 1)] }).core 0).csr.delivers 0x10 = false) :=
  ⟨⟨rfl, rfl⟩, rfl, by decide +kernel, by decide +kernel, rfl, by decide +kernel, by decide +kernel, rfl, rfl, .inr (by decide +kernel)⟩
/-- A group at its reconvergence PC, the other arm waiting there or not. -/
def tgR (w : Bool) : Tg := { tgW with div := some ⟨⟨3, 0x1018, false, .ready⟩, ⟨0xFFFC, 0x1018, w, .ready⟩, 0x1018⟩ }
theorem witness_RejoiningInstructions_reconv : TgTurn (tgAt tgW) 0 0 true ∧ ((tgAt tgW).tg 0 0).div = none ∧
    TgTurn (tgAt tgD) 0 0 true ∧ ((tgAt tgD).tg 0 0).div = some split ∧ ((tgAt tgD).tg 0 0).armPc true ≠ split.rpc ∧
    TgTurn (tgAt (tgR true)) 0 0 true ∧ TgTurn (tgAt (tgR false)) 0 0 true ∧
    ((tgAt (tgR true)).tg 0 0).armPc true = 0x1018 ∧ branching ((tgAt (tgR true)).tg 0 0) true plainHd ≠ 0 :=
  ⟨⟨rfl, rfl⟩, rfl, ⟨rfl, rfl⟩, rfl, by decide +kernel, ⟨rfl, rfl⟩, ⟨rfl, rfl⟩, by decide +kernel, by decide +kernel⟩
/-- A gang of two groups, the second at the first's FUSE. -/
def gang2 : State :=
  onCore0 (.tg 0 0 true) { tgs := [(0, { tg0 with width := 2 }), (1, { tg0 with width := 2, strand := 1, fuseAt := some 0 })] }
theorem witness_RejoiningInstructions_fuse : TgTurn (tgAt tgW) 0 0 true ∧ ((tgAt tgW).tg 0 0).width = 1 ∧
    TgTurn gang2 0 0 true ∧ (gang2.tg 0 0).width ≠ 1 ∧ (gang2.tg 0 0).div = none ∧ branching (gang2.tg 0 0) true plainHd ≠ 0 ∧
    0 ∈ (gang2.core 0).liveGang (gang2.tg 0 0) ∧
    (∀ j ∈ (gang2.core 0).liveGang (gang2.tg 0 0), j ≠ 0 →
      (gang2.tg 0 j).fuseAt.isSome = true ∧ (gang2.tg 0 j).div = none ∧ (gang2.tg 0 j).pc = (gang2.tg 0 0).pc) :=
  ⟨⟨rfl, rfl⟩, rfl, ⟨rfl, rfl⟩, by decide +kernel, rfl, by decide +kernel, by decide +kernel, by decide +kernel⟩
theorem witness_DivergenceStackMoves_dpush : TgTurn (tgAt tgD) 0 0 true ∧ ((tgAt tgD).tg 0 0).leadGuard true 7 false = true :=
  ⟨⟨rfl, rfl⟩, by decide +kernel⟩
/-- A group whose registers 4 to 6 hold a spilled entry, busy or idle. -/
def tgP (w : DWord) : Tg := { tg0 with live := 0xFFFF, path := 3, g := [(4, w), (5, 0x1018), (6, 0x1008)] }
theorem witness_DivergenceStackMoves_dpop : TgTurn (tgAt (tgP 0x0003FFFC00000001)) 0 0 true ∧
    ((tgAt (tgP 0x0003FFFC00000001)).tg 0 0).leadGuard true 7 false = true ∧ ((tgAt (tgP 0x0003FFFC00000001)).tg 0 0).div = none ∧
    (let g := (tgAt (tgP 0x0003FFFC00000001)).tg 0 0
     let w := g.greg 4
     w.extractLsb' 1 1 = 0 ∧ w.extractLsb' 3 29 = 0 ∧ w.extractLsb' 48 16 &&& w.extractLsb' 32 16 = 0 ∧
     g.greg 5 &&& 0xFF00000000000003 = 0 ∧ g.greg 6 &&& 0xFF00000000000003 = 0 ∧ w.getLsbD 0 = true ∧
     w.extractLsb' 48 16 &&& g.live = g.active true) ∧
    TgTurn (tgAt (tgP 0)) 0 0 true ∧ ((tgAt (tgP 0)).tg 0 0).greg 4 = 0 :=
  ⟨⟨rfl, rfl⟩, by decide +kernel, rfl, by decide +kernel, ⟨rfl, rfl⟩, by decide +kernel⟩
/-- The held arm's instruction has been skipped by firmware. -/
theorem witness_DivergenceStackMoves_skipped :
    (let g := { tgP 0x0003FFFC00000001 with skips := [⟨0x00F0, 0x1008, 0x100C⟩] }
     g.skipOf ((g.greg 4).extractLsb' 32 16 &&& g.live) (g.greg 6) = some ⟨0x00F0, 0x1008, 0x100C⟩ ∧
     (tgAt g).who = .tg 0 0 true ∧ ((tgAt g).tg 0 0) = g ∧ g.leadGuard true 7 false = true ∧ g.div = none) := by decide +kernel

/-- A group at barrier 15, its lag and the barrier's counts given. -/
def barW (lag : Nat) (b : Bar) (g : Tg) : State := onCore0 (.tg 0 0 true) { tgs := [(0, { g with lag := [(15, lag)] })], bars := [(15, b)] }
theorem witness_CoreBarriersCount_arrive :
    (∀ s ∈ [barW 0 { exp := 128, cur := 3, next := 1 } tg0, barW 0 { exp := 128, cur := 127 } tg0, barW 0 { exp := 128, cur := 127, next := 128 } tg0,
        barW 1 { exp := 128, cur := 3 } tg0], s.who = .tg 0 0 true ∧ (s.tg 0 0).used = true ∧ (s.tg 0 0).leadGuard true 7 false = true ∧
      (s.tg 0 0).div = none ∧ s.releaseReady (tgActor 0 0) ((s.actor (tgActor 0 0)).pos + 1) .core = true ∧ ((s.core 0).bar 15).exp = 128 ∧
      ((s.tg 0 0).src32 none ((s.tg 0 0).lead true) (.imm 15)).toNat = 15 ∧ (s.tg 0 0).lagAt 15 ≤ 1) ∧
    ((barW 0 { exp := 128 } tg0).tg 0 0).src32 (some 128) 0 .lit = 128 := by decide +kernel
theorem witness_CoreBarriersCount_await :
    ∀ s ∈ [barW 0 {} tg0, barW 1 {} tg0, barW 1 {} { tg0 with arrived := true }], s.who = .tg 0 0 true ∧ (s.tg 0 0).used = true ∧
      (s.tg 0 0).leadGuard true 7 false = true ∧ (s.tg 0 0).div = none ∧ ((s.tg 0 0).src32 none ((s.tg 0 0).lead true) (.imm 15)).toNat ≤ 15 ∧
      1 ≤ ((s.tg 0 0).src32 none ((s.tg 0 0).lead true) (.imm 2)).toNat ∧ ((s.tg 0 0).src32 none ((s.tg 0 0).lead true) (.imm 2)).toNat ≤ 128 := by
  decide +kernel
theorem witness_CoreBarriersCount_bar :
    let s := barW 0 { exp := 2 } tg0
    s.who = .tg 0 0 true ∧ (s.tg 0 0).used = true ∧ (s.tg 0 0).leadGuard true 7 false = true ∧ (s.tg 0 0).div = none ∧
    (s.tg 0 0).arrived = false ∧ s.releaseReady (tgActor 0 0) ((s.actor (tgActor 0 0)).pos + 1) .core = true ∧
    ((s.core 0).bar 15).cur = 0 ∧ (s.tg 0 0).lagAt 15 = 0 ∧ ((s.core 0).bar 15).cur + 1 ≠ 2 := by decide +kernel
theorem witness_WideBarriersMeet_sbar :
    (let s := tgAt tg0
     s.who = .tg 0 0 true ∧ (s.tg 0 0).used = true ∧ (s.tg 0 0).leadGuard true 7 false = true ∧ (s.tg 0 0).sbWait = none ∧
     (s.tg 0 0).div = none ∧ s.fenceDone (tgActor 0 0) ⟨(s.actor (tgActor 0 0)).pos + 1, .cum, scScope .clu⟩ = true ∧
     (s.sbar (scCode .clu) (scInst .clu 0) (s.asidOf 0)).members = []) ∧
    (let s := tgAt { tg0 with sbWait := some 1 }
     s.who = .tg 0 0 true ∧ (s.tg 0 0).used = true ∧ (s.tg 0 0).leadGuard true 7 false = true ∧ (s.tg 0 0).sbWait = some 1 ∧
     (s.sbar (scCode .clu) (scInst .clu 0) (s.asidOf 0)).rounds ≠ 1) := by decide +kernel
/-- A gang of two groups at the BARM whose mask names all their threads, the second with its part in a rendezvous. -/
def barms (b : Option Barm) : State :=
  onCore0 (.tg 0 0 true) { tgs := [(0, { tg0 with width := 2, g := [(4, 0xFFFFFFFF)] }), (1, { tg0 with width := 2, strand := 1, barm := b })] }
/-- The second group's part. -/
def mateBarm : Barm := { mask := 0xFFFFFFFF, pc := 0x1000, threads := 0xFFFF, done := false, fail := [] }
/-- What BARM asks for, where whoever has joined gave one part. -/
theorem barm_joins {s : State} {h : Hd} {a : Src} {w : DWord} (l : List Nat) (o : Option Barm)
    (hd : ((s.tg 0 0).barm = none ∧ (s.tg 0 0).outer.barm = none ∧ (s.tg 0 0).div = none ∧ (s.tg 0 0).base ≤ 0 ∧
      0 < (s.tg 0 0).base + (s.tg 0 0).width ∧ branching (s.tg 0 0) true h ≠ 0 ∧
      (∀ i < 16, (branching (s.tg 0 0) true h).getLsbD i = true → (s.tg 0 0).src64 h.lit i a = w) ∧
      (s.core 0).barmBad (s.tg 0 0) (0 - (s.tg 0 0).base) (branching (s.tg 0 0) true h) w = false))
    (hj : (s.core 0).barmJoined (s.tg 0 0) (s.tg 0 0).pc = l) (hb : ∀ j ∈ l, ((s.core 0).tg j).barmAt (s.tg 0 0).pc = o)
    (hm : ∀ b ∈ o, b.mask = w) (hr : s.releaseReady (tgActor 0 0) ((s.actor (tgActor 0 0)).pos + 1) .core = true) :
    BarmJoins s 0 0 true h a w := by
  obtain ⟨h1, h2, h3, h4, h5, h6, h7, h8⟩ := hd
  refine ⟨h1, h2, h3, h4, h5, h6, h7, h8, fun j hj' b hb' => hm b ?_, hr⟩
  rw [hj] at hj'
  rw [hb j hj'] at hb'
  exact hb'
theorem witness_WideBarriersMeet_barm_waits : TgTurn (barms none) 0 0 true ∧ BarmJoins (barms none) 0 0 true plainHd (.grp 4) 0xFFFFFFFF ∧
    1 < ((barms none).tg 0 0).width ∧ ((barms none).tg 0 0).base + 1 ≠ 0 ∧ memberBits 0xFFFFFFFF 1 ≠ 0 ∧
    ((barms none).tg 0 1).barmAt ((barms none).tg 0 0).pc = none :=
  ⟨⟨rfl, rfl⟩, barm_joins [] none (by decide +kernel) (by decide +kernel) (by decide) (by decide) (by decide +kernel), by decide +kernel⟩
theorem witness_WideBarriersMeet_barm_last : TgTurn (barms (some mateBarm)) 0 0 true ∧
    BarmJoins (barms (some mateBarm)) 0 0 true plainHd (.grp 4) 0xFFFFFFFF ∧
    memberBits 0xFFFFFFFF 0 = branching ((barms (some mateBarm)).tg 0 0) true plainHd ∧
    ∀ j < ((barms (some mateBarm)).tg 0 0).width, ((barms (some mateBarm)).tg 0 0).base + j ≠ 0 → memberBits 0xFFFFFFFF j ≠ 0 →
      (((barms (some mateBarm)).tg 0 0).mate ((barms (some mateBarm)).tg 0 (((barms (some mateBarm)).tg 0 0).base + j)) = true ∧
      ∃ b, ((barms (some mateBarm)).tg 0 (((barms (some mateBarm)).tg 0 0).base + j)).barm = some b ∧ b.pc = 0x1000 ∧ b.done = false ∧
        b.fail = [] ∧ memberBits 0xFFFFFFFF j &&& ~~~b.threads = 0) := by
  refine ⟨⟨rfl, rfl⟩, barm_joins [1] (some mateBarm) (by decide +kernel) (by decide +kernel) (by decide +kernel)
    (fun b e => by cases e; rfl) (by decide +kernel), by decide +kernel, ?_⟩
  intro j hj h0 _
  have hw : ((barms (some mateBarm)).tg 0 0).width = 2 := rfl
  have hb : ((barms (some mateBarm)).tg 0 0).base = 0 := rfl
  have : j = 1 := by omega
  subst this
  exact ⟨by decide +kernel, mateBarm, by decide +kernel, rfl, rfl, rfl, by decide +kernel⟩
theorem witness_WideBarriersMeet_barm_alone :
    (let s := tgAt { tg0 with live := 1, path := 1 }
     TgTurn s 0 0 true ∧ BarmJoins s 0 0 true plainHd (.imm 1) 1 ∧ memberBits 1 0 = branching (s.tg 0 0) true plainHd ∧
     ∀ j < (s.tg 0 0).width, (s.tg 0 0).base + j = 0) :=
  ⟨⟨rfl, rfl⟩, barm_joins [] none (by decide +kernel) (by decide +kernel) (by decide) (by decide) (by decide +kernel), by decide +kernel,
    by decide +kernel⟩
theorem witness_WideBarriersMeet_barm_done :
    (let s := tgAt { tg0 with barm := some { mask := 1, pc := 0x1000, threads := 1, done := true, fail := [] } }
     s.who = .tg 0 0 true ∧ (s.tg 0 0).used = true ∧ ∃ b ∈ (s.tg 0 0).barm, b.fail = [] ∧ b.done = true) := by decide +kernel
/-! ### Lane memory and ordering -/

/-- Threads that reach their places, on a device with peer links. -/
theorem lanes_reach {s : State} {c size : Nat} {m : Mask} {ad : Nat → DWord × EaAns} {f : Nat → Place} (hp : State.hasPeer s = true)
    (h : ((List.range 16).all fun i => !m.getLsbD i ||
      (decide ((ad i).2 = .ok (f i)) && decide ((ad i).1.toNat % size = 0) && !s.bitWaits c (f i))) = true) : LanesReach s c size m ad f := by
  intro i hi hm
  have := List.all_eq_true.mp h i (List.mem_range.mpr hi)
  simp only [hm, Bool.not_true, Bool.false_or, Bool.and_eq_true, decide_eq_true_eq, Bool.not_eq_true'] at this
  exact ⟨this.1.1, this.1.2, this.2, .inl hp⟩

/-- Thread 0 at one word, thread 1 at another. -/
def twoWords (i : Nat) : Place := if i = 0 then .glob 1 0x140 else .glob 1 0x100
/-- The same in the scratchpad. -/
def twoScratch (i : Nat) : Place := if i = 0 then .scr 0 0x40 else .scr 0 0
/-- One group's state: threads 0 and 1 hold `p0`. -/
def tgWs : State := tgAt tgW

theorem witness_LaneLoadsJoinThePendingLoads_ld : TgTurn tgWs 0 0 true ∧ OrdPresent tgWs (.sync .dom) ∧ branching (tgWs.tg 0 0) true onP0 ≠ 0 ∧
    LanesReach tgWs 0 (laneSize .b64) (branching (tgWs.tg 0 0) true onP0) (laneEa tgWs 0 false onP0 (.grp 4) (.main 3) (tgWs.tg 0 0)) twoWords :=
  ⟨⟨rfl, rfl⟩, fun _ => by decide +kernel, by decide +kernel, lanes_reach (by decide +kernel) (by decide +kernel)⟩
theorem witness_LaneLoadsJoinThePendingLoads_lds : TgTurn tgWs 0 0 true ∧ OrdPresent tgWs .plain ∧
    LanesReach tgWs 0 (laneSize .b64) (branching (tgWs.tg 0 0) true onP0) (laneEa tgWs 0 true onP0 (.imm 0) (.main 3) (tgWs.tg 0 0)) twoScratch :=
  ⟨⟨rfl, rfl⟩, fun h => (by cases h), lanes_reach (by decide +kernel) (by decide +kernel)⟩
theorem witness_LaneLoadsJoinThePendingLoads_none : TgTurn tgWs 0 0 true ∧ OrdPresent tgWs .plain ∧
    LanesReach tgWs 0 4 (branching (tgWs.tg 0 0) true ⟨1, false, false, none⟩)
      (laneEa tgWs 0 false ⟨1, false, false, none⟩ (.grp 4) (.main 3) (tgWs.tg 0 0)) twoWords ∧
    branching (tgWs.tg 0 0) true ⟨1, false, false, none⟩ = 0 :=
  ⟨⟨rfl, rfl⟩, fun h => (by cases h), lanes_reach (by decide +kernel) (by decide +kernel), by decide +kernel⟩
theorem witness_LaneStoresAndAtomicsJoinTheQueue_st : TgTurn tgWs 0 0 true ∧ OrdPresent tgWs (.sync .clu) ∧ OrdMet tgWs 0 0 (.sync .clu) ∧
    onP0.u = false ∧ (tgWs.tg 0 0).contrib true onP0.pred onP0.pn ≠ 0 ∧
    LanesReach tgWs 0 (laneSize .b32) ((tgWs.tg 0 0).contrib true onP0.pred onP0.pn)
      (laneEa tgWs 0 false onP0 (.grp 4) (.main 3) (tgWs.tg 0 0)) twoWords :=
  ⟨⟨rfl, rfl⟩, fun h => (by cases h), fun _ h => (by cases h; decide +kernel), rfl, by decide +kernel,
    lanes_reach (by decide +kernel) (by decide +kernel)⟩
theorem witness_LaneStoresAndAtomicsJoinTheQueue_atomf : ∃ o, laneAtomic (.atomf onP0 .add .f16x2 .dom (.main 9) (.grp 4) (.main 3)) = some o ∧
    TgTurn tgWs 0 0 true ∧ (o.sc = .dom → tgWs.hasPeer = true) ∧ o.h.u = false ∧ (o.srnd (tgWs.tg 0 0) = true → tgWs.hasSrnd = true) ∧
    (o.sc = .tg ∨ tgWs.releaseReady (tgActor 0 0) ((tgWs.actor (tgActor 0 0)).pos + 1) o.sc = true) ∧
    LanesReach tgWs 0 o.size ((tgWs.tg 0 0).contrib true o.h.pred o.h.pn) (atomEa tgWs 0 o.scr o.h o.a (tgWs.tg 0 0)) (fun _ => .glob 1 0x100) ∧
    (o.scr = false → ∀ j n off, (fun _ : Nat => Place.glob 1 0x100) j ≠ .scr n off) ∧
    (tgWs.tg 0 0).contrib true o.h.pred o.h.pn ≠ 0 :=
  ⟨_, rfl, ⟨rfl, rfl⟩, fun _ => (by decide +kernel), rfl, fun _ => (by decide +kernel), .inr (by decide +kernel),
    lanes_reach (by decide +kernel) (by decide +kernel), fun _ _ _ _ h => (by cases h), by decide +kernel⟩
theorem witness_LaneStoresAndAtomicsJoinTheQueue_atoms : ∃ o, laneAtomic (.atoms onP0 .add true .tg (.main 9) (.main 3) (.main 4)) = some o ∧
    TgTurn tgWs 0 0 true ∧ o.h.u = false ∧ o.sc = .tg ∧ o.scr = true ∧ o.srnd (tgWs.tg 0 0) = false ∧
    LanesReach tgWs 0 o.size ((tgWs.tg 0 0).contrib true o.h.pred o.h.pn) (atomEa tgWs 0 o.scr o.h o.a (tgWs.tg 0 0)) twoScratch ∧
    (tgWs.tg 0 0).contrib true o.h.pred o.h.pn ≠ 0 :=
  ⟨_, rfl, ⟨rfl, rfl⟩, rfl, rfl, rfl, rfl, lanes_reach (by decide +kernel) (by decide +kernel), by decide +kernel⟩

theorem witness_OrderingAndSidecars_group : TgTurn tgWs 0 0 true ∧ (tgWs.tg 0 0).leadGuard true onP0.pred onP0.pn = true ∧
    (Scope.dom = .dom → tgWs.hasPeer = true) ∧ tgWs.unsettled (tgActor 0 0) = false ∧ branching (tgWs.tg 0 0) true onP0 ≠ 0 ∧
    (∀ fk sc, tgWs.fenceReady (tgActor 0 0) ⟨(tgWs.actor (tgActor 0 0)).pos + 1, fk, sc⟩ = true) :=
  ⟨⟨rfl, rfl⟩, by decide +kernel, fun _ => (by decide +kernel), by decide +kernel, by decide +kernel,
    fun fk sc => by cases fk <;> cases sc <;> decide +kernel⟩
theorem witness_OrderingAndSidecars_spur : SpurTurn (spurAt spurW) 0 ∧ ((spurAt spurW).core 0).spur.guard plainHd = true ∧
    (Scope.dom = .dom → (spurAt spurW).hasPeer = true) ∧
    (∀ fk sc, (spurAt spurW).fenceReady (spurActor 0) ⟨((spurAt spurW).actor (spurActor 0)).pos + 1, fk, sc⟩ = true) :=
  ⟨⟨rfl, rfl⟩, by decide +kernel, fun _ => (by decide +kernel), fun fk sc => by cases fk <;> cases sc <;> decide +kernel⟩
/-- The attribute bit K of a leaf. -/
def kBit : Nat := 2 ^ 55
/-- The page that an address was located at. -/
def pageOf {e : Type} (r : Except e Loc) : Option Page := match r with | .ok (.phys p) => some p | _ => none
theorem pageOf_some {e : Type} {r : Except e Loc} {p : Page} (h : pageOf r = some p) : r = .ok (.phys p) := by
  unfold pageOf at h; split at h <;> simp_all
/-- A Spur store to a page of global memory may leave. -/
theorem leaves_glob {s : State} {asid va : Nat} {held : Bool} {p : Page} (hc : (s.core 0).copy asid (va / 128) = none)
    (hp : pageOf (s.locGlob .wr asid va) = some p)
    (h : if p.k then held = true else s.damaged (.phys p) = false ∧ held = s.ownedByOther (spurActor 0) (.phys p)) :
    StoreLeaves s 0 (.glob asid va) held :=
  ⟨fun _ e => (by rw [hc] at e; cases e), .phys p, pageOf_some hp, h⟩
/-- The Spur at a store to VA 0x140 of page 0, plain, in a Cairn page, or to a line that an engine owns. -/
def storing (extra : Nat) (owned : Bool) : State :=
  { withPage extra (spurAt { s := [(1, 0x140), (2, 3)] }) with owners := if owned then [⟨0x20140 / 128, queueActor 0 0⟩] else [] }
theorem witness_SpurAccessesIssue_sst_pages : ∀ x ∈ [(0, false, false), (kBit, false, true), (0, true, true)],
    SpurTurn (storing x.1 x.2.1) 0 ∧ ((storing x.1 x.2.1).core 0).spur.guard plainHd = true ∧
    SpurReaches (storing x.1 x.2.1) 0 (sizeOfSpur .s32)
      (((storing x.1 x.2.1).core 0).spur.src none (.main 1) + ((storing x.1 x.2.1).core 0).spur.src none (.imm 0)) (.glob 1 0x140) ∧
    StoreLeaves (storing x.1 x.2.1) 0 (.glob 1 0x140) x.2.2 := by
  intro x hx
  simp only [List.mem_cons, List.not_mem_nil, or_false] at hx
  rcases hx with rfl | rfl | rfl
  · exact ⟨⟨rfl, rfl⟩, by decide +kernel, spur_reaches (by decide +kernel) (by decide +kernel),
      leaves_glob (p := ⟨0x20140, true, true, true, false, 0, false, false, false⟩) (by decide +kernel) (by decide +kernel) (by decide +kernel)⟩
  · exact ⟨⟨rfl, rfl⟩, by decide +kernel, spur_reaches (by decide +kernel) (by decide +kernel),
      leaves_glob (p := ⟨0x20140, true, true, true, false, 0, true, false, false⟩) (by decide +kernel) (by decide +kernel) (by decide +kernel)⟩
  · exact ⟨⟨rfl, rfl⟩, by decide +kernel, spur_reaches (by decide +kernel) (by decide +kernel),
      leaves_glob (p := ⟨0x20140, true, true, true, false, 0, false, false, false⟩) (by decide +kernel) (by decide +kernel) (by decide +kernel)⟩
theorem witness_SpurAccessesIssue_sst_others :
    (let s := spurAt { s := [(1, 0xF100000100000000), (2, 3)] }
     SpurTurn s 0 ∧ SpurReaches s 0 (sizeOfSpur .s32) ((s.core 0).spur.src none (.main 1) + (s.core 0).spur.src none (.imm 4)) (.scr 1 4) ∧
     StoreLeaves s 0 (.scr 1 4) true) ∧
    (let s := spurAt { s := [(1, 0x00FF030000000000), (2, 3)] }
     SpurTurn s 0 ∧ SpurReaches s 0 (sizeOfSpur .s32) ((s.core 0).spur.src none (.main 1) + (s.core 0).spur.src none (.imm 4))
       (.win 1 0x00FF030000000004) ∧ StoreLeaves s 0 (.win 1 0x00FF030000000004) true) :=
  ⟨⟨⟨rfl, rfl⟩, spur_reaches (by decide +kernel) (by decide +kernel), by simp [StoreLeaves]⟩,
    ⟨rfl, rfl⟩, spur_reaches (by decide +kernel) (by decide +kernel), rfl⟩
/-- A group that scrubs a Cairn line, before its first line or behind it. -/
def tgScrub (at_ : Option (Bool × Nat)) : State :=
  withPage kBit (tgAt { tgW with g := [(4, 0x80)], v := [(48, 128)], scrubbing := at_.isSome, scrub := at_ })
theorem witness_OrderingAndSidecars_cscrub : ∃ p, 0x80 < 0x00FF000000000000 ∧ 0x80 % 128 = 0 ∧ (tgScrub none).hasPeer = true ∧
    (∀ x ∈ [none, some (true, 0x100)], (tgScrub x).who = .tg 0 0 true ∧ ((tgScrub x).tg 0 0).used = true ∧
      branching ((tgScrub x).tg 0 0) true onP0 ≠ 0 ∧ (tgScrub x).unsettled (tgActor 0 0) = false ∧
      (x.map Prod.snd).getD 0x80 = (((tgScrub x).tg 0 0).scrub.map Prod.snd).getD 0x80 ∧
      (0x80 = (((tgScrub x).tg 0 0).src64 onP0.lit ((lowest (branching ((tgScrub x).tg 0 0) true onP0)).getD 0) (.grp 4)).toNat) ∧
      (128 = (((tgScrub x).tg 0 0).src32 onP0.lit ((lowest (branching ((tgScrub x).tg 0 0) true onP0)).getD 0) (.main 3)).toNat)) ∧
    0x80 + 128 ≤ 0x100 ∧ (tgScrub none).locGlob .wr ((tgScrub none).asidOf 0) 0x80 = .ok (.phys p) ∧ p.k = true ∧
    (tgScrub none).dramHeld (.phys p) = false :=
  ⟨⟨0x20080, true, true, true, false, 0, true, false, false⟩, by decide, by decide, by decide +kernel, by decide +kernel, by decide,
    pageOf_some (by decide +kernel), rfl, by decide +kernel⟩
/-- The Spur's scrub of an empty range, and of a line of a page without K. -/
def spurScrub (len : Nat) : State := withPage 0 (spurAt { s := [(1, 0x80), (2, BitVec.ofNat 64 len)] })
theorem witness_OrderingAndSidecars_cscrub_spur : ∃ p,
    (∀ n ∈ [0, 128], (spurScrub n).who = .spur 0 ∧ ((spurScrub n).core 0).spur.run = .run ∧
      ((spurScrub n).core 0).spur.guard plainHd = true ∧ (spurScrub n).busy (spurActor 0) = false ∧
      ((spurScrub n).core 0).spur.scrub.getD 0x80 = 0x80 ∧ (0x80 = (((spurScrub n).core 0).spur.src plainHd.lit (.main 1)).toNat) ∧
      (n = (((spurScrub n).core 0).spur.src plainHd.lit (.main 2)).toNat % 2 ^ 32)) ∧
    (spurScrub 128).locGlob .wr ((spurScrub 128).asidOf 0) 0x80 = .ok (.phys p) ∧ p.k = false ∧ (spurScrub 128).dramHeld (.phys p) = false :=
  ⟨⟨0x20080, true, true, true, false, 0, false, false, false⟩, by decide +kernel, pageOf_some (by decide +kernel), rfl, by decide +kernel⟩

/-- A ring set of four slots of 128 bytes: its role, its peer's core and its positions (R265). -/
def ringOf (role : Bool) (peer cnt tail head : Nat) : Ring :=
  ({ base := 0xF000000000001000
     geom := BitVec.ofNat 64 (2 ^ 63 + (if role then 2 ^ 62 else 0) + peer * 2 ^ 52 + 3 * 2 ^ 16) } : Ring).setPos cnt tail head
/-- A group of core 0 with ring set 0, matched with core 1's. -/
def ringAt (r q : Ring) : State :=
  let s := tgAt { tgW with g := [(6, r.slot ((r.head + r.n - r.cnt) % r.n)), (7, r.slot r.tail)] }
  let c1 : Core := { launch := some { vif := 1, asid := 1 }, rings := [(0, q)] }
  (s.onCore 0 fun c => { c with rings := [(0, r)] }).setCore 1 c1
theorem witness_RingInstructionsMoveTheirSlots_any : ∀ s ∈ [ringAt (ringOf false 1 4 0 1) (ringOf true 0 0 0 0), ringAt (ringOf true 1 1 2 1) (ringOf false 0 3 0 0)],
    s.who = .tg 0 0 true ∧ (s.tg 0 0).used = true ∧ branching (s.tg 0 0) true onP0 ≠ 0 ∧
    (0 = ((s.tg 0 0).src32 onP0.lit ((lowest (branching (s.tg 0 0) true onP0)).getD 0) (.imm 0)).toNat) ∧
    ((s.core 0).ring 0).en = true ∧ ((s.core 0).ring 0).n ≠ 1 ∧ s.mayTake 0 { ring := some 0, slot := 0, arm := true } = true := by decide +kernel
theorem witness_RingInstructionsMoveTheirSlots_take :
    (let r := ((ringAt (ringOf false 1 4 0 1) (ringOf true 0 0 0 0)).core 0).ring 0
     r.role = false ∧ 1 < r.cnt) ∧
    (let r := ((ringAt (ringOf true 1 1 2 1) (ringOf false 0 3 0 0)).core 0).ring 0
     r.role = true ∧ r.tail ≠ r.head ∧ r.pubs = []) ∧
    (let s := ringAt { ringOf true 1 1 2 1 with pubs := [(⟨2, 0⟩, 5)] } (ringOf false 0 3 0 0)
     let r := (s.core 0).ring 0
     s.who = .tg 0 0 true ∧ r.en = true ∧ r.n ≠ 1 ∧ r.role = true ∧ r.tail ≠ r.head ∧ r.pubs.head? = some (⟨2, 0⟩, 5) ∧
     s.mayTake 0 { ring := some 0, slot := 0, arm := true } = true) := by decide +kernel
theorem witness_RingInstructionsMoveTheirSlots_matched :
    ∀ s ∈ [ringAt (ringOf false 1 4 0 1) (ringOf true 0 0 0 0), ringAt (ringOf true 1 1 2 1) (ringOf false 0 3 0 0)],
      (let r := (s.core 0).ring 0
       ringMatch 0 0 (s.asidOf 0) r r.peer r.pring (s.asidOf r.peer) ((s.core r.peer).ring r.pring) = true ∧
       (s.core r.peer).launch.isSome = true ∧ s.releaseReady (tgActor 0 0) ((s.actor (tgActor 0 0)).pos + 1) .dev = true) := by
  decide +kernel
theorem witness_RingInstructionsMoveTheirSlots_publish :
    (let s := ringAt (ringOf false 1 4 0 1) (ringOf true 0 0 0 0)
     let r := (s.core 0).ring 0
     r.role = false ∧ r.tail < r.n ∧ r.head < r.n ∧ r.tail ≠ r.head ∧ (s.tg 0 0).src64 none 0 (.grp 7) = r.slot r.tail) ∧
    (let s := ringAt (ringOf true 1 1 2 1) (ringOf false 0 3 0 0)
     let r := (s.core 0).ring 0
     r.role = true ∧ r.cnt ≠ 0 ∧ r.cnt < r.n ∧ r.head < r.n ∧
     (s.tg 0 0).src64 none 0 (.grp 6) = r.slot ((r.head + r.n - r.cnt) % r.n)) := by decide +kernel
/-! ### The Spur's engine instructions -/

/-- The bytes, the state and the success of a read. -/
def bytesOf (r : ReadAns) : List Byte := match r with | .ok b _ => b | _ => []
def stateOf (r : ReadAns) : State := match r with | .ok _ u => u | _ => State.reset
def readsOk (r : ReadAns) : Bool := match r with | .ok _ _ => true | _ => false
theorem readsOk_eq {r : ReadAns} (h : readsOk r = true) : r = .ok (bytesOf r) (stateOf r) := by
  unfold readsOk at h; unfold bytesOf stateOf; split at h <;> simp_all

theorem witness_DecisionWordsPass_dqput :
    let s := spurAt spurW
    SpurTurn s 0 ∧ (s.core 0).spur.guard plainHd = true ∧ s.releaseReady (spurActor 0) ((s.actor (spurActor 0)).pos + 1) .core = true ∧
    (s.core 0).dq.length < 64 := ⟨⟨rfl, rfl⟩, by decide +kernel⟩
/-- A full decision queue. -/
def fullDq : State := (spurAt spurW).onCore 0 fun c => { c with dq := List.replicate 64 ⟨0, (⟨0, 0⟩, 0)⟩ }
theorem witness_DecisionWordsPass_full : SpurTurn fullDq 0 ∧ (fullDq.core 0).spur.guard plainHd = true ∧
    fullDq.releaseReady (spurActor 0) ((fullDq.actor (spurActor 0)).pos + 1) .core = true ∧ 64 ≤ (fullDq.core 0).dq.length :=
  ⟨⟨rfl, rfl⟩, by decide +kernel⟩
theorem witness_YieldTrapAndSdone :
    let s := spurAt spurW
    let u := s.onCore 0 fun c => { c with csr := { c.csr with preq := 1 } }
    SpurTurn s 0 ∧ (s.core 0).spur.guard plainHd = true ∧ (s.core 0).csr.preq.getLsbD 0 = false ∧ (s.core 0).launch.isSome = true ∧
    SpurTurn u 0 ∧ (u.core 0).spur.guard plainHd = true ∧ (u.core 0).csr.preq.getLsbD 0 = true ∧ (u.core 0).launch.isSome = true :=
  ⟨⟨rfl, rfl⟩, by decide +kernel, by decide +kernel, rfl, ⟨rfl, rfl⟩, by decide +kernel⟩
/-- The Spur of a core with some pool slots in each partition, a PC and a partition in its registers. -/
def spawning (slots : DWord) : State :=
  (spurAt { s := [(1, 0x2000), (2, 0xFFFFFFFFFFFFFFFF)] }).onCore 0 fun c => { c with csr := { c.csr with hpool := slots } }
theorem witness_ForkSetsAndGangs_wspawn :
    let s := spawning 2
    SpurTurn s 0 ∧ (s.core 0).spur.guard plainHd = true ∧ legalTarget ((s.core 0).spur.src none (.main 1)) ∧
    ((s.core 0).spur.src none (.main 2)).toInt < 8 ∧ (s.findGang 0 4 none).isSome = true ∧
    SpurTurn (spawning 15) 0 ∧ (spawning 15).findGang 0 4 none = none :=
  ⟨⟨rfl, rfl⟩, by decide +kernel, by unfold legalTarget; decide +kernel, by decide +kernel, by decide +kernel, ⟨rfl, rfl⟩, by decide +kernel⟩

/-- A core whose Spur's `s1` points at a descriptor: queue 0 with a program and one gang (R157). -/
def forking (p : Spur) : State :=
  let s := withPage 0 (spurAt { p with s := [(1, 0x400)] })
  let s := s.physWrite 0x20400 (leBytes 8 0x22 ++ leBytes 8 0 ++ leBytes 8 0x3000)
  s.physWrite 0x20440 (leBytes 8 5 ++ leBytes 8 (0x2000 + 15 * 2 ^ 58))
/-- The answer of the descriptor's read. -/
def forkRead (s : State) : ReadAns := s.spurBytes 0 ((s.core 0).spur.pc) 4 0x400 320
theorem witness_ForkSetsAndGangs_fork :
    let s := forking {}
    ∃ bs r u f, SpurTurn s 0 ∧ (s.core 0).spur.guard plainHd = true ∧ ((s.core 0).spur.src none (.main 1)).toNat = 0x400 ∧
    (s.hasPeer = true ∨ 0x400 + 320 ≤ 0x00FF000000000000) ∧ s.reached (spurActor 0) ((s.actor (spurActor 0)).pos + 1) .core = true ∧ forkRead s = .ok bs r ∧
    ForkDesc.ofBytes 0 (s.asidOf 0) bs = some f ∧ r.forkWalk 0 (s.core 0).spur.pc f = .ok 0 none u ∧ (s.core 0).spur.freeSet = some 0 ∧
    (∀ q < 4, f.qmask.testBit q = true → (s.queue 0 q).run = false ∧ (s.queue 0 q).fset = none) ∧
    (((u.takeSeq 0).1.publish (spurActor 0)).placeGangs 0 (s.core 0).spur.pc (u.takeSeq 0).2 (u.pubEntry (spurActor 0)) f.gangs).isSome = true :=
  ⟨bytesOf (forkRead (forking {})), stateOf (forkRead (forking {})), stateOf (forkRead (forking {})), ⟨false, 1, 0, [0x3000, 0, 0, 0], [⟨none, 1, 0x2000, 5⟩]⟩, ⟨rfl, rfl⟩,
    by decide +kernel, by decide +kernel, .inr (by decide), by decide +kernel, readsOk_eq (by decide +kernel), by decide +kernel, rfl, by decide +kernel,
    by decide +kernel, by decide +kernel⟩
/-- Eight outstanding sets. -/
def eightSets : List ForkSet := (List.range 8).map fun k => ⟨k, [.tg 0], [.tg 0], 0, []⟩
theorem witness_ForkSetsAndGangs_fork_taken :
    let s := forking { sets := eightSets }
    SpurTurn s 0 ∧ (s.core 0).spur.guard plainHd = true ∧ s.reached (spurActor 0) ((s.actor (spurActor 0)).pos + 1) .core = true ∧
    readsOk (forkRead s) = true ∧ (ForkDesc.ofBytes 0 (s.asidOf 0) (bytesOf (forkRead s))).isSome = true ∧ (s.core 0).spur.freeSet = none :=
  ⟨⟨rfl, rfl⟩, by decide +kernel⟩
theorem witness_ForkSetsAndGangs_rdzv :
    let s := spurAt { s := [(1, 3)], sets := eightSets }
    let u := spurAt { s := [(1, 3)], sets := [⟨3, [.tg 0], [], 0, []⟩] }
    SpurTurn s 0 ∧ (s.core 0).spur.guard plainHd = true ∧ (s.core 0).spur.hasSet ⟨3, [.tg 0], [.tg 0], 0, []⟩ ∧
    (3 = ((s.core 0).spur.src none (.main 1)).toNat) ∧ [Member.tg 0] ≠ [] ∧
    SpurTurn u 0 ∧ (u.core 0).spur.guard plainHd = true ∧ (u.core 0).spur.hasSet ⟨3, [.tg 0], [], 0, []⟩ ∧
    (3 = ((u.core 0).spur.src none (.main 1)).toNat) ∧ [Member.tg 0].all (u.memberQuiet 0) = true :=
  ⟨⟨rfl, rfl⟩, by decide +kernel, by unfold Spur.hasSet; decide +kernel, by decide +kernel, by decide, ⟨rfl, rfl⟩, by decide +kernel,
    by unfold Spur.hasSet; decide +kernel, by decide +kernel, by decide +kernel⟩

/-- A core whose Spur's `s1` points at a launch record of the image at 0x1000, with some cards pending. -/
def launching (pend : List Card) : State :=
  let s := withPage 0 ((spurAt { s := [(1, 0x400)] }).onCore 0 fun c => { c with pend })
  s.physWrite 0x20400 (leBytes 8 0x1000)
/-- The answer of the record's read, and a card of it. -/
def launchRead (s : State) : ReadAns := s.spurRead 0 ((s.core 0).spur.pc) 0x400 64
def aCard : Card := { vif := 1, asid := 1, prio := 0, image := 0x1000, args := [0, 0, 0, 0], staddr := 0, ccaddr := 0, ccinc := 0, core := none, order := 0, acct := {} }
theorem witness_LaunchesAndPrograms_launch :
    ∀ s ∈ [launching [], launching [aCard, aCard, aCard, aCard]],
    s.who = .spur 0 ∧ (s.core 0).spur.run = .run ∧ (s.core 0).spur.guard plainHd = true ∧
    (s.core 0).spur.record = [] ∧ ((s.core 0).spur.src none (.main 1)).toNat = 0x400 ∧
    s.releaseReady (spurActor 0) ((s.actor (spurActor 0)).pos + 1) .clu = true ∧ readsOk (launchRead s) = true ∧
    ((stateOf (launchRead s)).cardOf 0 (bytesOf (launchRead s))).isSome = true ∧
    (stateOf (launchRead s)).postLate 0 .self = false ∧ (stateOf (launchRead s)).postLate 0 .cluster = false := by decide +kernel
/-- A Spur that has read its record and parked before a full queue. -/
def parkedLaunch : State := (launching []).onCore 0 fun c => { c with spur := { c.spur with record := leBytes 8 0x1000 ++ List.replicate 56 0 } }
theorem witness_LaunchesAndPrograms_launch_parked :
    let s := parkedLaunch
    let bs := leBytes 8 0x1000 ++ List.replicate 56 0
    SpurTurn s 0 ∧ (s.core 0).spur.guard plainHd = true ∧ (s.core 0).spur.record = bs ∧ bs ≠ [] ∧ (s.cardOf 0 bs).isSome = true ∧
    s.postLate 0 .self = false ∧ (s.core 0).pend.length < 4 := ⟨⟨rfl, rfl⟩, by decide +kernel⟩
/-- A cluster whose queue is full. -/
def fullCluster : State := { launching [] with clq := List.replicate 64 (0, aCard) }
theorem witness_LaunchesAndPrograms_launch_full : cardCore 0 .cluster = none ∧
    64 ≤ ((stateOf (launchRead fullCluster)).clq.filter fun e => e.1 = clusterOf 0).length ∧ SpurTurn fullCluster 0 ∧
    (fullCluster.core 0).spur.guard plainHd = true ∧ (fullCluster.core 0).spur.record = [] ∧
    fullCluster.releaseReady (spurActor 0) ((fullCluster.actor (spurActor 0)).pos + 1) .clu = true ∧ readsOk (launchRead fullCluster) = true ∧
    ((stateOf (launchRead fullCluster)).cardOf 0 (bytesOf (launchRead fullCluster))).isSome = true ∧
    (stateOf (launchRead fullCluster)).postLate 0 .cluster = false :=
  ⟨rfl, by decide +kernel, ⟨rfl, rfl⟩, by decide +kernel⟩
theorem witness_LaunchesAndPrograms_launch_room :
    cardCore 0 .self = some 0 ∧ ((stateOf (launchRead (launching []))).core 0).pend.length < 4 ∧ cardCore 0 .cluster = none ∧
    ((stateOf (launchRead (launching []))).clq.filter fun e => e.1 = clusterOf 0).length < 64 ∧
    4 ≤ ((stateOf (launchRead (launching [aCard, aCard, aCard, aCard]))).core 0).pend.length := by decide +kernel
/-- The Spur at a counter of value 5 in a page without a home cache copy, with a target. -/
def joining (target : DWord) : State := (withPage 0 (spurAt { s := [(1, 0x400), (2, target)] })).physWrite 0x20400 (leBytes 8 5)
/-- The same below its target, which an Apply step has met. -/
def joinedOnce : State := (joining 6).onCore 0 fun c => { c with spur := { c.spur with met := true } }
theorem witness_LaunchesAndPrograms_ljoin : ∀ s ∈ [joining 5, joining 6, joinedOnce],
    s.who = .spur 0 ∧ (s.core 0).spur.run = .run ∧ (s.core 0).spur.guard plainHd = true ∧ ((s.core 0).spur.src none (.main 1)).toNat = 0x400 ∧
    s.busy (spurActor 0) = false ∧ (s.actor (spurActor 0)).fences = [] ∧
    pageOf (s.locGlob .rd (s.asidOf 0) 0x400) = some ⟨0x20400, true, true, true, false, 0, false, false, false⟩ ∧
    s.damaged (.phys ⟨0x20400, true, true, true, false, 0, false, false, false⟩) = false ∧ s.owners = [] ∧
    leNat (s.locBytes (.phys ⟨0x20400, true, true, true, false, 0, false, false, false⟩) 8) = 5 ∧
    s.dramHeld (.phys ⟨0x20400, true, true, true, false, 0, false, false, false⟩) = false := by decide +kernel
theorem witness_LaunchesAndPrograms_ljoin_met : ((joining 6).core 0).spur.met = false ∧ (joinedOnce.core 0).spur.met = true := by
  decide +kernel
theorem witness_LaunchesAndPrograms_cprog :
    ∀ s ∈ [spurAt { s := [(1, 0x400), (2, 3), (3, 0x408)] },
        (spurAt { s := [(1, 0x400), (2, 3), (3, 0x408)] }).onCore 0 fun c => { c with queues := [(3, { run := true })] }],
    s.who = .spur 0 ∧ (s.core 0).spur.run = .run ∧ (s.core 0).spur.guard plainHd = true ∧ (s.actor (spurActor 0)).fences = [] ∧
    ((s.core 0).spur.src none (.main 1)).toNat % 16 = 0 ∧ ((s.core 0).spur.src none (.main 3)).toNat % 8 = 0 ∧
    ((s.core 0).spur.src none (.main 2)).toNat ≤ 3 ∧ (s.queue 0 3).fset = none := by decide +kernel
/-- A group's core with two decision words, or none. -/
def deciding (l : List DqWord) : State := tgWs.onCore 0 fun c => { c with dq := l }
theorem witness_DecisionWordsPass_dqpop : ∀ l ∈ [[], [⟨5, (⟨0, 0⟩, 0)⟩, ⟨6, (⟨0, 0⟩, 0)⟩]],
    (deciding l).who = .tg 0 0 true ∧ ((deciding l).tg 0 0).used = true ∧ ((deciding l).tg 0 0).leadGuard true onP0.pred onP0.pn = true ∧
    ((deciding l).core 0).dq = l ∧ (deciding l).mayTake 0 { ring := none, slot := 0, arm := true } = true ∧ ((deciding l).core 0).spur.run ≠ .done := by
  decide +kernel
/-- The Spur has closed the empty queue. -/
theorem witness_DecisionWordsPass_closed :
    (let s := (deciding []).onCore 0 fun c => { c with spur := { c.spur with run := .done } }
     s.who = .tg 0 0 true ∧ (s.tg 0 0).leadGuard true onP0.pred onP0.pn = true ∧ (s.core 0).dq = [] ∧ (s.core 0).spur.run = .done ∧
     s.busy (tgActor 0 0) = false ∧ (s.tg 0 0).late = [] ∧ (s.tg 0 0).svc = none ∧
     ((s.tg 0 0).frame.isSome = true ∨ (s.core 0).csr.delivers 0x15 = false)) := by decide +kernel
/-! ### The Traverse's instructions -/

/-- What a walk's record gives: whether it is taken, its refusal's code, and the state. -/
def walkTaken (r : WalkAns) : Option (Prob × List Nat) := match r with | .ok p o _ => some (p, o) | _ => none
def walkRefused (r : WalkAns) : Option Nat := match r with | .refused c _ => some c | _ => none
def walkState (r : WalkAns) : State := match r with | .ok _ _ u => u | .refused _ u => u | _ => State.reset
theorem walkTaken_eq {r : WalkAns} {p : Prob} {o : List Nat} (h : walkTaken r = some (p, o)) : r = .ok p o (walkState r) := by
  unfold walkTaken at h; unfold walkState; split at h <;> simp_all
theorem walkRefused_eq {r : WalkAns} {c : Nat} (h : walkRefused r = some c) : r = .refused c (walkState r) := by
  unfold walkRefused at h; unfold walkState; split at h <;> simp_all
/-- The record of a walk with produced operands, its depth given. -/
def walkRecord (depth : Nat) : List Byte :=
  leBytes 8 0x2803 ++ leBytes 4 32 ++ leBytes 4 32 ++ leBytes 4 depth ++ List.replicate 80 0 ++ leBytes 4 2048 ++ List.replicate 152 0
/-- A core whose `s1` points at the record of a walk of 32 × 32 × 32 with produced operands (R328, R329), and a handler 0. -/
def walking (depth : Nat) (ctxs : NMap Ctx) : State :=
  let s := (spurAt { s := [(1, 0x400)] }).onCore 0 fun c => { c with handlers := [(0, some ⟨0x2000, 1, 64, 1⟩)], ctxs }
  let s := withPage 0 s
  s.physWrite 0x20400 (walkRecord depth)
/-- The answer of the record's read. -/
def walkAns (s : State) : WalkAns := s.walkRead 0 0 (s.core 0).spur.pc 0x400
theorem witness_WalkTakesAContext_any : ∀ s ∈ [walking 32 [], walking 0 [], walking 32 [(0, { state := 1 }), (1, { state := 1 })]],
    s.who = .spur 0 ∧ (s.core 0).spur.run = .run ∧ (s.core 0).spur.guard plainHd = true ∧ ((s.core 0).spur.src none (.main 1)).toNat = 0x400 := by
  decide +kernel
theorem witness_WalkTakesAContext_taken : ∃ q offs u, ((walking 32 []).core 0).idleCtx = some 0 ∧ (walking 32 []).busy (spurActor 0) = false ∧
    walkAns (walking 32 []) = .ok q offs u :=
  ⟨{ fusm := 3, akind := 2, bkind := 2, m := 32, n := 32, k := 32, slotsz := 2048, raw := walkRecord 32 }, [], _, by decide +kernel, by decide +kernel,
    walkTaken_eq (by decide +kernel)⟩
theorem witness_WalkTakesAContext_refused : ∃ code u, ((walking 0 []).core 0).idleCtx = some 0 ∧ (walking 0 []).busy (spurActor 0) = false ∧
    walkAns (walking 0 []) = .refused code u :=
  ⟨3, _, by decide +kernel, by decide +kernel, walkRefused_eq (by decide +kernel)⟩
/-- A fork descriptor at 0x600 with a Traverse member, queue 0 and a gang, the walk's record at 0x400. -/
def forkingWalk (depth : Nat) (ctxs : NMap Ctx) : State :=
  let s := (walking depth ctxs).onCore 0 fun c => { c with spur := { c.spur with s := [(1, 0x600)] } }
  let s := s.physWrite 0x20600 (leBytes 8 0x23 ++ leBytes 8 0x400 ++ leBytes 8 0x3000)
  s.physWrite 0x20640 (leBytes 8 5 ++ leBytes 8 (0x2000 + 15 * 2 ^ 58))
/-- What the Traverse member gives: its report, its walk and the state. -/
def forkTaken (r : ForkWalk) : Option (Nat × Option (Nat × Prob × List Nat)) := match r with | .ok k w _ => some (k, w) | _ => none
def forkState (r : ForkWalk) : State := match r with | .ok _ _ u => u | _ => State.reset
theorem forkTaken_eq {r : ForkWalk} {k : Nat} {w : Option (Nat × Prob × List Nat)} (h : forkTaken r = some (k, w)) : r = .ok k w (forkState r) := by
  unfold forkTaken at h; unfold forkState; split at h <;> simp_all
def forkRefused (r : ForkWalk) : Option Nat := match r with | .ok k none _ => some k | _ => none
def walkRead6 (s : State) : ReadAns := s.spurBytes 0 (s.core 0).spur.pc 4 0x600 320
/-- The descriptor's fields. -/
def walkFork : ForkDesc := ⟨true, 1, 0x400, [0x3000, 0, 0, 0], [⟨none, 1, 0x2000, 5⟩]⟩
def walkMember (s : State) : ForkWalk := (stateOf (walkRead6 s)).forkWalk 0 (s.core 0).spur.pc walkFork
theorem witness_ForkSetsAndGangs_fork_walk : ∃ bs r u offs,
    (let s := forkingWalk 32 []
     SpurTurn s 0 ∧ s.spurBytes 0 (s.core 0).spur.pc 4 0x600 320 = .ok bs r ∧ ForkDesc.ofBytes 0 (s.asidOf 0) bs = some walkFork ∧
     r.forkWalk 0 (s.core 0).spur.pc walkFork =
       .ok 0 (some (0, { fusm := 3, akind := 2, bkind := 2, m := 32, n := 32, k := 32, slotsz := 2048, raw := walkRecord 32 }, offs)) u ∧
     (s.core 0).spur.freeSet = some 0 ∧ (∀ q < 4, walkFork.qmask.testBit q = true → (s.queue 0 q).run = false ∧ (s.queue 0 q).fset.isSome = false) ∧
     (((u.takeSeq 0).1.publish (spurActor 0)).placeGangs 0 (s.core 0).spur.pc (u.takeSeq 0).2 (u.pubEntry (spurActor 0)) walkFork.gangs).isSome = true) :=
  ⟨bytesOf (walkRead6 (forkingWalk 32 [])), stateOf (walkRead6 (forkingWalk 32 [])), forkState (walkMember (forkingWalk 32 [])), [], ⟨rfl, rfl⟩,
    readsOk_eq (by decide +kernel), by decide +kernel, forkTaken_eq (by decide +kernel), by decide +kernel, by decide +kernel, by decide +kernel⟩
/-- Both contexts in use, and a record that is refused. -/
theorem witness_ForkSetsAndGangs_fork_walk_taken : ∀ x ∈ [(forkingWalk 32 [(0, { state := 1 }), (1, { state := 1 })], 2), (forkingWalk 0 [], 256 * 3)],
    x.1.who = .spur 0 ∧ readsOk (walkRead6 x.1) = true ∧ ForkDesc.ofBytes 0 (x.1.asidOf 0) (bytesOf (walkRead6 x.1)) = some walkFork ∧
    forkRefused (walkMember x.1) = some x.2 ∧ x.2 ≠ 0 := by decide +kernel
theorem witness_WalkTakesAContext_none : ((walking 32 [(0, { state := 1 }), (1, { state := 1 })]).core 0).idleCtx = none := by decide +kernel
/-- A core with a context in each state, in the Spur's turn or a group's. -/
def contexts (st : Nat) (s : State) : State := s.onCore 0 fun c => { c with ctxs := [(1, { state := st })] }
theorem witness_ContextCommandsAnswer :
    (let s := contexts 1 (tgAt tgW)
     s.who = .tg 0 0 true ∧ (s.tg 0 0).used = true ∧ (s.tg 0 0).leadGuard true onP0.pred onP0.pn = true ∧
     ((s.tg 0 0).src32 onP0.lit ((s.tg 0 0).lead true) (.imm 1)).toNat = 1) ∧
    (∀ st ≤ 4, (contexts st (spurAt spurW)).who = .spur 0 ∧ ((contexts st (spurAt spurW)).core 0).spur.run = .run ∧
      ((contexts st (spurAt spurW)).core 0).spur.guard plainHd = true ∧
      (((contexts st (spurAt spurW)).core 0).spur.src plainHd.lit (.imm 1)).toNat = 1 ∧ ((contexts st (spurAt spurW)).ctx 0 1).state = st) := by
  decide +kernel
/-- A paused walk with an upcall instance whose group has a store on its path, and without it. -/
def pausedWalk (es : List Entry) : State :=
  { (contexts 3 (spurAt spurW)).onCore 0 fun c => { c with
      insts := [⟨5, { ctx := 1, kind := 0, hid := 0, tile := ⟨0, 0, 0, 0, 32, 2 ^ 128⟩, kk := 0, slot := 0, sub := 0, raised := 0 }, 0, [2], 0⟩]
      tgs := [(2, { tg0 with handler := some 5 })] } with
    actors := if es = [] then [] else [(tgActor 0 2, { pos := 1, unacked := 1 })], path := es }
theorem witness_ContextCommandsAnswer_cancel :
    ∀ x ∈ [([], false), ([(⟨7, anAcc (tgActor 0 2) 1, .glob 1 0x140, 1, .store [1, 2, 3, 4], none, none⟩ : Entry)], true)],
    ((pausedWalk x.1).ctx 0 1).state = 3 ∧ (pausedWalk x.1).handlerBusy 0 1 = x.2 ∧ (pausedWalk x.1).who = .spur 0 ∧
    (((pausedWalk x.1).core 0).spur.src plainHd.lit (.imm 1)).toNat = 1 := by decide +kernel
theorem witness_HandlersTakeUpcalls_hreg :
    let s := spurAt { s := [(1, 15), (2, 0x2000), (3, 0x100001)] }
    let p := (s.core 0).spur
    SpurTurn s 0 ∧ p.guard plainHd = true ∧ (p.src none (.main 1)).toNat = 15 ∧ (s.core 0).handlerInUse 15 = false ∧
    p.src none (.main 3) &&& ~~~(0x1F01FF#64) = 0 ∧ poolHolds (s.core 0).csr.poolSlots (s.core 0).csr.hregs ⟨0x2000, 2, 8, 16⟩ = true ∧
    legalTarget (p.src none (.main 2)) :=
  ⟨⟨rfl, rfl⟩, by decide +kernel, by decide +kernel, by decide +kernel, by decide +kernel, by decide +kernel, by unfold legalTarget; decide +kernel⟩
/-- A group of an upcall instance of context 0: the instance's groups and kind. -/
def upcalled (kind : Nat) (slots : List Nat) (arrived : Bool) : State :=
  let n : Inst := ⟨4, { ctx := 0, kind, hid := 0, tile := ⟨0, 0, 0, 0, 32, 2 ^ 128⟩, kk := 0, slot := 0, sub := 0, raised := 0 }, 0, slots, 0⟩
  let g : Tg := { tgW with handler := some 4, width := slots.length }
  onCore0 (.tg 0 0 true) { tgs := [(0, g), (1, { g with arrived, strand := 1 })], insts := [n]
                           ctxs := [(0, { state := 1, prob := { fusm := 3, m := 32, n := 32, k := 32, slotsz := 2048 } })] }
theorem witness_HandlersTakeUpcalls_reads : ∃ n, TgTurn (upcalled 2 [0] false) 0 0 true ∧
    ((upcalled 2 [0] false).tg 0 0).leadGuard true onP0.pred onP0.pn = true ∧
    ((upcalled 2 [0] false).core 0).instFor ((upcalled 2 [0] false).tg 0 0) = some n ∧ n.up.kind = 2 ∧
    (((upcalled 2 [0] false).tg 0 0).src32 onP0.lit (((upcalled 2 [0] false).tg 0 0).lead true) (.imm 9)).toNat ≤ 9 ∧
    (∀ i < 16, (((upcalled 2 [0] false).tg 0 0).contrib true onP0.pred onP0.pn).getLsbD i = true →
      (((upcalled 2 [0] false).tg 0 0).src32 onP0.lit i (.imm 31)).toNat < ((upcalled 2 [0] false).ctx 0 n.up.ctx).prob.th ∧
      (((upcalled 2 [0] false).tg 0 0).src32 onP0.lit i (.imm 28)).toNat % 4 = 0 ∧
      (((upcalled 2 [0] false).tg 0 0).src32 onP0.lit i (.imm 28)).toNat + 4 ≤ ((upcalled 2 [0] false).ctx 0 n.up.ctx).prob.tw) :=
  ⟨_, ⟨rfl, rfl⟩, by decide +kernel, rfl, rfl, by decide +kernel, by decide +kernel⟩
theorem witness_HandlersTakeUpcalls_hret : ∃ n, TgTurn (upcalled 0 [0, 1] true) 0 0 true ∧
    ((upcalled 0 [0, 1] true).tg 0 0).leadGuard true onP0.pred onP0.pn = true ∧ ((upcalled 0 [0, 1] true).tg 0 0).frame = none ∧
    ((upcalled 0 [0, 1] true).tg 0 0).div = none ∧ ((upcalled 0 [0, 1] true).core 0).instFor ((upcalled 0 [0, 1] true).tg 0 0) = some n ∧
    0 ∈ n.slots ∧ InstanceMeets (upcalled 0 [0, 1] true) 0 0 n ∧
    (upcalled 0 [0, 1] true).voteCause ((((upcalled 0 [0, 1] true).core 0).members n).flatMap fun j =>
      (((upcalled 0 [0, 1] true).tg 0 j).votes onP0 (.imm 1)).map Prod.snd) (n.up.kind = 0)
      ((upcalled 0 [0, 1] true).ctx 0 n.up.ctx).prob.cplx = 0 :=
  ⟨_, ⟨rfl, rfl⟩, by decide +kernel, rfl, rfl, rfl, by decide, by unfold InstanceMeets; decide +kernel, by decide +kernel⟩
theorem witness_HandlersTakeUpcalls_hret_waits : ∃ n, TgTurn (upcalled 0 [0, 1] false) 0 0 true ∧
    ((upcalled 0 [0, 1] false).core 0).instFor ((upcalled 0 [0, 1] false).tg 0 0) = some n ∧ 0 ∈ n.slots ∧
    (∃ j ∈ ((upcalled 0 [0, 1] false).core 0).members n, j ≠ 0 ∧ ((upcalled 0 [0, 1] false).tg 0 j).arrived = false) :=
  ⟨_, ⟨rfl, rfl⟩, rfl, by decide, 1, by decide +kernel, by decide, rfl⟩

/-! ### Control registers, traps, saddles and debug -/

/-- It is the turn of the firmware core of cluster 0. -/
def firmwareAt (p : Spur) : State :=
  { caps := capsOf 1, cores := [(191, { spur := { p with run := .run, pc := 0x1000 }, launch := some { vif := 0, asid := 0 } })], who := .spur 191 }
theorem witness_NopAndReadsComplete : TgTurn tgWs 0 0 true ∧ branching (tgWs.tg 0 0) true onP0 ≠ 0 ∧
    (tgWs.csrRead (tgWs.tgUser 0 0) (0x10 : BitVec 8).toNat).isSome = true ∧
    SpurTurn (spurAt spurW) 0 ∧ ((spurAt spurW).core 0).spur.guard plainHd = true ∧
    ((spurAt spurW).csrRead ((spurAt spurW).spurUser 0) (0x7E : BitVec 8).toNat).isSome = true ∧
    SpurTurn (firmwareAt {}) 191 ∧ ((firmwareAt {}).core 191).spur.guard plainHd = true ∧ 191 % 192 = 191 :=
  ⟨⟨rfl, rfl⟩, by decide +kernel, by decide +kernel, ⟨rfl, rfl⟩, by decide +kernel, by decide +kernel, ⟨rfl, rfl⟩, by decide +kernel, rfl⟩
theorem witness_ControlRegistersAreWritten_traps :
    let s := spurAt { s := [(1, 0xFFFFFFFFFFFFFFFF)] }
    SpurTurn s 0 ∧ (s.core 0).spur.guard plainHd = true ∧ s.csrRead (s.spurUser 0) (0x7F : BitVec 8).toNat = none ∧
    csrWriteOf (.csrw plainHd 0 (.main 1)) = some (plainHd, 0, .main 1) ∧ csrFields (s.spurUser 0) 0 = none ∧
    ∃ f, csrFields (s.spurUser 0) 0x10 = some f ∧ (s.core 0).spur.src none (.main 1) &&& ~~~(f.1 ||| f.2) ≠ 0 :=
  ⟨⟨rfl, rfl⟩, by decide +kernel, by decide +kernel, rfl, by decide +kernel, _, rfl, by decide +kernel⟩
theorem witness_ControlRegistersAreWritten_own :
    let s := spurAt { s := [(1, 64)] }
    SpurTurn s 0 ∧ (s.core 0).spur.guard plainHd = true ∧ csrWriteOf (.csrwHshare plainHd (.main 1)) = some (plainHd, 0x20, .main 1) ∧
    CsrAllows s (s.spurUser 0) 0x20 ((s.core 0).spur.src none (.main 1)) ∧ 0x20 ∈ csrOwn ∧ CsrAllows s (s.spurUser 0) 0x10 0x1F03 :=
  ⟨⟨rfl, rfl⟩, by decide +kernel, rfl, ⟨_, rfl, by decide +kernel, by decide +kernel⟩, by decide, ⟨_, rfl, by decide +kernel, by decide +kernel⟩⟩
theorem witness_ControlRegistersAreWritten_rings :
    let s := spurAt { s := [(1, 0xC010000000030000), (2, 0)] }
    SpurTurn s 0 ∧ (s.core 0).spur.guard plainHd = true ∧
    csrWriteOf (.csrwRlgeom plainHd 15 (.main 1)) = some (plainHd, 0x41 + 4 * 15, .main 1) ∧
    CsrAllows s (s.spurUser 0) (0x41 + 4 * 15) ((s.core 0).spur.src none (.main 1)) ∧
    csrWriteOf (.csrwRlpos plainHd 15 (.main 2)) = some (plainHd, 0x42 + 4 * 15, .main 2) ∧
    CsrAllows s (s.spurUser 0) (0x42 + 4 * 15) ((s.core 0).spur.src none (.main 2)) :=
  ⟨⟨rfl, rfl⟩, by decide +kernel, rfl, ⟨_, rfl, by decide +kernel, by decide +kernel⟩, rfl, ⟨_, rfl, by decide +kernel, by decide +kernel⟩⟩
theorem witness_ControlRegistersAreWritten_firmware :
    let s := firmwareAt { s := [(1, 48), (2, 0x8000000000000000), (3, 0x1FFFF)] }
    SpurTurn s 191 ∧ (s.core 191).spur.guard plainHd = true ∧
    csrWriteOf (.csrwMreqcap plainHd (.main 1)) = some (plainHd, 0x9A, .main 1) ∧
    CsrAllows s (s.spurUser 191) 0x9A ((s.core 191).spur.src none (.main 1)) ∧
    csrWriteOf (.csrwTrctl plainHd (.main 2)) = some (plainHd, 0x91, .main 2) ∧
    CsrAllows s (s.spurUser 191) 0x91 ((s.core 191).spur.src none (.main 2)) ∧
    (s.core 191).spur.src none (.main 3) &&& ~~~0x1FFFF = 0 ∧ s.ring.marked = [] ∧ s.ring.lost = [] :=
  ⟨⟨rfl, rfl⟩, by decide +kernel, rfl, ⟨_, rfl, by decide +kernel, by decide +kernel⟩, rfl, ⟨_, rfl, by decide +kernel, by decide +kernel⟩,
    by decide +kernel, rfl, rfl⟩
theorem witness_ControlRegistersAreWritten_fpctl : 0 < 128 ∧ TgTurn tgWs 0 0 true ∧ branching (tgWs.tg 0 0) true onP0 ≠ 0 ∧
    fpLegal ((tgWs.tg 0 0).src64 none ((tgWs.tg 0 0).lead true) (.imm 4)) = true :=
  ⟨by decide, ⟨rfl, rfl⟩, by decide +kernel, by decide +kernel⟩
/-- A frame of an undiverged group, of arm T, with a replay list. -/
def aFrame (entry : Option Div) : Frame :=
  { pc := 0x1000, fpc := 0x1000, addr := 0, lvec := 0, cause := 0x0D, late := false, nested := false, frameFail := false, held := false
    pmask := 3, lmask := 1, actor := tgActor 0 0, seq := 0, spc := 0, group := [], div := [], carea := [], replay := []
    units := 2, entry, arm := true }
theorem witness_XretReturns : ∀ e ∈ [none, some split],
    (let s := tgAt { tgW with path := 1, frame := some (aFrame e) }
     s.who = .tg 0 0 true ∧ (s.tg 0 0).used = true ∧ (s.tg 0 0).leadGuard true onP0.pred onP0.pn = true ∧
     (s.tg 0 0).frame = some (aFrame e)) := by decide +kernel
theorem witness_SaddleInstructionsComplete :
    (let s := spurAt { s := [(1, 63)] }
     s.who = .spur 0 ∧ (s.core 0).spur.run = .run ∧ (s.core 0).spur.guard plainHd = true ∧
     (63 = ((s.core 0).spur.src none (.main 1)).toNat % 2 ^ 32)) ∧
    (let s := tgAt tgW
     s.who = .tg 0 0 true ∧ (s.tg 0 0).used = true ∧ (s.tg 0 0).leadGuard true onP0.pred onP0.pn = true ∧ branching (s.tg 0 0) true onP0 ≠ 0 ∧
     (7 = ((s.tg 0 0).src32 none ((s.tg 0 0).lead true) (.main 2)).toNat)) := by decide +kernel
/-- A core with debug controls, its trace ring of 2 to the 6th records at VA 0. -/
def debugAt (dbgctl : DWord) (s : State) : State :=
  withPage 0 (s.onCore 0 fun c => { c with csr := { c.csr with dbgctl, trcbase := 6 } })
theorem witness_DebugInstructionsComplete_spur :
    let s := debugAt 0x200004002 (spurAt { s := [(1, 31)] })
    let u := debugAt 0 (spurAt { s := [(1, 31)] })
    SpurTurn s 0 ∧ (s.core 0).spur.guard plainHd = true ∧ (31 = ((s.core 0).spur.src none (.main 1)).toNat % 2 ^ 32) ∧
    s.records 0 1 = true ∧ TraceRoom s 0 ⟨0x20000, true, true, true, false, 0, false, false, false⟩ ∧ (s.core 0).csr.dbgctl.getLsbD 1 = true ∧
    SpurTurn u 0 ∧ u.records 0 1 = false ∧ (u.core 0).csr.dbgctl.getLsbD 1 = false :=
  ⟨⟨rfl, rfl⟩, by decide +kernel, by decide +kernel, by decide +kernel, by unfold TraceRoom; decide +kernel, by decide +kernel,
    ⟨rfl, rfl⟩, by decide +kernel⟩
theorem witness_DebugInstructionsComplete_group :
    let s := debugAt 2 (tgAt tgW)
    let u := debugAt 0 (tgAt tgW)
    TgTurn s 0 0 true ∧ (s.tg 0 0).leadGuard true onP0.pred onP0.pn = true ∧
    (7 = ((s.tg 0 0).src32 none ((s.tg 0 0).lead true) (.main 2)).toNat) ∧ s.records 0 1 = false ∧
    (s.core 0).csr.dbgctl.getLsbD 1 = true ∧ s.busy (tgActor 0 0) = false ∧ (s.tg 0 0).late = [] ∧ (s.tg 0 0).svc = none ∧
    ((s.tg 0 0).frame.isSome = true ∨ (s.core 0).csr.delivers 0x19 = false) ∧
    TgTurn u 0 0 true ∧ (u.core 0).csr.dbgctl.getLsbD 1 = false :=
  ⟨⟨rfl, rfl⟩, by decide +kernel, by decide +kernel, by decide +kernel, by decide +kernel, by decide +kernel, rfl, rfl,
    .inr (by decide +kernel), ⟨rfl, rfl⟩, by decide +kernel⟩
/-! ### Couloir commands -/

/-- The turn of queue 0 of core 0, with page 0 of its space. -/
def qs : State := withPage 0 (queueAt { prog := 0x3000, recva := 0x3000 })
theorem witness_CopyCommandsIssue_ccpy : ∃ f, QueueTurn qs 0 0 ∧ FlatLegal qs 0 0 f (.ccpy .e4m3 3 0x100 0x40) ∧
    qs.restoring (queueActor 0 0) f.dst = false :=
  ⟨_, ⟨rfl, by decide, rfl⟩, ⟨_, _, ⟨by decide +kernel, by decide +kernel, rfl⟩, ⟨0, 0x40, by decide +kernel, by decide +kernel, by decide +kernel, rfl⟩,
    ⟨by decide +kernel, fun _ _ => (by decide +kernel)⟩, rfl⟩, by decide +kernel⟩
theorem witness_CopyCommandsIssue_ccpyG : ∃ f, QueueTurn qs 0 0 ∧ FlatLegal qs 0 0 f (.ccpyG .bf16 1 0x110 0x7FFE0) ∧
    qs.restoring (queueActor 0 0) f.dst = false :=
  ⟨_, ⟨rfl, by decide, rfl⟩, ⟨_, _, ⟨by decide +kernel, by decide +kernel, rfl⟩, ⟨0, 0x7FFE0, by decide +kernel, by decide +kernel, by decide +kernel, rfl⟩,
    ⟨by decide +kernel, fun _ _ => (by decide +kernel)⟩, rfl⟩, by decide +kernel⟩
theorem witness_CopyCommandsIssue_cfil : ∃ f, QueueTurn qs 0 0 ∧ FlatLegal qs 0 0 f (.cfil 0 0xAABBCCDD 0x7FFF0) ∧
    qs.restoring (queueActor 0 0) f.dst = false :=
  ⟨_, ⟨rfl, by decide, rfl⟩, ⟨_, ⟨0, 0x7FFF0, by decide +kernel, by decide +kernel, by decide +kernel, rfl⟩, rfl⟩, by decide +kernel⟩
theorem witness_CopyCommandsIssue_cfilG : ∃ f, QueueTurn qs 0 0 ∧ FlatLegal qs 0 0 f (.cfilG 0 0xFEFFFFFFFFFFF0 0xAABBCCDD) ∧
    qs.restoring (queueActor 0 0) f.dst = false :=
  ⟨_, ⟨rfl, by decide, rfl⟩, ⟨_, ⟨by decide +kernel, by decide +kernel, rfl⟩, rfl⟩, by decide +kernel⟩
theorem witness_CopyCommandsIssue_cdec : ∃ f, QueueTurn qs 0 0 ∧ FlatLegal qs 0 0 f (.cdec 0 0x800 0x100) ∧
    qs.restoring (queueActor 0 0) f.dst = false :=
  ⟨_, ⟨rfl, by decide, rfl⟩, ⟨by decide +kernel, _, _, ⟨by decide +kernel, by decide +kernel, rfl⟩,
    ⟨0, 0x100, by decide +kernel, by decide +kernel, by decide +kernel, rfl⟩, rfl⟩, by decide +kernel⟩

/-- A queue whose descriptor at 0x400 is some addresses and fields, with two indices of 16 bits at 0x200. -/
def described (as fs : List Nat) : State :=
  (qs.physWrite 0x20400 (as.flatMap (leBytes 8) ++ fs.flatMap (leBytes 4))).physWrite 0x20200 (leBytes 2 3 ++ leBytes 2 0xFFFF)
/-- The bytes, the state and the success of a queue's read. -/
def qBytes (r : QRead) : List Byte := match r with | .ok b _ => b | _ => []
def qState (r : QRead) : State := match r with | .ok _ u => u | _ => State.reset
def qOk (r : QRead) : Bool := match r with | .ok _ _ => true | _ => false
theorem qOk_eq {r : QRead} (h : qOk r = true) : r = .ok (qBytes r) (qState r) := by
  unfold qOk at h; unfold qBytes qState; split at h <;> simp_all
/-- The descriptor's read, and the indices' read behind it. -/
def descRead (s : State) : QRead := State.onceRead 0 0 s (.glob (s.asidOf 0) 0x400) 64
def idxRead (s : State) : QRead := queueBytes (State.onceRead 0 0) (indexCuts true (qBytes (descRead s)) (.glob 1 0x200)) (qState (descRead s))
/-- Copies of two rows of 16 bytes, once in two planes (R383), and a gather and a scatter of one row and a hole (R384). -/
def d2s : State := described [0x1000, 0x100] [16, 2, 0, 0, 32, 16]
def d3s : State := described [0x1000, 0x100] [16, 2, 2, 0, 32, 16, 64, 64]
def gths : State := described [0x1000, 0x100, 0x200] [0, 16, 2, 32]
theorem witness_CopyCommandsIssue_d2 : ∃ bs u, QueueTurn d2s 0 0 ∧ descOf (.ccpyD2 .none 0x400) = some 0x400 ∧ descRead d2s = .ok bs u ∧
    ((descPieces u 0 0 bs [] (.ccpyD2 .none 0x400)).any fun ps => ps.all fun p => !u.restoring (queueActor 0 0) p.dst) = true :=
  ⟨_, _, ⟨rfl, by decide, rfl⟩, rfl, qOk_eq (by decide +kernel), by decide +kernel⟩
theorem witness_CopyCommandsIssue_d3 : ∃ bs u, QueueTurn d3s 0 0 ∧ descOf (.ccpyD3 .none 0x400) = some 0x400 ∧ descRead d3s = .ok bs u ∧
    ((descPieces u 0 0 bs [] (.ccpyD3 .none 0x400)).any fun ps => ps.all fun p => !u.restoring (queueActor 0 0) p.dst) = true :=
  ⟨_, _, ⟨rfl, by decide, rfl⟩, rfl, qOk_eq (by decide +kernel), by decide +kernel⟩
/-- The gather's descriptor passes the checks of R384, for a scatter too. -/
theorem gather_legal (sc : Bool) : IndexLegal (qState (descRead gths)) 0 true sc (qBytes (descRead gths)) (.glob 1 0x200) := by
  unfold IndexLegal
  repeat' apply And.intro
  all_goals first
    | exact ⟨.glob 1 0x1000, .glob 1 0x100, by cases sc <;> decide +kernel⟩
    | decide +kernel
theorem witness_CopyCommandsIssue_cgth : ∃ bs is u v, QueueTurn gths 0 0 ∧ descOf (.cgth true 0x400) = some 0x400 ∧ descRead gths = .ok bs u ∧
    IndexLegal u 0 true false bs (.glob 1 0x200) ∧ queueBytes (State.onceRead 0 0) (indexCuts true bs (.glob 1 0x200)) u = .ok is v ∧ ((descPieces v 0 0 bs is (.cgth true 0x400)).any fun ps => ps.all fun p => !v.restoring (queueActor 0 0) p.dst) = true :=
  ⟨qBytes (descRead gths), qBytes (idxRead gths), qState (descRead gths), qState (idxRead gths), ⟨rfl, by decide, rfl⟩, rfl,
    qOk_eq (by decide +kernel), gather_legal false, qOk_eq (by decide +kernel), by decide +kernel⟩
theorem witness_CopyCommandsIssue_csct : ∃ bs is u v, QueueTurn gths 0 0 ∧ descOf (.csct true 0x400) = some 0x400 ∧ descRead gths = .ok bs u ∧
    IndexLegal u 0 true true bs (.glob 1 0x200) ∧ queueBytes (State.onceRead 0 0) (indexCuts true bs (.glob 1 0x200)) u = .ok is v ∧
    ((descPieces v 0 0 bs is (.csct true 0x400)).any fun ps => ps.all fun p => !v.restoring (queueActor 0 0) p.dst) = true :=
  ⟨qBytes (descRead gths), qBytes (idxRead gths), qState (descRead gths), qState (idxRead gths), ⟨rfl, by decide, rfl⟩, rfl,
    qOk_eq (by decide +kernel), gather_legal true, qOk_eq (by decide +kernel), by decide +kernel⟩

theorem witness_QueueControlCompletes_csig : QueueTurn qs 0 0 ∧ (0xFEFFFFFFFFFFF8 : DWord).toNat < 0x00FF000000000000 ∧
    (0xFEFFFFFFFFFFF8 : DWord).toNat % 8 = 0 ∧ qs.drained? = false ∧
    qs.releaseReady (queueActor 0 0) ((qs.actor (queueActor 0 0)).pos + 1) .dev = true :=
  ⟨⟨rfl, by decide, rfl⟩, by decide +kernel⟩
/-- The queue at barrier 15 with a lag and counts. -/
def qBar (lag : Nat) (b : Bar) : State := (queueAt { prog := 0x3000, recva := 0x3000, lag := [(15, lag)] }).onCore 0 fun c => { c with bars := [(15, b)] }
theorem witness_QueueControlCompletes_arrive :
    ∀ s ∈ [qBar 0 { exp := 128, cur := 3 }, qBar 0 { exp := 128, cur := 127 }, qBar 1 { exp := 128, cur := 3 }],
    s.who = .queue 0 0 ∧ (s.queue 0 0).run = true ∧ s.releaseReady (queueActor 0 0) ((s.actor (queueActor 0 0)).pos + 1) .dev = true ∧
    (127 : BitVec 8).toNat + 1 = ((s.core 0).bar 15).exp ∧ mget 0 (s.queue 0 0).lag 15 ≤ 1 := by decide +kernel
theorem witness_QueueControlCompletes_arrive_ends :
    (let b := ((qBar 0 { exp := 128, cur := 3 }).core 0).bar 15
     mget 0 ((qBar 0 { exp := 128, cur := 3 }).queue 0 0).lag 15 = 0 ∧ b.cur + 1 ≠ 128) ∧
    (let b := ((qBar 0 { exp := 128, cur := 127 }).core 0).bar 15
     b.cur + 1 = 128 ∧ b.next ≠ 128) ∧
    (mget 0 ((qBar 1 { exp := 128, cur := 3 }).queue 0 0).lag 15 = 1 ∧ (((qBar 1 { exp := 128, cur := 3 }).core 0).bar 15).cur ≠ 128) := by
  decide +kernel
theorem witness_QueueControlCompletes_cwat : ∃ bs u, QueueTurn (described [5] []) 0 0 ∧
    (described [5] []).queueRead 0 0 (.glob ((described [5] []).asidOf 0) 0x400) 8 false 3 = .ok bs u ∧ leNat bs = 5 ∧
    ((described [5] []).queue 0 0).met = false ∧
    (((described [5] []).onCore 0 fun c => { c with queues := [(0, { c.queue 0 with met := true })] }).queue 0 0).met = true :=
  ⟨_, _, ⟨rfl, by decide, rfl⟩, qOk_eq (by decide +kernel), by decide +kernel⟩
theorem witness_QueueControlCompletes_cwatBar : QueueTurn (qBar 0 {}) 0 0 ∧ mget 0 ((qBar 0 {}).queue 0 0).lag (15 : BitVec 4).toNat = 0 ∧
    QueueTurn (qBar 2 {}) 0 0 ∧ mget 0 ((qBar 2 {}).queue 0 0).lag (15 : BitVec 4).toNat ≠ 0 :=
  ⟨⟨rfl, by decide, rfl⟩, by decide +kernel, ⟨rfl, by decide, rfl⟩, by decide +kernel⟩
theorem witness_QueueControlCompletes_cend :
    (QueueTurn qs 0 0 ∧ qs.busy (queueActor 0 0) = false ∧ (qs.queue 0 0).stva = 0) ∧
    (let s := queueAt { stva := 0x408 }
     QueueTurn s 0 0 ∧ s.busy (queueActor 0 0) = false ∧ s.drained? = false ∧ (s.queue 0 0).stva ≠ 0 ∧ (s.queue 0 0).statusSent = false) ∧
    (let s := qs.onActor (queueActor 0 0) fun x => { x with loads := [⟨anAcc (queueActor 0 0) 1, 16, [], ⟨.main 0, .word⟩⟩] }
     QueueTurn s 0 0 ∧ s.busy (queueActor 0 0) = true) :=
  ⟨⟨⟨rfl, by decide, rfl⟩, by decide +kernel⟩, ⟨⟨rfl, by decide, rfl⟩, by decide +kernel⟩, ⟨⟨rfl, by decide, rfl⟩, by decide +kernel⟩⟩
/-! ### Requests -/

/-- The state of a device with address space 1 of interface 5, at rest. -/
def frs : State := withPage 0 { caps := capsOf 1 }
theorem witness_SpacesAreCreatedAndSet_create : frs.frsOpen rq0 = true ∧ (frs.spacesOf rq0.vif).length < 256 ∧ frs.freeAsid = some 2 ∧
    frs.newTable.isSome = true := by decide +kernel
/-- An interface with all its address spaces. -/
def crowded : State := { caps := capsOf 1, spaces := (List.range 256).map fun a => (a + 1, { vif := 5, live := true }) }
theorem witness_SpacesAreCreatedAndSet_full : crowded.frsOpen rq0 = true ∧ 256 ≤ (crowded.spacesOf rq0.vif).length := by decide +kernel
theorem witness_SpacesAreCreatedAndSet_named : ServesSpace frs rq1 1 ∧ (4 : BitVec 3).toNat ≤ 4 ∧ frs.hasPeer = true ∧
    (0xFEFFFFFFFF0000 : DWord).toNat < 2 ^ 56 ∧ (0xFEFFFFFFFF0000 : DWord).toNat + (0x10000 : DWord).toNat ≤ 0x00FF000000000000 ∧
    namedSpace (.unmap rq1 2 0 0) = some (rq1, 2) ∧ frs.owns rq1.vif 2 = false ∧ frs.owns rq1.vif 1 = true :=
  ⟨by unfold ServesSpace; decide +kernel, by decide +kernel⟩
/-- PR and PW of a 64 KiB page. -/
def rwAttrs : BitVec 9 := 0b011000000
theorem witness_MappingsChange_map : ServesSpace frs rq1 1 ∧ (0x10000 % attrSize rwAttrs = 0) ∧ rwAttrs.extractLsb' 2 2 ≠ 3 ∧ attrPx rwAttrs = false ∧
    (∀ x ∈ pagesOf 0x10000 0x20000, frs.isMapped 1 x = false) ∧ attrSz rwAttrs = false ∧ (frs.mapRange 1 0x10000 0x20000 rwAttrs).isSome = true :=
  ⟨by unfold ServesSpace; decide +kernel, by decide +kernel⟩
theorem witness_MappingsChange_mapped : ∃ x ∈ pagesOf 0 0x20000, frs.isMapped 1 x = true := ⟨0, by decide +kernel⟩
theorem witness_MappingsChange_protect :
    (∀ x ∈ stepsOf (attrSize rwAttrs) 0 0x10000,
      (frs.leafOf 1 x).getLsbD 63 = true ∧ attrSz (leafAttrs (frs.leafOf 1 x)) = attrSz rwAttrs ∧ frs.aliasBad (frs.leafOf 1 x) rwAttrs = false ∧
      frs.inFlightAt (leafPhys (frs.leafOf 1 x)) (attrSize rwAttrs) = false) ∧
    attrPx rwAttrs = false ∧ attrK rwAttrs = false ∧
    ((stepsOf (attrSize rwAttrs) 0 0x10000).foldlM (fun s x => State.protectPage s 1 x rwAttrs) frs).isSome = true := by decide +kernel
theorem witness_MappingsChange_unmap : (0 % 2 ^ 16 = 0 ∧ 0x10000 % 2 ^ 16 = 0 ∧ 0 + 0x10000 ≤ 2 ^ 56) ∧
    ∀ x ∈ pagesOf 0 0x10000, frs.isMapped 1 x = true → attrSz (leafAttrs (frs.leafOf 1 x)) = false ∧
      frs.inFlightAt (leafPhys (frs.leafOf 1 x)) (2 ^ 16) = false := by decide +kernel
/-- The placement table at VA 0: everything at channel 0 (R253). -/
def placing : State := put 0x20000 (leBytes 8 0 ++ leBytes 8 ((2 ^ 40 - 1) * 2 ^ 24 + 2)) frs
/-- Line `k` of the table, and the whole table. -/
def placeLine (k : Nat) : List Byte :=
  if k = 0 then leBytes 8 0 ++ leBytes 8 ((2 ^ 40 - 1) * 2 ^ 24 + 2) ++ List.replicate 112 0 else List.replicate 128 0
def placeBytes : List Byte := placeLine 0 ++ List.replicate 3968 0
def placed : List PlaceEnt :=
  ((List.range 256).map fun k => placeEnt (quadAt placeBytes (16 * k)) (quadAt placeBytes (16 * k + 8))).filter fun e => e.start ≤ e.limit
theorem place_line : ∀ k < 32, placing.frontLine 1 (128 * k) 128 = .ok (placeLine k) placing := by
  have h : ∀ k < 32, readsOk (placing.frontLine 1 (128 * k) 128) = true ∧ bytesOf (placing.frontLine 1 (128 * k) 128) = placeLine k ∧
      stateOf (placing.frontLine 1 (128 * k) 128) = placing := by decide +kernel
  intro k hk
  rw [readsOk_eq (h k hk).1, (h k hk).2.1, (h k hk).2.2]
theorem place_zeros : ∀ n ≤ 31, placing.frontBytes 1 (n + 2) (128 * (32 - n)) (128 * n) = .ok (List.replicate (128 * n) 0) placing := by
  intro n hn
  induction n with
  | zero => rfl
  | succ n ih =>
    have h1 : Nat.min (128 * (n + 1)) (128 - 128 * (32 - (n + 1)) % 128) = 128 := by
      rw [Nat.mul_mod_right]; exact Nat.min_eq_right (by omega)
    have h2 : 128 * (32 - (n + 1)) + 128 = 128 * (32 - n) := by omega
    have h3 : 128 * (n + 1) - 128 = 128 * n := by omega
    have h4 : placeLine (32 - (n + 1)) = List.replicate 128 0 := by unfold placeLine; rw [if_neg (by omega)]
    rw [State.frontBytes, if_neg (by omega)]
    simp only [h1, place_line (32 - (n + 1)) (by omega), h2, h3, ih (by omega), h4, List.replicate_append_replicate, -List.reduceReplicate]
    rw [show 128 * (n + 1) = 128 + 128 * n by omega]
theorem place_read : placing.frontBytes 1 34 0 4096 = .ok placeBytes placing := by
  rw [State.frontBytes, if_neg (by decide)]
  simp only [show Nat.min 4096 (128 - 0 % 128) = 128 from rfl, show placing.frontLine 1 0 128 = .ok (placeLine 0) placing from place_line 0 (by decide), -List.reduceReplicate]
  have h := place_zeros 31 (by decide)
  simp only [show 128 * (32 - 31) = 0 + 128 from rfl, show 128 * 31 = 4096 - 128 from rfl, -List.reduceReplicate] at h
  rw [h]; unfold placeBytes; rfl
/-- A field behind the first entry is zero. -/
theorem place_zero (off : Nat) (h : 16 ≤ off) : quadAt placeBytes off = 0 := by
  have e : placeBytes = (leBytes 8 0 ++ leBytes 8 ((2 ^ 40 - 1) * 2 ^ 24 + 2)) ++ List.replicate 4080 0 := by
    unfold placeBytes placeLine
    rw [if_pos rfl, List.append_assoc, List.replicate_append_replicate]
  rw [quadAt, fieldAt, e, List.drop_append, List.drop_eq_nil_of_le (by simpa using h), List.nil_append, List.drop_replicate, List.take_replicate,
    leNat_zeros]
  rfl
/-- A table of which only the first entry is listed. -/
theorem quad_zero (s : State) (a : Nat) (h : ∀ p ∈ s.mem, ¬ (a ≤ p.1 ∧ p.1 < a + 8)) : s.physQuad a = 0 := by
  have e : s.physBytes a 8 = List.replicate 8 0 :=
    List.ext_getElem (by simp [State.physBytes]) fun n h1 h2 => by
      simp only [State.physBytes, mbytes_getElem, List.getElem_replicate]
      exact mget_absent fun p hp e => h p hp (by simp [State.physBytes] at h1; omega)
  rw [State.physQuad, e]
  rfl
theorem first_only {β : Type} (f : Nat → Option β) (b : β) (h : f 0 = some b) (z : ∀ i, 1 ≤ i → i < 1024 → f i = none) :
    (List.range 1024).filterMap f = [b] := by
  rw [List.range_succ_eq_map, List.filterMap_cons, h]
  simp only [List.filterMap_map, List.cons.injEq, true_and, List.filterMap_eq_nil_iff, List.mem_range, Function.comp]
  exact fun i hi => z (i + 1) (by omega) (by omega)
theorem only_entry (t : Nat) (h : ∀ p ∈ placing.mem, ¬ (t + 8 ≤ p.1 ∧ p.1 < t + 8192)) : ∀ i, 1 ≤ i → i < 1024 → placing.physQuad (t + 8 * i) = 0 :=
  fun i h1 h2 => quad_zero placing _ fun p hp e => h p hp (by omega)
theorem place_table (t u : Nat) (h : ∀ p ∈ placing.mem, ¬ (t + 8 ≤ p.1 ∧ p.1 < t + 8192)) (e : nextTable (placing.physQuad (t + 8 * 0)) = some u) :
    placing.tableList t = [(0, u)] :=
  first_only _ (0, u) (by rw [e]; rfl) fun i h1 h2 => by rw [only_entry t h i h1 h2]; rfl
theorem place_pages : placing.mappedPages 1 = [(0, 0xB800000000020000)] := by
  have h1 := place_table 0x10000 0x12000 (by decide +kernel) (by decide +kernel)
  have h2 := place_table 0x12000 0x14000 (by decide +kernel) (by decide +kernel)
  have h3 := place_table 0x14000 0x16000 (by decide +kernel) (by decide +kernel)
  have r : (placing.space 1).root = 0x10000 := by decide +kernel
  have l : (placing.space 1).live = true := by decide +kernel
  simp only [State.mappedPages, State.tableTree, r, l, h1, h2, h3, Bool.not_true, Bool.false_eq_true, if_false, List.flatMap_cons, List.flatMap_nil,
    List.map_cons, List.map_nil, List.append_nil]
  exact first_only _ _ (by decide +kernel) fun i h1 h2 => by rw [only_entry 0x16000 (by decide +kernel) i h1 h2]; rfl
theorem witness_MappingsChange_place : ∃ bs u, ServesSpace placing rq1 1 ∧ placing.frontBytes 1 34 0 4096 = .ok bs u ∧
    (∀ k < 256, u.placeBad (quadAt bs (16 * k)) (quadAt bs (16 * k + 8)) = false) ∧
    (∀ p ∈ u.mappedPages 1, (attrSz (leafAttrs p.2) = true → bigFits placed p.1 = true) ∧
      u.inFlightAt (leafPhys p.2) (attrSize (leafAttrs p.2)) = false) ∧
    (u.loadPlace 1 placed).isSome = true := by
  refine ⟨placeBytes, placing, by unfold ServesSpace; decide +kernel, place_read, fun k hk => ?_, ?_, ?_⟩
  · cases k with
    | zero => decide +kernel
    | succ k => rw [place_zero _ (by omega), place_zero _ (by omega)]; decide +kernel
  · rw [place_pages]; decide +kernel
  · simp only [State.loadPlace, place_pages, List.map_cons, List.map_nil]
    decide +kernel
/-- The file's page with a store that has left its core and is to land in it. -/
def landing (s : State) : State := { s with path := [⟨7, anAcc (tgActor 0 0) 1, .glob 1 0x140, 1, .store [1, 2, 3, 4], none, some ⟨0x20140, true, true, true, false, 0, false, false, false⟩⟩] }
theorem witness_MappingsChange_waits : ServesSpace (landing frs) rq1 1 ∧
    (∃ x ∈ stepsOf (attrSize rwAttrs) 0 0x10000, (landing frs).inFlightAt (leafPhys ((landing frs).leafOf 1 x)) (attrSize rwAttrs) = true) ∧
    (∀ x ∈ stepsOf (attrSize rwAttrs) 0 0x10000, ((landing frs).leafOf 1 x).getLsbD 63 = true ∧
      attrSz (leafAttrs ((landing frs).leafOf 1 x)) = attrSz rwAttrs ∧ (landing frs).aliasBad ((landing frs).leafOf 1 x) rwAttrs = false) ∧
    (∃ x ∈ pagesOf 0 0x10000, (landing frs).isMapped 1 x = true ∧ (landing frs).inFlightAt (leafPhys ((landing frs).leafOf 1 x)) (2 ^ 16) = true) ∧
    (∀ x ∈ pagesOf 0 0x10000, (landing frs).isMapped 1 x = true → attrSz (leafAttrs ((landing frs).leafOf 1 x)) = false) :=
  ⟨by unfold ServesSpace; decide +kernel, by decide +kernel⟩
theorem witness_MappingsChange_malformed : ServesSpace frs rq1 1 ∧
    ¬ ((0x8000 : DWord).toNat % attrSize rwAttrs = 0 ∧ (0x10000 : DWord).toNat % attrSize rwAttrs = 0 ∧ 0x18000 ≤ 2 ^ 56) :=
  ⟨by unfold ServesSpace; decide +kernel, by decide +kernel⟩

/-- An image descriptor with its Spur entry (R107). -/
def aDesc (entry : Nat) : List Byte := padTo 64 (leBytes 8 entry ++ leBytes 8 0 ++ leBytes 4 0 ++ leBytes 4 0 ++ leBytes 1 8)
/-- A section entry (R105). -/
def aSect (type size off : Nat) : List Byte :=
  leBytes 2 type ++ leBytes 2 0 ++ leBytes 4 0 ++ leBytes 4 4 ++ leBytes 4 0 ++ leBytes 8 size ++ leBytes 8 off
/-- A linked TOF file with a code, a descriptor and a signature section (R103 to R110). -/
def aTof : List Byte :=
  padTo 640 (leBytes 4 0x31464F54 ++ leBytes 2 1 ++ leBytes 2 2 ++ leBytes 8 32 ++ leBytes 2 3 ++ leBytes 2 0 ++ leBytes 4 0 ++ leBytes 8 32 ++
    aSect 1 64 128 ++ aSect 8 64 192 ++ aSect 11 384 256 ++ List.replicate 64 0 ++ aDesc 0x10000000000)
/-- Address space 1 with the file at VA 0x400, with a header at 0x200. -/
def filed : State := put 0x20400 aTof (put 0x20200 (headerBytes 5 1 (aDesc 0x1000)) frs)
/-- The reads of the file, of the header, and of bytes that are no file. -/
def fileRead : ReadAns := filed.frontBytes 1 7 0x400 640
def headerRead : ReadAns := filed.frontBytes 1 2 0x200 128
/-- A request's success. -/
def reqOk (r : ReqAns) : Bool := match r with | .ok _ _ _ => true | _ => false
theorem reqOk_eq {r : ReqAns} (h : reqOk r = true) : ∃ s a b, r = .ok s a b := by
  unfold reqOk at h; split at h <;> simp_all
/-- Whether the signature is accepted is a free value: where it is, the file is loaded. -/
theorem witness_ImagesAreLoadedAndStarted_load : ∃ bs u, ServesSpace filed rq1 1 ∧ filed.frontBytes 1 (640 / 128 + 2) 0x400 640 = .ok bs u ∧
    ((Tof.ofBytes bs).signatureOk = true → ∃ v r0 r1, u.loadImage rq1.vif 1 bs = .ok v r0 r1) := by
  refine ⟨bytesOf fileRead, stateOf fileRead, by unfold ServesSpace; decide +kernel, readsOk_eq (by decide +kernel), fun h => reqOk_eq ?_⟩
  unfold State.loadImage
  rw [if_neg (by decide +kernel)]
  dsimp only
  rw [if_neg (by decide +kernel), if_neg (by rw [h]; decide), if_neg (by decide +kernel), if_neg (by decide +kernel)]
  decide +kernel
theorem witness_ImagesAreLoadedAndStarted_no_file : ∃ bs u, ServesSpace filed rq1 1 ∧ filed.frontBytes 1 (128 / 128 + 2) 0x200 128 = .ok bs u ∧
    tofOk bs = false :=
  ⟨bytesOf (filed.frontBytes 1 3 0x200 128), stateOf (filed.frontBytes 1 3 0x200 128), by unfold ServesSpace; decide +kernel,
    readsOk_eq (by decide +kernel), by decide +kernel⟩
theorem witness_ImagesAreLoadedAndStarted_start : ∃ bs u, ServesSpace filed rq1 1 ∧ filed.computeCore (190 : BitVec 10).toNat = true ∧
    filed.frontBytes 1 2 0x200 128 = .ok bs u ∧ u.headerOk rq1.vif 1 bs = true :=
  ⟨bytesOf headerRead, stateOf headerRead, by unfold ServesSpace; decide +kernel, by decide +kernel, readsOk_eq (by decide +kernel),
    by decide +kernel⟩
/-- A device whose ordered context 0 of port 0 has a write that is not acknowledged. -/
def behind : State := { frs with remotes := [⟨⟨0, 0, true⟩, [1]⟩] }
theorem witness_ImagesAreLoadedAndStarted_held : behind.frsOpen { rq0 with via := ⟨0, 0, true⟩ } = false ∧
    rqOk { rq0 with via := ⟨0, 0, true⟩ } = true ∧ filed.frsHeld.find? (fun y => y.1 = rq1) = none ∧
    ({ filed with frsHeld := [(rq1, {})] } : State).frsHeld.find? (fun y => y.1 = rq1) = some (rq1, {}) := by decide +kernel
/-- Where a scrub goes on. -/
def scrubMore (r : ScrubAns) : Option (Nat × Nat) := match r with | .more _ p => some p | _ => none
def scrubState (r : ScrubAns) : State := match r with | .more v _ => v | _ => State.reset
theorem scrubMore_eq {r : ScrubAns} {p : Nat × Nat} (h : scrubMore r = some p) : r = .more (scrubState r) p := by
  unfold scrubMore at h; unfold scrubState; split at h <;> simp_all
/-- A Cairn page with a list of one range at 0x200, a scrub of it at some place. -/
def scrubbed (at_ : Nat × Nat) : State :=
  { (withPage kBit { caps := capsOf 1 }).physWrite 0x20200 (leBytes 8 0x400 ++ leBytes 8 128) with
    scrubJobs := if at_ = (0, 0) then [] else [⟨rq1, at_, 0⟩] }
/-- The first line, the end of the range, and the end of the list. -/
theorem witness_ImagesAreLoadedAndStarted_scrub : ∀ x ∈ [((0, 0), (0, 128)), ((0, 128), (1, 0))],
    ServesSpace (scrubbed x.1) rq1 1 ∧
    ∃ v, (scrubbed x.1).scrubNext 1 (1 : BitVec 13).toNat 0x200 ((scrubbed x.1).scrubJob rq1).at_ = .more v x.2 := by
  intro x hx
  simp only [List.mem_cons, List.not_mem_nil, or_false] at hx
  rcases hx with rfl | rfl
  all_goals exact ⟨by unfold ServesSpace; decide +kernel, _, scrubMore_eq (by decide +kernel)⟩
theorem witness_ImagesAreLoadedAndStarted_scrub_end : ServesSpace (scrubbed (1, 0)) rq1 1 ∧
    ((scrubbed (1, 0)).scrubJob rq1).at_.1 = (1 : BitVec 13).toNat :=
  ⟨by unfold ServesSpace; decide +kernel, by decide +kernel⟩
theorem witness_ImagesAreLoadedAndStarted_attest : frs.frsOpen rq0 = true ∧ (nonce 32).length = 32 := by decide +kernel

/-- A resident launch of interface 1, and of another. -/
def resident (vif : Nat) : State := { frs with cores := [(0, { launch := some { vif, asid := 1 } })] }
theorem witness_ResetsDiscard_now : rq0.vif = 5 ∧ (resident 1).frsOpen rq0 = true ∧ (resident 1).resets = [] ∧ (resident 1).owns rq0.vif 1 = true ∧
    (∀ p ∈ (resident 1).cores, ∀ l, p.2.launch = some l → ¬ Taken rq0.vif none l) ∧ (∀ e ∈ (resident 1).endings, ¬ Taken rq0.vif none e.launch) := by
  refine ⟨rfl, by decide +kernel, rfl, by decide +kernel, ?_, by simp [resident, frs, withPage]⟩
  simp [resident, Taken, rq0]
theorem witness_ResetsDiscard_waits : (resident 5).frsOpen rq0 = true ∧ (resident 5).resets = [] ∧
    ∃ p ∈ (resident 5).cores, ∃ l, p.2.launch = some l ∧ Taken rq0.vif none l :=
  ⟨by decide +kernel, rfl, _, List.mem_singleton.mpr rfl, _, rfl, rfl⟩

/-- Its launch has no request raised yet. -/
theorem witness_ResetsDiscard_request :
    ((resident 5).core 0).launch = some { vif := 5, asid := 1 } ∧ Taken rq0.vif none { vif := 5, asid := 1 } ∧
    ({ vif := 5, asid := 1 } : Launch).killed = none ∧ ((resident 5).core 0).csr.req = false :=
  ⟨rfl, rfl, rfl, by decide +kernel⟩
/-- A device whose core 0 has a halted group in slot 3. -/
def debugged : State := { frs with cores := [(0, { spur := { run := .run }, tgs := [(3, { tg0 with halted := true })] })] }
theorem witness_DebugRequestsComplete : debugged.frsTakes rq0 = true ∧ debugged.drained? = false ∧ debugged.corePresent 0 = true ∧ (debugged.tg 0 3).used = true ∧
    (debugged.core 0).spur.run = .run ∧ (debugged.core 0).spur.frame = none ∧ (debugged.tg 0 3).svc = none ∧ (debugged.tg 0 3).halted = true ∧
    (0x4000 : DWord) &&& ~~~0x3FE0F00C006 = 0 ∧ (0x4000 : DWord).extractLsb' 14 2 ≠ 3 ∧ (0x8000000000000001 : DWord) &&& 0x3FF0FFC0FFFFFE00 = 0 ∧
    debugged.corePresent 1023 = false := by decide +kernel
/-! ### The ordering machine -/

/-- A device with a launch on core 0, page 0, and a group whose actor is as given. -/
def acting (x : Actor) : State := withPage 0 { tgAt tgW with actors := [(tgActor 0 0, x)] }
theorem witness_LoadsTakeTheirBytes : ∀ pl ∈ [Place.glob 1 0x17C, .scr 0 0x7FFFC],
    (let s := acting { pos := 1, loads := [aLoad (tgActor 0 0) pl] }
     let l := aLoad (tgActor 0 0) pl
     lowOf (tgActor 0 0) < 0x80 ∧ isDevActor (tgActor 0 0) = false ∧ (s.tg 0 0).used = true ∧ 0 < (s.actor (tgActor 0 0)).pos ∧
     (s.actor (tgActor 0 0)).loads.find? (fun x => x.acc.pos = 1) = some l ∧ l.named 1 = [⟨0, pl⟩] ∧ l.closed 1 = true ∧
     s.mayPerform l [⟨0, pl⟩] = true ∧ l.acc.actor = tgActor 0 0 ∧ l.acc.acq = false) := by decide +kernel
/-- The place of a scratch byte. -/
def scrOf {e : Type} (r : Except e Loc) : Option (Nat × Nat) := match r with | .ok (.scr k o) => some (k, o) | _ => none
theorem scrOf_some {e : Type} {r : Except e Loc} {k o : Nat} (h : scrOf r = some (k, o)) : r = .ok (.scr k o) := by
  unfold scrOf at h; split at h <;> simp_all
theorem witness_LoadsTakeTheirBytes_places : ∃ p,
    (let s := acting { pos := 1, loads := [aLoad (tgActor 0 0) (.glob 1 0x17C)] }
     0x17C % 128 + 4 ≤ 128 ∧ s.locGlob .rd 1 0x17C = .ok (.phys p) ∧ p.au = false ∧ p.k = false ∧ s.damaged (.phys p) = false ∧
     s.owner (p.phys / 128) = none ∧ s.dramHeld (.phys p) = false ∧ (s.core 0).copy 1 (0x17C / 128) = none) ∧
    (let s := acting { pos := 1, loads := [aLoad (tgActor 0 0) (.scr 0 0x7FFFC)] }
     s.isAbsent 0 (0x7FFFC / 128) = false ∧ s.loc (tgActor 0 0) .rd (.scr 0 0x7FFFC) = .ok (.scr 0 0x7FFFC) ∧
     s.damaged (.scr 0 0x7FFFC) = false) ∧
    ({ acting {} with absent := [⟨0, 4095, queueActor 0 0, false⟩] } : State).bitWaits (coreOf (tgActor 0 0)) (.scr 0 0x7FFFC) = true :=
  ⟨⟨0x2017C, true, true, true, false, 0, false, false, false⟩,
    ⟨by decide, pageOf_some (by decide +kernel), rfl, rfl, by decide +kernel, by decide +kernel, by decide +kernel, by decide +kernel⟩,
    ⟨by decide +kernel, scrOf_some (by decide +kernel), by decide +kernel⟩, by decide +kernel⟩
/-- Stores to a line, into the domain window, and an atomic. -/
def stored1 : Entry := anEntry 7 (tgActor 0 0) (.glob 1 0x140) (.store [1, 2, 3, 4])
def stored2 : Entry := anEntry 8 (tgActor 0 0) (.glob 1 0x144) (.store [5, 6, 7, 8])
def windowed : Entry := anEntry 7 (tgActor 0 0) (.win 1 (0x00FF000000000000 + 3 * 2 ^ 40)) (.store [1, 2, 3, 4])
def atomic1 : Entry := anEntry 7 (tgActor 0 0) (.glob 1 0x140) (.rmw (.int .add) 4 [⟨0, 5, 0⟩])
theorem witness_EntriesTravel_drains : ∀ e ∈ [stored1, windowed, atomic1],
    (let s := acting { pos := 1, storeQ := [e], unacked := 1 }
     (s.actor (tgActor 0 0)).storeQ.find? (fun x => x.uid = 7) = some e ∧ 0 < (s.actor (tgActor 0 0)).pos ∧
     s.mayDrain (tgActor 0 0) e = true) := by decide +kernel
theorem witness_EntriesTravel_kinds :
    (let s := acting { pos := 1, storeQ := [stored1], unacked := 1 }
     stored1.eff = .store [1, 2, 3, 4] ∧ s.eligible stored1.place = true ∧ lowOf (tgActor 0 0) ≤ 0x80 ∧ isDevActor (tgActor 0 0) = false ∧
     (s.core 0).copy 1 (0x140 / 128) = none) ∧
    (∀ x, atomic1.eff ≠ .store x) ∧ ∀ x y, atomic1.place ≠ .win x y :=
  ⟨by decide +kernel, fun _ h => (by cases h), fun _ _ h => (by cases h)⟩
/-- A store of the host port, which has no overlay. -/
def hosted : Entry := anEntry 7 (portActor 0) (.glob 1 0x140) (.store [1, 2, 3, 4])
theorem witness_EntriesTravel_host :
    (let s : State := { acting {} with actors := [(portActor 0, { pos := 1, storeQ := [hosted], unacked := 1 })] }
     (s.actor (portActor 0)).storeQ.find? (fun x => x.uid = 7) = some hosted ∧ 0 < (s.actor (portActor 0)).pos ∧
     s.mayDrain (portActor 0) hosted = true ∧ s.eligible hosted.place = true ∧
     (0x80 < lowOf (portActor 0) ∨ isDevActor (portActor 0) = true)) ∧ ∀ x y, hosted.place ≠ .win x y :=
  ⟨by decide +kernel, fun _ _ h => (by cases h)⟩
theorem witness_EntriesTravel_held :
    (let s := acting { pos := 1, storeQ := [stored1, stored2], unacked := 2 }
     (s.actor (tgActor 0 0)).storeQ.find? (fun x => x.uid = 8) = some stored2 ∧ 0 < (s.actor (tgActor 0 0)).pos ∧
     s.mayDrain (tgActor 0 0) { stored2 with acc := { stored2.acc with pos := 2 } } = false) := by decide +kernel
theorem witness_EntriesTravel_others : ∃ p,
    ({ acting {} with links := [(3, windowed)] } : State).links.find? (fun x => x.1 = 3) = some (3, windowed) ∧
    (acting {}).canFill 1 2 = true ∧ (acting {}).page 1 (2 * 128) = some p ∧ (acting {}).canFill 1 0x200 = false ∧
    ((acting {}).core 0).launch.isSome = true :=
  ⟨⟨0x20100, true, true, true, false, 0, false, false, false⟩, by decide +kernel⟩
/-- An entry on its path. -/
def onPath (extra : Nat) (es : List Entry) : State := withPage extra { tgAt tgW with actors := [(tgActor 0 0, { pos := 1, unacked := 1 })], path := es }
theorem witness_EntriesTakeEffect_memory : ∀ e ∈ [stored1, atomic1],
    MayApply (onPath 0 [e]) 7 e (.phys ⟨0x20140, true, true, true, false, 0, false, false, false⟩) ∧ e.place = .glob 1 0x140 ∧
    (onPath 0 [e]).entryBad e (.phys ⟨0x20140, true, true, true, false, 0, false, false, false⟩) = false ∧ (onPath 0 [e]).memOk = true ∧
    mwf {} (onPath 0 [e]).cores = true := by
  intro e he
  simp only [List.mem_cons, List.not_mem_nil, or_false] at he
  rcases he with rfl | rfl
  all_goals
    exact ⟨⟨by decide +kernel, by decide +kernel, rfl, pageOf_some (by decide +kernel), by decide +kernel, by decide +kernel⟩, rfl,
      by decide +kernel, by decide +kernel, by decide +kernel⟩
/-- A store of scratch bytes. -/
def stored3 : Entry := anEntry 7 (tgActor 0 0) (.scr 0 0x7FFFC) (.store [1, 2, 3, 4])
theorem witness_EntriesTakeEffect_scratch : MayApply (onPath 0 [stored3]) 7 stored3 (.scr 0 0x7FFFC) ∧
    (onPath 0 [stored3]).entryBad stored3 (.scr 0 0x7FFFC) = false ∧ ((onPath 0 [stored3]).core 0).launch.isSome = true ∧
    mwf 0 ((onPath 0 [stored3]).core 0).scratch = true :=
  ⟨⟨by decide +kernel, by decide +kernel, rfl, scrOf_some (by decide +kernel), by decide +kernel, by decide +kernel⟩, by decide +kernel⟩
theorem witness_EntriesTakeEffect_waits : (onPath 0 [stored1, { stored2 with acc := { stored2.acc with pos := 2 } }]).path.find? (fun x => x.uid = 8) =
    some { stored2 with acc := { stored2.acc with pos := 2 } } ∧
    (onPath 0 [stored1, { stored2 with acc := { stored2.acc with pos := 2 } }]).pathOpen { stored2 with acc := { stored2.acc with pos := 2 } } = false ∧
    (onPath 0 [stored1, { stored2 with acc := { stored2.acc with pos := 2 } }]).images = [] := by decide +kernel
/-- A read record of a group's actor on a Cairn line without stamps. -/
def readMark : Entry := anEntry 7 (tgActor 0 0) (.glob 1 0x140) (.readRec ⟨false, tgActor 0 0, 1, 0, 0, 0, 0⟩ .empty)
def marked : State :=
  { put (sidecarAddr 0x20140) (leBytes 8 Stamp.empty.word.toNat ++ leBytes 8 Stamp.empty.word.toNat) (onPath kBit [readMark]) with subj := (7, 0) }
theorem witness_EntriesTakeEffect_record : ∃ p, marked.subj.1 = 7 ∧ marked.path.find? (fun x => x.uid = 7) = some readMark ∧
    marked.pathOpen readMark = true ∧ marked.page 1 0x140 = some p ∧ p.k = true ∧
    marked.damage.contains (.sidecar (p.phys / 128)) = false ∧ marked.writerStamp p.phys = .empty ∧
    (marked.readerStamp p.phys).sc = 7 ∧ marked.memOk = true :=
  ⟨⟨0x20140, true, true, true, false, 0, true, false, false⟩, by decide +kernel⟩
/-- A dirty line of a compressed block that is stored raw. -/
def dirtied : State := { put (descAddr 0x20000) [16] (onPath (2 ^ 58) []) with dirty := [(0x20080 / 128, 1)], subj := (0x20000 / 2048, 0) }
theorem witness_EntriesTakeEffect_merge : dirtied.dirty.find? (fun l => l.1 / 16 = dirtied.subj.1) = some (0x20080 / 128, 1) ∧
    dirtied.drained? = false ∧ dirtied.damage.contains (.block dirtied.subj.1) = false ∧ descOk (dirtied.desc (2048 * dirtied.subj.1)) = true ∧
    dirtied.memOk = true := by decide +kernel
/-- An applied store in the overlay, an applied atomic with its reply, and a fence. -/
def applied (e : Entry) : State :=
  (acting { pos := 2, unacked := 1, observed := [7], fences := [⟨2, .cum, .dev⟩] }).onCore 0 fun c => { c with
    overlay := [⟨7, e.acc, 1, 0x140, [1, 2, 3, 4]⟩]
    copies := [⟨1, 2, List.replicate 128 0, true, true, false, .empty, false⟩] }
theorem witness_AcknowledgementsAndFences_acknowledge : ∀ e ∈ [stored1, { atomic1 with dest := some ⟨.main 1, .word⟩ }, windowed],
    (let s : State := { applied e with done := [⟨e, 0, [(0, 9)], 0, .empty, []⟩] }
     lowOf (tgActor 0 0) < 0x80 ∧ isDevActor (tgActor 0 0) = false ∧ (s.tg 0 0).used = true ∧ 0 < (s.actor (tgActor 0 0)).pos ∧
     s.done.find? (fun x => x.e.uid = 7) = some ⟨e, 0, [(0, 9)], 0, .empty, []⟩ ∧ e.acc.actor = tgActor 0 0 ∧ e.acc.acq = false ∧
     s.orphans.contains 7 = false ∧ s.images = [] ∧ s.linkDown = false ∧ (s.ctx 0 0).state = 0 ∧ (s.ctx 0 1).state = 0 ∧
     ((s.core 0).overlay.find? (fun o => o.uid = 7)).isSome = true) := by decide +kernel
theorem witness_AcknowledgementsAndFences_fence :
    (let s := applied stored1
     (s.actor (tgActor 0 0)).fences.find? (fun x => x.pos = 2) = some ⟨2, .cum, .dev⟩ ∧ s.fenceDone (tgActor 0 0) ⟨2, .cum, .dev⟩ = false) ∧
    (let s := acting { pos := 2, fences := [⟨2, .cum, .dev⟩] }
     (s.actor (tgActor 0 0)).fences.find? (fun x => x.pos = 2) = some ⟨2, .cum, .dev⟩ ∧ s.fenceDone (tgActor 0 0) ⟨2, .cum, .dev⟩ = true) := by
  decide +kernel

/-! ### Couloir and Traverse at work -/

/-- A queue whose command fills one line. -/
def filling (ln : Place) : State :=
  withPage 0 (queueAt { prog := 0x3000, recva := 0x3000, cmd := some { op := .cfil 7 5 0, pieces := [⟨ln, 128, .fill 5 0⟩], lines := [ln] } })
theorem witness_QueueLinesFinish_lines : ∀ ln ∈ [Place.scr 0 0x7FF80, .glob 1 0x180],
    LineReady (filling ln) 0 0 ln.item { op := .cfil 7 5 0, pieces := [⟨ln, 128, .fill 5 0⟩], lines := [ln] } ⟨ln, 128, .fill 5 0⟩ ln := by
  unfold LineReady; decide +kernel
theorem witness_QueueLinesFinish_places : ∃ p,
    (let s := filling (.scr 0 0x7FF80)
     s.loc (queueActor 0 0) .wr (.scr 0 0x7FF80) = .ok (.scr 0 0x7FF80) ∧ mwf 0 (s.core 0).scratch = true) ∧
    (let s := filling (.glob 1 0x180)
     s.loc (queueActor 0 0) .wr (.glob 1 0x180) = .ok (.phys p) ∧ p.k = false ∧ inWindow 0x180 = false ∧ s.memOk = true ∧
     s.ownedByOther (queueActor 0 0) (.phys p) = false ∧ s.drained? = false ∧ s.wholeBad (.phys p) = false) :=
  ⟨⟨0x20180, true, true, true, false, 0, false, false, false⟩, ⟨scrOf_some (by decide +kernel), by decide +kernel⟩,
    pageOf_some (by decide +kernel), rfl, by decide +kernel⟩
theorem witness_QueueLinesFinish_complete :
    (let m : Cmd := { op := .cfil 7 5 0 }
     let s : State := { queueAt { cmd := some m } with subj := (0, 0) }
     s.subj = (0, 0) ∧ (s.queue 0 0).run = true ∧ (s.queue 0 0).cmd = some m ∧ m.lines = [] ∧ (s.queue 0 0).faults = [] ∧ (s.queue 0 0).declined = none ∧
     (s.actor (queueActor 0 0)).storeQ = []) := by decide +kernel
/-- The cause of a refusal. -/
def causeOf (r : Except Nat Loc) : Option Nat := match r with | .error c => some c | _ => none
theorem causeOf_some {r : Except Nat Loc} {c : Nat} (h : causeOf r = some c) : r = .error c := by
  unfold causeOf at h; split at h <;> simp_all
theorem witness_QueueLinesFinish_fault :
    (let s := filling (.glob 1 0x80000)
     let m : Cmd := { op := .cfil 7 5 0, pieces := [⟨.glob 1 0x80000, 128, .fill 5 0⟩], lines := [.glob 1 0x80000] }
     (s.queue 0 0).cmd = some m ∧ (s.queue 0 0).lineOf (Place.glob 1 0x80000).item = some (.glob 1 0x80000) ∧
     m.missing (fpIsSr (s.queue 0 0).fp) (.glob 1 0x80000) = [] ∧
     s.loc (queueActor 0 0) .wr (.glob 1 0x80000) = .error cTranslation ∧ (s.queue 0 0).faulted (.glob 1 0x80000) = false ∧ (s.queue 0 0).declined = none ∧
     s.restoring (queueActor 0 0) (.glob 1 0x80000) = false ∧ s.queueAcquiring 0 0 = false ∧ s.drained? = false) :=
  ⟨by decide +kernel, by decide +kernel, by decide +kernel, causeOf_some (by decide +kernel), by decide +kernel⟩
theorem witness_QueueLinesFinish_service :
    (let s := (queueAt { faults := [(cTranslation, 0x80000)] }).onActor (queueActor 0 0) fun x => { x with storeQ := [stored1] }
     (s.queue 0 0).run = true ∧ (s.queue 0 0).declined = none ∧
     (s.queue 0 0).faults.find? (fun g => g.2 / 128 = 0x1000) = some (cTranslation, 0x80000) ∧
     s.busy (queueActor 0 0) = true ∧ (s.queue 0 0).cmd = none ∧ s.subj.1 = 0) := by decide +kernel
/-- A command of two lines, one faulted, the other in flight. -/
def twoLines : Cmd :=
  { op := .cfil 7 5 0, pieces := [⟨.glob 1 0x80000, 128, .fill 5 0⟩, ⟨.scr 0 0x7FF80, 128, .fill 5 0⟩], lines := [.glob 1 0x80000, .scr 0 0x7FF80] }
theorem witness_QueueLinesFinish_decline :
    (let s := queueAt { cmd := some twoLines, faults := [(cTranslation, 0x80000)] }
     (s.queue 0 0).run = true ∧ (s.queue 0 0).declined = none ∧ (s.queue 0 0).cmd = some twoLines ∧
     (s.queue 0 0).faults.find? (fun g => g.2 / 128 = 0x1000) = some (cTranslation, 0x80000) ∧
     twoLines.lines.any (s.queue 0 0).inFlight = true) := by decide +kernel
/-- The last line in flight of a program whose fault has been declined. -/
def lastLine : State := (filling (.scr 0 0x7FF80)).onCore 0 fun c => c.setQueue 0 { c.queue 0 with declined := some 2 }
theorem witness_QueueLinesFinish_declined :
    LineReady { lastLine with cores := mset {} lastLine.cores 0 ((lastLine.core 0).setQueue 0 { lastLine.queue 0 0 with declined := none }) } 0 0
      (Place.scr 0 0x7FF80).item { op := .cfil 7 5 0, pieces := [⟨.scr 0 0x7FF80, 128, .fill 5 0⟩], lines := [.scr 0 0x7FF80] }
      ⟨.scr 0 0x7FF80, 128, .fill 5 0⟩ (.scr 0 0x7FF80) ∧
    (lastLine.queue 0 0).declined = some 2 ∧ lastLine.loc (queueActor 0 0) .wr (.scr 0 0x7FF80) = .ok (.scr 0 0x7FF80) ∧
    mwf 0 (lastLine.core 0).scratch = true ∧ mwf {} lastLine.cores = true :=
  ⟨by unfold LineReady; decide +kernel, by decide +kernel, scrOf_some (by decide +kernel), by decide +kernel⟩

/-- A tile of a 32 × 32 product. -/
def aTile : Tile := ⟨0, 0, 0, 0, 32, 2 ^ 128⟩
/-- A core with a context 0, page 0 in its space. -/
def walkAt (x : Ctx) : State := withPage 0 { onCore0 .none { ctxs := [(0, x)], spur := { run := .run } } with subj := (0, 0) }
/-- A slot that fetches some lines. -/
def fetching (lines : List Nat) : State :=
  walkAt { state := 1, prob := { fusm := 3, m := 32, n := 32, k := 32, slotsz := 2048, afmt := 1, abase := 0x400, ald := 64 }
           slotsA := [(0, { st := 1, tile := some aTile, lines })] }
/-- The read of line 8 by the context's actor. -/
def lineRead (s : State) : ReadAns := s.engineRead (travActor 0 0) (s.ctx 0 0).spc (s.ctx 0 0).cseq (128 * 8) 128
theorem witness_WalksAdvance_fetch : ∀ l ∈ [[8], [8, 9]],
    (let s := fetching l
     let z := (s.ctx 0 0).slot false 0
     z.tile = some aTile ∧ z.st = 1 ∧ z.lines.contains 8 = true ∧ z.faults.contains 8 = false ∧ s.drained? = false ∧ z.group = none ∧
     readsOk (lineRead s) = true ∧ mwf {} s.cores = true) := by decide +kernel
theorem witness_WalksAdvance_fetch_rest : [8].filter (· != 8) = [] ∧ [8, 9].filter (· != 8) ≠ [] := by decide
/-- Two contexts whose slots share the fetch of lines 8 and 9. -/
def sharing : State :=
  let s := fetching [8]
  let x := s.ctx 0 0
  let z : TSlot := { st := 1, tile := some aTile, lines := [8, 9], group := some 0 }
  { s.onCore 0 fun c => { c with ctxs := [(0, { x with slotsA := [(0, z)] }), (1, { x with slotsA := [(0, z)] })] } with
    arb := [⟨0, ⟨0, 1, false, 0x400, 0, 64, 1, 0, 32, 0, 32⟩, 0, false, ⟨0, 1, false, 0⟩⟩], nextArb := 1 }
theorem witness_WalksAdvance_fetch_group :
    (let s := sharing
     let z := (s.ctx 0 0).slot false 0
     z.tile = some aTile ∧ z.st = 1 ∧ z.lines.contains 8 = true ∧ z.faults.contains 8 = false ∧ s.drained? = false ∧
     s.reader ⟨0, 0, false, 0⟩ 8 = ⟨0, 1, false, 0⟩ ∧ s.mates ⟨0, 0, false, 0⟩ 8 = [⟨0, 0, false, 0⟩, ⟨0, 1, false, 0⟩] ∧
     (∀ q ∈ s.mates ⟨0, 0, false, 0⟩ 8, ∃ l ∈ (s.slotOf q).lines, l ≠ 8) ∧
     readsOk (s.engineRead (travActor 0 1) (s.ctx 0 1).spc (s.ctx 0 1).cseq (128 * 8) 128) = true ∧ mwf {} s.cores = true) := by decide +kernel
/-- The cause, the address and the state of a read that faults. -/
def readFault (r : ReadAns) : Option (Nat × Nat) := match r with | .fault c v _ => some (c, v) | _ => none
def faultState (r : ReadAns) : State := match r with | .fault _ _ u => u | _ => State.reset
theorem readFault_some {r : ReadAns} {c v : Nat} (h : readFault r = some (c, v)) : r = .fault c v (faultState r) := by
  unfold readFault at h; unfold faultState; split at h <;> simp_all
theorem witness_WalksAdvance_fetch_fault : ∃ v, ((fetching [0x1000]).ctx 0 0).state = 1 ∧
    (fetching [0x1000]).engineRead (travActor 0 0) ((fetching [0x1000]).ctx 0 0).spc ((fetching [0x1000]).ctx 0 0).cseq (128 * 0x1000) 128 =
      .fault cTranslation 0x80000 v :=
  ⟨_, by decide +kernel, readFault_some (by decide +kernel)⟩
/-- Memory lost under a fetch. -/
def lostFetch : State := { fetching [8] with damage := [.line (0x20400 / 128)] }
theorem witness_WalksAdvance_fetch_lost : ∃ v, (lostFetch.ctx 0 0).state = 1 ∧
    lostFetch.engineRead (travActor 0 0) (lostFetch.ctx 0 0).spc (lostFetch.ctx 0 0).cseq (128 * 8) 128 = .fault cMemError 0x400 v :=
  ⟨_, by decide +kernel, readFault_some (by decide +kernel)⟩
/-- A context with a full step of two chunks of two K-steps, running or not. -/
def stepping (run : Bool) : State :=
  let z (kk : Nat) : TSlot := { st := 2, kk, tile := some aTile, fmt := 1 }
  walkAt { state := 1, prob := { fusm := 3, kt := 1, m := 32, n := 32, k := 128, slotsz := 4096, afmt := 1, bfmt := 1, ald := 256, bld := 256 }
           steps := [⟨0, [(0, aTile)]⟩], slotsA := [(0, z 0), (1, z 1)], slotsB := [(0, z 0), (1, z 1)], run
           banks := if run then [(0, { st := 1 })] else [] }
/-- The same at its last chunk. -/
def lastChunk : State := (stepping true).onCore 0 fun c => { c with ctxs := [(0, { c.ctx 0 with runKk := 1 })] }
theorem witness_ChunksComplete_part : ChunkRuns (stepping true) 0 0 1 ⟨0, [(0, aTile)]⟩ ∧ mwf {} (stepping true).cores = true ∧
    ((stepping true).ctx 0 0).runKs + 1 < ((stepping true).ctx 0 0).prob.ksteps := by
  unfold ChunkRuns; decide +kernel
theorem witness_ChunksComplete_ends : ∀ s ∈ [stepping true, lastChunk],
    ChunkRuns s 0 0 2 ⟨0, [(0, aTile)]⟩ ∧ mwf {} s.cores = true ∧ (s.ctx 0 0).prob.ksteps ≤ (s.ctx 0 0).runKs + 2 ∧
    mwf {} (s.ctx 0 0).slotsA = true ∧ mwf {} (s.ctx 0 0).slotsB = true := by
  unfold ChunkRuns; decide +kernel
theorem witness_ChunksComplete_chunks :
    ((stepping true).ctx 0 0).runKk + 1 < ((stepping true).ctx 0 0).prob.chunks ∧ (lastChunk.ctx 0 0).prob.chunks ≤ (lastChunk.ctx 0 0).runKk + 1 := by
  decide +kernel
/-- Both contexts with a step to start, the first ready earlier. -/
def bothReady : State :=
  let s := (stepping false).onCore 0 fun c =>
    { c with ctxs := [(0, { c.ctx 0 with readyAt := some 1 }), (1, { c.ctx 0 with readyAt := some 2 })] }
  { s with cycles := [(0, 10)] }
theorem witness_WalksAdvance_start : ∀ s ∈ [stepping false, bothReady],
    s.subj = (0, 0) ∧ ((s.walkGo 0 0).core 0).arrays = none ∧ ((s.walkGo 0 0).ctx 0 0).ready = true ∧
    (((s.walkGo 0 0).ctx 0 1).ready = true → ((s.walkGo 0 0).core 0).arraysKey 0 < ((s.walkGo 0 0).core 0).arraysKey 1) ∧
    mwf {} s.cores = true := by decide +kernel
/-- Context 1 alone with a step to start. -/
def secondReady : State := { (stepping false).onCore 0 fun c => { c with ctxs := [(1, c.ctx 0)] } with subj := (0, 1) }
theorem witness_WalksAdvance_start_second :
    (let s := secondReady
     s.subj = (0, 1) ∧ ((s.walkGo 0 1).core 0).arrays = none ∧ ((s.walkGo 0 1).ctx 0 1).ready = true ∧
     ((s.walkGo 0 1).ctx 0 0).ready = false ∧
     (((s.walkGo 0 1).core 0).stepEndAt < (s.walkGo 0 1).cyclesOf 0 → ((s.walkGo 0 1).ctx 0 1).readyAt ≠ some ((s.walkGo 0 1).cyclesOf 0)) ∧
     mwf {} s.cores = true) := by decide +kernel
/-- A queued upcall of handler 0. -/
def anUpcall : Upcall := { ctx := 0, kind := 2, hid := 0, tile := aTile, kk := 0, slot := 0, sub := 0, raised := 0 }
def calling : State := (stepping true).onCore 0 fun c => { c with handlers := [(0, some ⟨0x2000, 2, 64, 1⟩)], upq := [anUpcall] }
theorem witness_WalksAdvance_upcall : ∃ part base, calling.subj.1 = 0 ∧
    calling.dispatchable 0 [] (calling.core 0).upq = some (anUpcall, ⟨0x2000, 2, 64, 1⟩, part, base) :=
  ⟨0, 14, by decide +kernel⟩
/-! ### Launches, saves and services -/

/-- The state with the subject of an event. -/
def about (a b : Nat) (s : State) : State := { s with subj := (a, b) }
/-- A vacant core 0 with cards of its own queue, and images of the front end. -/
def vacantAt (pend starts : List Card) : State := { frs with cores := if pend = [] then [] else [(0, { pend })], starts, subj := (0, 0) }
theorem witness_LaunchesStartAndEnd_place :
    (let s := vacantAt [aCard, { aCard with prio := 3, order := 1 }] []
     s.subj.1 = 0 ∧ s.vacantCore 0 = true ∧ bestCard (s.core 0).pend = some { aCard with prio := 3, order := 1 } ∧ mwf {} s.cores = true) ∧
    (let s := vacantAt [] [{ aCard with core := some 0 }]
     s.subj.1 = 0 ∧ s.vacantCore 0 = true ∧ (s.core 0).pend = [] ∧ s.clq = [] ∧
     s.queueOrder.find? (fun w => (s.targetOf w).isSome) = some (.fresh { aCard with core := some 0 }) ∧
     s.targetOf (.fresh { aCard with core := some 0 }) = some 0 ∧ mwf {} s.cores = true) := by decide +kernel
/-- What reading an image gives. -/
def imageGood (r : ImageAns) : Option (Header × List Byte) := match r with | .ok h seg => some (h, seg) | _ => none
def imageBad (r : ImageAns) : Option (Nat × Option Header) := match r with | .bad c h => some (c, h) | _ => none
theorem imageGood_some {r : ImageAns} {h : Header} {seg : List Byte} (e : imageGood r = some (h, seg)) : r = .ok h seg := by
  unfold imageGood at e; split at e <;> simp_all
theorem imageBad_some {r : ImageAns} {c : Nat} {h : Option Header} (e : imageBad r = some (c, h)) : r = .bad c h := by
  unfold imageBad at e; split at e <;> simp_all
/-- A core that is to restore a fresh image: the card names the header at 0x200, whose initial segment is 16 bytes at 0x280. -/
def freshCard (image : DWord) : Card := { aCard with vif := 5, image, staddr := 0x300, args := [7, 8, 9, 10] }
def restoring (image : DWord) : State :=
  let d := padTo 64 (leBytes 8 0x1000 ++ leBytes 8 0x280 ++ leBytes 4 128 ++ leBytes 4 0x400 ++ leBytes 1 8)
  { put 0x20200 (headerBytes 5 1 d ++ leBytes 16 0x1122334455) frs with incoming := [(0, .fresh (freshCard image))], subj := (0, 0) }
theorem witness_LaunchesStartAndEnd_restore : ∃ h seg, (restoring 0x200).subj.1 = 0 ∧
    (restoring 0x200).incoming.find? (fun y => y.1 = 0) = some (0, .fresh (freshCard 0x200)) ∧
    (restoring 0x200).readImage (freshCard 0x200).vif (freshCard 0x200).asid (freshCard 0x200).image.toNat = .ok h seg :=
  ⟨{ vif := 5, asid := 1, prio := 0, caps := 0, regs := 64, entry := 0x1000, scrimg := 0x280, scrbase := 0x400, scrsize := 128, nextSeq := 1
     scrubva := 0, nscrub := 0, trecva := 0 }, padTo 128 (leBytes 16 0x1122334455), rfl, by decide +kernel, imageGood_some (by decide +kernel)⟩
theorem witness_LaunchesStartAndEnd_bad : (restoring 0x400).incoming.find? (fun y => y.1 = 0) = some (0, .fresh (freshCard 0x400)) ∧
    (restoring 0x400).readImage (freshCard 0x400).vif (freshCard 0x400).asid (freshCard 0x400).image.toNat = .bad cBadImage none ∧
    (restoring 0x400).endings = [] ∧ (freshCard 0x400).staddr ≠ 0 ∧ (freshCard 0x400).staddr.toNat % 8 = 0 :=
  ⟨by decide +kernel, imageBad_some (by decide +kernel), rfl, by decide, by decide +kernel⟩
theorem witness_LaunchesStartAndEnd_ends :
    (let s := about 0 0 (spurAt {})
     s.subj.1 = 0 ∧ (s.core 0).launch = some { vif := 1, asid := 1 } ∧ mwf {} s.cores = true) ∧
    (let l : Launch := { vif := 5, asid := 1, staddr := 0x300, killed := some 4 }
     let s : State := { frs with cores := [(0, { launch := some l, spur := { run := .done } })], subj := (0, 0) }
     s.subj.1 = 0 ∧ s.launchDone 0 = true ∧ (s.core 0).launch = some l ∧ l.nscrub = 0 ∧ l.trecva = 0 ∧ l.staddr ≠ 0 ∧ l.staddr.toNat % 8 = 0 ∧
     s.endings = [] ∧ mwf {} s.cores = true) := by decide +kernel

/-- The image of a launch that was saved as yielded on core 0, with a group and scratch bytes. -/
def anImage : Img :=
  { order := 3
    saved := { kind := 1, hcore := 0, actors := [], absent := [], wait := [], redo := []
               core := { launch := some { vif := 5, asid := 1, regs := 64 }, spur := { run := .yielded, pc := 0x1008 }, tgs := [(2, tg0)]
                         scratch := [(0x40, 7)] } } }
/-- Before its bytes are written: address space 1, and the image on its way to core 0. -/
def imageRoom : State := { frs with incoming := [(0, .saved 3)], images := [anImage], subj := (0, 0) }
def imaged : State := imageRoom.storeImage anImage
/-- An image of a launch with one group has room. -/
theorem body_fits (i : Img) (v : Saved) (a b : List Byte) (ha : a.length ≤ 24576) (hb : b.length ≤ 24576)
    (h : i.saved.blocks i.order = [⟨1, 0, a⟩, ⟨2, 2, b⟩, ⟨6, 0, v.scratchBody⟩]) : i.body.length ≤ imageSize - 128 := by
  refine Nat.le_trans ?_ (by decide : 3 * 24592 + 525424 ≤ imageSize - 128)
  simp only [Img.body, h, List.flatMap_cons, List.flatMap_nil, List.append_nil, List.length_append, Block.bytes_length, Saved.scratchBody_length]
  omega
theorem image_fits : anImage.body.length ≤ imageSize - 128 :=
  body_fits anImage anImage.saved _ _ (List.length_take_le _ (Config.stateBlock 1 0 3)) (List.length_take_le _ (Config.stateBlock 2 2 3)) rfl
theorem witness_LaunchesStartAndEnd_saved : imaged.subj.1 = 0 ∧ imaged.incoming.find? (fun y => y.1 = 0) = some (0, .saved 3) ∧
    imaged.images.find? (fun j => j.order = 3) = some anImage ∧ imaged.imageOk anImage = true ∧ anImage.saved.hcore = 0 ∧
    (anImage.saved.core.ctx 0).state = xIdle ∧ (anImage.saved.core.ctx 1).state = xIdle ∧ (∀ q, (anImage.saved.core.queue q).ending = none) := by
  refine ⟨rfl, by decide +kernel, by decide +kernel, ?_, rfl, rfl, rfl, fun _ => rfl⟩
  have w : Memory.wf imageRoom.mem = true := by decide +kernel
  have d : imaged.digestOk anImage = true := State.digestOk_storeImage w image_fits rfl
  have m : imaged.imageDamaged anImage 0 128 = false := rfl
  have k : imaged.savedHeaderOk anImage { vif := 5, asid := 1, regs := 64 } = true := by
    simp only [State.savedHeaderOk, imaged, State.imageHeader_storeImage w, headerFields_header]
    decide +kernel
  simp only [State.imageOk, show anImage.saved.core.launch = some { vif := 5, asid := 1, regs := 64 } from rfl, d, m, k]
  rfl

/-- A core with a launch whose Spur stands in a run state, with changes of its own. -/
def savingAt (r : Run) (f : Core → Core) : State :=
  { onCore0 .none (f { spur := { run := r } }) with cycles := [(0, 100000)], subj := (0, 0) }
theorem witness_SavesBeginAndEnd_requests :
    (∀ r ∈ [Run.run, .parkDq, .parkRdzv, .parkLaunch, .parkLjoin, .parkFault],
      ((savingAt r id).core 0).launch = some { vif := 1, asid := 1 } ∧ ((savingAt r id).core 0).csr.req = false ∧
      ((savingAt r id).core 0).spur.run = r ∧ ((savingAt r id).core 0).saving = none ∧ mwf {} (savingAt r id).cores = true) ∧
    (let s := savingAt .run fun c => { c with csr := { c.csr with preq := 1 } }
     (s.core 0).csr.req = true ∧ (s.core 0).saving = none ∧ (s.core 0).preqAt + (s.core 0).csr.pdeadline.toNat ≤ s.cyclesOf 0 ∧
     (s.core 0).preqDone = false) := by decide +kernel
/-- A frame of a group on fault service. -/
def svcFrame : Frame := aFrame none
theorem witness_SavesBeginAndEnd_share : ∀ v ∈ [none, some ⟨1, true, false, 0⟩],
    (let s := savingAt .run fun c => { c with tgs := [(0, { tg0 with svc := some svcFrame })], saving := v }
     s.subj = (0, 0) ∧ (s.core 0).csr.preq ≠ preqWord 1 ∧ (s.core 0).csr.pct < 100 ∧
     (s.core 0).csr.pct * (s.residents 0).length < 100 * (s.faulted 0).length ∧ (s.core 0).csr.req = false ∧ (s.core 0).spur.run ≠ .done ∧
     (s.core 0).saving = v) := by
  decide +kernel
theorem witness_SavesBeginAndEnd_share_set :
    (let s := { savingAt .run (fun c => { c with tgs := [(0, { tg0 with svc := some svcFrame })] }) with subj := (0, 31) }
     s.subj.2 ≠ 0 ∧ (s.subj.2 - 1) % 128 = 30 ∧ 30 * (s.residents 0).length < 100 * (s.faulted 0).length) := by decide +kernel
theorem witness_SavesBeginAndEnd_events :
    (let s := savingAt .parkLjoin id
     (s.core 0).csr.swapwait ≠ 0 ∧ s.idleCore 0 = true ∧ (s.core 0).idleSince + (s.core 0).csr.swapwait.toNat < s.cyclesOf 0) ∧
    (let s := savingAt .run fun c => { c with saving := some ⟨1, true, true, 0⟩ }
     (s.core 0).saving = some ⟨1, true, true, 0⟩ ∧ 0 + 4096 ≤ s.cyclesOf 0 ∧ s.imageReady 0 = true ∧ s.drained? = false ∧ s.resets = [] ∧
     s.memOk = true ∧ s.freeRun 0 imageFrames false = some 0) := by
  decide +kernel

/-- Every run of frames that could hold an image has a frame in use. -/
theorem witness_SavesBeginAndEnd_no_room :
    (let s := { savingAt .run (fun c => { c with saving := some ⟨1, true, true, 0⟩ }) with frames := (List.range 128).map (64 * ·) }
     (s.core 0).saving = some ⟨1, true, true, 0⟩ ∧ s.imageReady 0 = true ∧ s.drained? = false ∧ s.resets = [] ∧
     s.freeRun 0 imageFrames false = none) := by decide +kernel
/-- An operation of a group's load that its home has refused. -/
def lateLoad : LateOp := ⟨.load (aLoad (tgActor 0 0) (.glob 1 0x80000)), cTranslation, [], false, [], 0, 40⟩
theorem witness_AgentsAreLetGo_late :
    (let s := about 0 0 (tgAt { tgW with late := [lateLoad] })
     (s.tg 0 0).used = true ∧ s.subj = (0, 0) ∧ (s.tg 0 0).svc = none ∧ s.busy (tgActor 0 0) = false ∧
     (let r := (topReplay ((s.tg 0 0).armFaults (s.tg 0 0).lateArm (mkReplays 0 (s.tg 0 0).late))).orElse fun _ =>
        topReplay (mkReplays 0 (s.tg 0 0).late)
      r.isSome = true ∧ (r.map fun r => (s.core 0).csr.delivers r.cause) = some false)) := by decide +kernel
/-- A group on whose frame the service of an arm ends, the arm pushed by the other. -/
theorem witness_AgentsAreLetGo_pushed :
    (let s := about (tgActor 0 0) 1 (tgAt { tgW with path := 0xFF00, svc := some { aFrame none with pmask := 0x00F0 } })
     s.subj.1 = tgActor 0 0 ∧ s.subj.2 < 2 ∧ (s.tg 0 0).svc = some { aFrame none with pmask := 0x00F0 } ∧
     ({ aFrame none with pmask := 0x00F0 } : Frame).cause ≠ cTimingFail ∧ ({ aFrame none with pmask := 0x00F0 } : Frame).replay = [] ∧
     (s.tg 0 0).armOf 0x00F0 = none) := by decide +kernel
theorem witness_AgentsAreLetGo_resume : ∀ b < 2,
    (let s := about (tgActor 0 0) b (tgAt { tgW with svc := some svcFrame })
     s.subj.1 = tgActor 0 0 ∧ s.subj.2 % 2 ^ 32 < 2 ∧ (s.tg 0 0).svc = some svcFrame ∧ svcFrame.cause ≠ cTimingFail ∧ svcFrame.replay = [] ∧
     (s.tg 0 0).armOf svcFrame.pmask = some true) := by
  decide +kernel
/-- A group with an instruction to issue at VA 0x1000, in the cluster's cycle 1000. -/
def readyTg (g : Tg) : State := about 0 0 { put 0x21000 (leBytes 4 0x03053828) (withPage 0 (tgAt g)) with cycles := [(0, 1000)] }
theorem witness_AgentsAreLetGo_boost :
    (let s := readyTg tgW
     s.subj = (0, 0) ∧ (s.tg 0 0).handler = none ∧ s.tgCandidate 0 0 = true ∧ (s.tg 0 0).readySince + 256 ≤ s.cyclesOf 0) := by decide +kernel
theorem witness_AgentsAreLetGo_wave :
    (let s := readyTg { tgW with wave := some 0, wakeAt := 1000 }
     s.subj = (0, 0) ∧ (s.tg 0 0).wave = some 0 ∧ (s.tg 0 0).wakeAt ≤ s.cyclesOf 0) ∧
    (let s := readyTg { tgW with fuseAt := some 744 }
     s.subj = (0, 0) ∧ (s.tg 0 0).fuseAt = some 744 ∧ 744 + 256 ≤ s.cyclesOf 0 ∧ (s.tg 0 0).div = none) := by decide +kernel
theorem witness_AgentsAreLetGo_spur :
    (let s := about (spurActor 0) 0 (spurAt { frame := some ⟨0x1000, cTranslation, 0x80000, none, 0x1000⟩ } |>.onCore 0 fun c =>
       { c with spur := { c.spur with run := .parkFault } })
     s.subj = (spurActor 0, 0) ∧ (s.core 0).spur.run = .parkFault ∧ (s.core 0).spur.frame = some ⟨0x1000, cTranslation, 0x80000, none, 0x1000⟩ ∧
     spurFatal cTranslation = false) := by decide +kernel

/-! ### Power, saddles, ports and triggers -/

/-- A device at a time, its calendar in a phase. -/
def timeAt (t : Nat) (g : Calendar) (f : State → State) : State :=
  f { caps := capsOf 1, refTime := t, calendar := g, clusters := [(0, { newMargin := some 0x514004B0 })] }
theorem witness_PowerEventsAct_saddles :
    (let s := timeAt 3968 {} id
     s.calendar.phase = 0 ∧ s.calendar.start s.calendar.next ≤ s.refTime + 128 ∧ mwf {} s.cores = true ∧ mwf {} s.clusters = true) ∧
    (let s := timeAt 4096 { phase := 1 } fun s => { s with cores := [(0, { spur := { window := some 1 }, tgs := [(0, { tg0 with window := some 1 })] })] }
     s.calendar.phase = 1 ∧ s.calendar.start s.calendar.next ≤ s.refTime ∧ (s.tg 0 0).window = some 1 ∧ (s.core 0).spur.window = some 1 ∧
     (s.cluster 0).newMargin = some 0x514004B0 ∧ mwf {} s.cores = true ∧ mwf {} s.clusters = true) ∧
    (let s := timeAt (4096 * 4096 + 896) { next := 4096, phase := 2 } id
     s.calendar.phase = 2 ∧ s.calendar.start 4096 + saddleLen 4096 ≤ s.refTime ∧ s.refTime - s.calendar.start 4096 ≤ saddleLimit 4096 ∧
     (0, { newMargin := some 0x514004B0 }) ∈ s.clusters ∧ (saddleTypes 65536).getLsbD 4 = true ∧ (saddleTypes 16).getLsbD 1 = true) ∧
    (let s := timeAt (4096 + 200) { phase := 2 } id
     s.calendar.phase = 2 ∧ saddleLimit s.calendar.next < s.refTime - s.calendar.start s.calendar.next) := by decide +kernel
theorem witness_PowerEventsAct_others :
    (let s := about 3 0 (timeAt 0 {} id)
     s.subj.1 = 3 ∧ s.clusterPresent 3 = true ∧ s.allIdle = true ∧ mwf {} s.cores = true ∧ mwf {} s.clusters = true) ∧
    (let s : State := { about (tgActor 0 0) 1 (tgAt tgW) with retries := [(retryKey (tgActor 0 0) true, 14)] }
     s.subj = (tgActor 0 0, if true then 1 else 0) ∧ s.issuing (tgActor 0 0) true = true ∧
     mget 0 s.retries (retryKey (tgActor 0 0) true) + 1 < 16) ∧
    (let s := about (spurActor 0) 0 (spurAt spurW)
     s.subj = (spurActor 0, if false then 1 else 0) ∧ s.issuing (spurActor 0) false = true ∧
     mget 0 s.retries (retryKey (spurActor 0) false) + 1 < 16) := by decide +kernel
theorem witness_DeviceEventsAct_sample :
    (let s : State := { (about 0 0 (spurAt {})).onCore 0 (fun c => { c with csr := { c.csr with dbgctl := 0x1004000 } }) with cycles := [(0, 64)] }
     s.subj.1 = 0 ∧ (s.core 0).csr.samplePeriod ≠ 0 ∧ (s.core 0).lastSample + (s.core 0).csr.samplePeriod ≤ s.cyclesOf 0 ∧
     nextAfter (s.core 0).sampled
       ((s.onCore 0 fun k => { k with lastSample := k.periodEnd (s.cyclesOf 0) }).sampleable 0) = some 0x80 ∧
     mwf {} s.cores = true) := by decide +kernel
/-- A device whose trigger line 31 has a route. -/
def routed (w : DWord) : State := about 31 0 { spurAt {} with routes := [(31, w)] }
theorem witness_DeviceEventsAct_triggers :
    (let s := routed 0xC001003000000180
     31 < 32 ∧ s.lineOn 31 = true ∧ s.lineSrc 31 7 = true ∧ s.lineSrc 31 8 = true ∧ (s.route 31).getLsbD 62 = true ∧ s.lineSink 31 5 = true ∧
     s.lineSink 31 4 = true ∧ s.corePresent 0 = true ∧ s.sinkCore 31 0 = true ∧ s.subj.1 = 31) := by decide +kernel
theorem witness_DeviceEventsAct_step :
    (let s : State := { about (spurActor 0) 0 (spurAt {}) with stepJobs := [⟨rq0, spurActor 0, 0⟩], cycles := [(0, 4096)] }
     s.subj.1 = spurActor 0 ∧ s.stepJobs.find? (fun j => j.actor = spurActor 0) = some ⟨rq0, spurActor 0, 0⟩ ∧
     0 + 4096 ≤ s.cyclesOf (coreOf (spurActor 0))) ∧ (about 7 0 (spurAt {})).subj.1 = 7 ∧ 7 < 8 ∧ nonce 3 ≠ [] := by decide +kernel
/-- A device with a grant of 64 KiB at VA 0 to address space 9 of device 2. -/
def granting : State := { frs with grants := [⟨2, 9, 1, 0, 0x10000⟩] }
theorem witness_DeviceEventsAct_ports : (0 < 8 ∨ granting.subj.1 = 0) ∧ nonce 3 ≠ [] ∧ granting.linkTakes 0 = true ∧ granting.linkTakes 10 = true ∧
    granting.landing 0 1 0x7C (nonce 3).length = some ⟨portActor 0, 1, 0x7C⟩ ∧ granting.landing 10 9 0x7C (nonce 3).length = some ⟨peerActor, 1, 0x7C⟩ ∧
    granting.landing 0 0 0x7C (nonce 3).length = none ∧ granting.landing 10 9 0xFFFF (nonce 3).length = none ∧ granting.landing 11 9 0x7C (nonce 3).length = none := by decide +kernel
/-- A read of 200 bytes in its first step, at a line of its middle, and at its last. -/
def reading (n : Nat) : State := { granting with reads := if n = 0 then [] else [⟨granting.carrier 10, 9, 0x7C, 200, List.replicate n 0⟩] }
theorem witness_DeviceEventsAct_read : ∀ n ∈ [0, 4, 132], ∃ bs,
    (reading n).landing 10 9 0x7C 200 = some ⟨peerActor, 1, 0x7C⟩ ∧
    (((reading n).reads.find? fun r => r.via = (reading n).carrier 10 && r.asid = 9 && r.va = 0x7C && r.size = 200).map PortRead.got).getD [] =
      List.replicate n 0 ∧
    (reading n).frontLine 1 (0x7C + n) (min (200 - n) (128 - (0x7C + n) % 128)) = .ok bs (reading n) := by
  intro n hn
  simp only [List.mem_cons, List.not_mem_nil, or_false] at hn
  rcases hn with rfl | rfl | rfl
  · exact ⟨_, by decide +kernel, by decide +kernel, (readsOk_eq (by decide +kernel)).trans (congrArg _ (by decide +kernel : _ = reading 0))⟩
  · exact ⟨_, by decide +kernel, by decide +kernel, (readsOk_eq (by decide +kernel)).trans (congrArg _ (by decide +kernel : _ = reading 4))⟩
  · exact ⟨_, by decide +kernel, by decide +kernel, (readsOk_eq (by decide +kernel)).trans (congrArg _ (by decide +kernel : _ = reading 132))⟩
theorem witness_DeviceEventsAct_far :
    (let s : State := { about 7 0 (spurAt {}) with links := [(3, windowed)], refTime := 50000 }
     s.subj = (7, 0) ∧ (s.path ++ s.links.map Prod.snd ++ s.done.map Done.e).find?
       (fun e => e.uid = 7 && s.farPlace e.place && s.lateAcc e.acc) = some windowed) := by decide +kernel
/-! ### The whole machine -/

theorem witness_EncodingsDecode : (Instr.iadd onP0 .s32 false (.main 9) (.main 2) (.main 3)).wf laneCx = true ∧
    decode spurCx [0x05013821, 0x0031000C] = .ok (.add plainHd .s32 (.main 5) (.main 3) (.imm 16)) 2 := by decide +kernel
theorem witness_RecordsAndRequestsDecode :
    (encodeRec (.cwatBar 15)).isSome = true ∧ (encodeRec (.cwatBar 15)).bind decodeRec = some (.cwatBar 15) ∧
    requestOf (.attest rq0 (nonce 32)) = some rq0 ∧ (encodeReq (.attest rq0 (nonce 32))).isSome = true ∧ replyOk (.attest rq0 (nonce 32)) = true ∧
    (nonce 32).length = 32 := by decide +kernel

/-- The state before the next turn, which moves `m` after 3 ns and 2 local cycles. -/
def turnOf (m : Move) (s : State) : State := { s with agenda := [⟨3, [2], m⟩] }
/-- The state as that turn begins. -/
def begun (m : Move) (s : State) : State := (turnOf m s).begin (turnOf m s).nextTurn
/-- A page's place with its bytes at an address. -/
theorem units_at {s : State} {asid va : Nat} {us : List Word} (ps : List Page) (h0 : us ≠ []) (hn : us.length = (unitCount (us.headD 0)).getD 1)
    (h : ∀ k < us.length, ∃ p ∈ ps, pageOf (s.locGlob .ex asid (va + 4 * k)) = some p ∧ s.damaged (.phys p) = false ∧
      us.getD k 0 = BitVec.ofNat 32 (leNat (s.locBytes (.phys p) 4))) : UnitsAt s asid va us :=
  ⟨h0, hn, fun k hk => let ⟨p, _, h1, h2, h3⟩ := h k hk; ⟨.phys p, pageOf_some h1, h2, h3⟩⟩
/-- The executable page at some physical bytes. -/
def exPage (phys : Nat) : Page := ⟨phys, true, true, true, false, 0, false, false, false⟩
/-- The ADD of spec/ at VA 0x1000, for the Spur. -/
def spurCode : State := put 0x21000 (leBytes 4 0x05013821 ++ leBytes 4 0x0031000C) (withPage 0 (spurAt spurW))
theorem witness_StepRunsTheDecodedInstruction_spur : ∃ us i n, (turnOf (.spur 0) spurCode).nextTurn.move = .spur 0 ∧
    SpurMayIssue (begun (.spur 0) spurCode) 0 ∧
    UnitsAt (begun (.spur 0) spurCode) ((begun (.spur 0) spurCode).asidOf 0) ((begun (.spur 0) spurCode).core 0).spur.pc.toNat us ∧
    decode ⟨.spur, 0⟩ us = .ok i n :=
  ⟨[0x05013821, 0x0031000C], .add plainHd .s32 (.main 5) (.main 3) (.imm 16), 2, rfl, by unfold SpurMayIssue; decide +kernel,
    units_at [exPage 0x21000, exPage 0x21004] (by decide) (by decide +kernel) (by decide +kernel), by decide +kernel⟩
/-- An IADD at VA 0x1000, for a group; and a reserved opcode. -/
def laneCode (w : Nat) : State := put 0x21000 (leBytes 4 w) (withPage 0 (tgAt tgW))
theorem witness_StepRunsTheDecodedInstruction_group : ∃ us i n, (turnOf (.tg 0 0 true) (laneCode 0x03053828)).nextTurn.move = .tg 0 0 true ∧
    GroupMayIssue (begun (.tg 0 0 true) (laneCode 0x03053828)) 0 0 true ∧
    UnitsAt (begun (.tg 0 0 true) (laneCode 0x03053828)) ((begun (.tg 0 0 true) (laneCode 0x03053828)).asidOf 0)
      (((begun (.tg 0 0 true) (laneCode 0x03053828)).tg 0 0).armPc true).toNat us ∧
    decode ⟨.lane, ((begun (.tg 0 0 true) (laneCode 0x03053828)).tg 0 0).regs⟩ us = .ok i n ∧
    (begun (.tg 0 0 true) (laneCode 0x03053828)).hazard (tgActor 0 0) true i = false ∧ isMemory i = false :=
  ⟨[0x03053828], .iaddCompact 7 false 5 3, 1, rfl, by unfold GroupMayIssue; decide +kernel,
    units_at [exPage 0x21000] (by decide) (by decide +kernel) (by decide +kernel), by decide +kernel, by decide +kernel, by decide +kernel⟩
theorem witness_StepRunsTheDecodedInstruction_closed :
    (begun (.tg 0 0 true) (tgAt { tgW with svc := some svcFrame })).tgOpen 0 0 true = false ∧
    (begun (.spur 0) ((spurAt {}).onCore 0 fun c => { c with spur := { c.spur with run := .done } })).spurOpen 0 = false := by decide +kernel
/-- A queue's program: CEND at VA 0x3000. -/
def queueCode : State := put 0x23000 (((encodeRec .cend).map fun r => leBytes 4 r.w0.toNat ++ leBytes 4 r.w1.toNat).getD []) qs
/-- What a queue may issue. -/
def qGo (r : QReady) : Option Instr := match r with | .go i _ => some i | _ => none
def qGoState (r : QReady) : State := match r with | .go _ u => u | _ => State.reset
theorem qGo_some {r : QReady} {i : Instr} (h : qGo r = some i) : r = .go i (qGoState r) := by
  unfold qGo at h; unfold qGoState; split at h <;> simp_all
theorem witness_StepRunsTheDecodedInstruction_queue : ∃ v, (turnOf (.queue 0 0) queueCode).nextTurn.move = .queue 0 0 ∧
    (begun (.queue 0 0) queueCode).queueReady 0 0 = .go .cend v :=
  ⟨_, rfl, qGo_some (by decide +kernel)⟩
theorem witness_StepKeepsMemoryCanonical : ∃ t, spurCode.memOk = true ∧ step (turnOf (.spur 0) spurCode) = .next t :=
  ⟨_, by decide +kernel, rfl⟩
/-- A lane instruction in the Spur, and one of the Spur in a group. -/
theorem witness_TrapsAreTaken_service : TgTurn tgWs 0 0 true ∧ (Instr.add plainHd .s64 (.main 1) (.main 1) (.main 1)).shape.isSome = true ∧
    (Instr.add plainHd .s64 (.main 1) (.main 1) (.main 1)).onEngine .lane = false ∧ tgWs.busy (tgActor 0 0) = false ∧ (tgWs.tg 0 0).late = [] ∧
    (tgWs.core 0).csr.delivers 0x03 = false :=
  ⟨⟨rfl, rfl⟩, by decide +kernel⟩
/-- A core that delivers WRONG_ENGINE to its handler, its frames at VA 0x20000 in a second page. -/
def delivering : State :=
  (put 0x16010 (leBytes 8 0xB800000000030000) (withPage 0 (tgAt tgW))).onCore 0 fun c =>
    { c with csr := { c.csr with tvec := 0x4001, tdeleg := 8, tframe := 0x20000 } }
theorem witness_TrapsAreTaken_handler : ∃ lines, TgTurn delivering 0 0 true ∧ (delivering.tg 0 0).frame = none ∧
    (delivering.core 0).csr.delivers 0x03 = true ∧ delivering.framePages (delivering.asidOf 0) ((delivering.core 0).csr.frameVa 0) = some lines ∧
    delivering.owners = [] ∧ delivering.records 0 7 = false ∧ delivering.memOk = true ∧ delivering.busy (tgActor 0 0) = false ∧
    (delivering.tg 0 0).late = [] ∧ (∀ p ∈ lines, delivering.dramHeld (.phys p) = false) ∧ (∀ p ∈ lines, p.c = false) :=
  ⟨(List.range 8).map fun i => ⟨0x30000 + 128 * i, true, true, true, false, 0, false, false, false⟩, ⟨rfl, rfl⟩, rfl, by decide +kernel⟩
theorem witness_TrapsAreTaken_spur : SpurTurn (spurAt spurW) 0 ∧ (Instr.iaddCompact 7 false 5 3).compact?.isSome = true ∧
    (Instr.iaddCompact 7 false 5 3).onEngine .spur = false :=
  ⟨⟨rfl, rfl⟩, by decide +kernel⟩
theorem witness_TrapsAreTaken_step_spur : ∃ us e,
    (let s := put 0x21000 (leBytes 4 0x00D2C090) (withPage 0 (spurAt spurW))
     (turnOf (.spur 0) s).nextTurn.move = .spur 0 ∧ SpurMayIssue (begun (.spur 0) s) 0 ∧
     UnitsAt (begun (.spur 0) s) ((begun (.spur 0) s).asidOf 0) ((begun (.spur 0) s).core 0).spur.pc.toNat us ∧
     decode ⟨.spur, 0⟩ us = .trap e) :=
  ⟨[0x00D2C090], .wrongEngine, rfl, by unfold SpurMayIssue; decide +kernel,
    units_at [exPage 0x21000] (by decide) (by decide +kernel) (by decide +kernel), by decide +kernel⟩
theorem witness_TrapsAreTaken_step_group : ∃ us e, (turnOf (.tg 0 0 true) (laneCode 0x00D2C090)).nextTurn.move = .tg 0 0 true ∧
    GroupMayIssue (begun (.tg 0 0 true) (laneCode 0x00D2C090)) 0 0 true ∧
    UnitsAt (begun (.tg 0 0 true) (laneCode 0x00D2C090)) ((begun (.tg 0 0 true) (laneCode 0x00D2C090)).asidOf 0)
      (((begun (.tg 0 0 true) (laneCode 0x00D2C090)).tg 0 0).armPc true).toNat us ∧
    decode ⟨.lane, ((begun (.tg 0 0 true) (laneCode 0x00D2C090)).tg 0 0).regs⟩ us = .trap e ∧
    (begun (.tg 0 0 true) (laneCode 0x00D2C090)).busy (tgActor 0 0) = false ∧
    ((begun (.tg 0 0 true) (laneCode 0x00D2C090)).core 0).csr.delivers (checkCause e) = false :=
  ⟨[0x00D2C090], .illegalEncoding, rfl, by unfold GroupMayIssue; decide +kernel,
    units_at [exPage 0x21000] (by decide) (by decide +kernel) (by decide +kernel), by decide +kernel, by decide +kernel, by decide +kernel⟩


/-! ## The tools -/

/-- R99, R100: constants as the assembler takes them, and the units of the worked fragment of chapter 05. -/
theorem test_tools_constants :
    (asmConst 32 0x3FC00000 == some (.lit, some 0x3FC00000) && asmFloat fp32 (.frac false 3 2) == some 0x3FC00000 &&
     asmFloat bf16 (.frac true 1 3) == some 0xBEAB && asmConst 32 0xFFFFFFFF == some (.imm 0xFF, none) && asmConst 64 0x100000000 == none) = true := by decide
/-- R100, R101: the units of the worked fragment of chapter 05. -/
theorem test_tools_fragment :
    (let c : Cx := ⟨.lane, 16⟩
     let h : Hd := ⟨7, false, false, none⟩
     assemble c (.iadd h .s32 false (.main 5) (.main 3) .l0) == some [0x03053828] &&
     assemble c (.fmul ⟨2, true, false, none⟩ .f32 (.main 10) (.main 1) (.opnd 3)) == some [0x0A00506D, 0x00103004] &&
     assemble c (.li { h with lit := some 0x3FC00000 } (.main 7) .lit) == some [0x07003B2A, 0x00000FFC, 0x3FC00000] &&
     assemble c (.exit h) == some [0x00003AD1, 0x00000000] &&
     (assemble c (.iadd h .s32 false (.main 20) (.main 3) .l0)).isNone) = true := by decide

/-- R106 to R109: the fragment's literal takes the scratch offset of `table`, and its handler the ID 0. -/
theorem test_tools_link :
    (let o : Obj := { sects := [⟨3, 4, leBytes 12 0x0000000000000FFC08003B2A, [⟨8, 2, 1, 0⟩]⟩, ⟨7, 8, leBytes 8 5, []⟩],
                      syms := [⟨"a", true, 4, 1, 0x001010FF, 0⟩, ⟨"t", false, 2, 2, 0, 4⟩] }
     let l := link [o] 0x0000010000000000
     (l.map (·.ids)) == some [((0, 0), 0)] &&
       (l.bind fun l => (l.sects.find? (·.1 = 3)).map Prod.snd) == some (0x10000000000, leBytes 12 0x0000000400000FFC08003B2A)) = true := by decide

end Sys2Proof.Tests
end

section
/-! PROOF. What package reset leaves (O56): one fact for each part of `State.reset`, and what a CSRR then reads. -/

namespace Sys2Proof.Machine

/-! ## The sparse maps of the reset state -/

/-- What a map reads is its default or one of its entries. -/
theorem mget_eq_default_or_mem {α : Type} (d : α) (m : NMap α) (i : Nat) : mget d m i = d ∨ (i, mget d m i) ∈ m := by
  induction m with
  | nil => exact .inl rfl
  | cons p m ih =>
    by_cases h : i = p.1
    · exact .inr (by simp [mget, h])
    · rw [mget, if_neg h]
      exact ih.imp_right (List.mem_cons_of_mem p)

/-- A core after reset is unlisted, or a firmware core whose Spur runs (R415): nothing but the Spur's run state is set. -/
theorem State.core_reset (c : Nat) : State.reset.core c = { spur := { run := (State.reset.core c).spur.run } } := by
  rcases mget_eq_default_or_mem {} State.reset.cores c with h | h
  · rw [State.core, h]
  · obtain ⟨_, _, e⟩ := List.mem_map.mp h
    rw [State.core, ← (Prod.mk.inj e).2]

/-- A cluster after reset has the registers that its rules give, whatever its margin fuses hold (R444, R450, R452, R454). -/
theorem State.cluster_reset (k : Nat) : State.reset.cluster k = { margin := (State.reset.cluster k).margin } := by
  rcases mget_eq_default_or_mem {} State.reset.clusters k with h | h
  · rw [State.cluster, h]
  · obtain ⟨_, _, e⟩ := List.mem_map.mp h
    rw [State.cluster, ← (Prod.mk.inj e).2]; rfl

@[simp] theorem State.cluster_reset_droop (k : Nat) : (State.reset.cluster k).droop = 0x40628 := by rw [State.cluster_reset]
@[simp] theorem State.cluster_reset_mreqcap (k : Nat) : (State.reset.cluster k).mreqcap = 48 := by rw [State.cluster_reset]
@[simp] theorem State.cluster_reset_didt (k : Nat) : (State.reset.cluster k).didt = 0x07D0012C0410 := by rw [State.cluster_reset]

/-! ## The parts of a core -/

@[simp] theorem State.core_reset_launch (c : Nat) : (State.reset.core c).launch = none := by rw [State.core_reset]
@[simp] theorem State.core_reset_csr (c : Nat) : (State.reset.core c).csr = {} := by rw [State.core_reset]
@[simp] theorem State.core_reset_pend (c : Nat) : (State.reset.core c).pend = [] := by rw [State.core_reset]
@[simp] theorem State.core_reset_fpctl (c : Nat) : (State.reset.core c).spur.fpctl = 0 := by rw [State.core_reset]
@[simp] theorem State.tg_reset (c k : Nat) : State.reset.tg c k = {} := by rw [State.tg, State.core_reset]; rfl
@[simp] theorem Core.ring_reset (c n : Nat) : (State.reset.core c).ring n = {} := by rw [State.core_reset]; rfl
@[simp] theorem State.queue_reset (c q : Nat) : State.reset.queue c q = {} := by rw [State.queue, State.core_reset]; rfl
@[simp] theorem State.cairnMode_reset (c : Nat) : State.reset.cairnMode c = 1 := by simp [State.cairnMode]

/-- No queue has run: its status is zero (R391). -/
@[simp] theorem State.queueStat_reset (c q : Nat) : State.reset.queueStat c q = 0 := by
  simp [State.queueStat, State.queueState]

/-! ## Control registers -/

/-- CSR numbers 0x40 to 0x7F are the ring-link sets' registers, four numbers to a set (R265). -/
theorem State.csrRead_ring (s : State) (u : CsrUser) {n : Nat} (hlo : 0x40 ≤ n) (hhi : n < 0x80) (h3 : n % 4 ≠ 3) :
    s.csrRead u n = some (((s.core u.core).ring ((n - 0x40) / 4)).word (n % 4)) := by
  unfold State.csrRead
  extract_lets k c cl ifSpur ifPriv
  split
  case h_33 => simp [k, hlo, hhi, h3]
  all_goals omega

/-- Every register of a disabled ring-link set is zero (R265). -/
@[simp] theorem Ring.word_default (k : Nat) : ({} : Ring).word k = 0 := by
  unfold Ring.word; split <;> rfl

/-- A Spur is privileged on the last core of a cluster only (R412). -/
@[simp] theorem State.spurUser_priv (s : State) (c : Nat) : (s.spurUser c).priv = decide (c % 192 = 191) := rfl

/-- Every Spur reads the reset values of `resetWords`, the domain number 0 among them (log 87). -/
theorem State.csrRead_reset (c : Nat) : ∀ w ∈ resetWords, State.reset.csrRead (State.reset.spurUser c) w.1 = some w.2 := by
  have hcaps : State.reset.caps = 0x01FC001F := by decide
  have hdomid : State.reset.domid = 0 := rfl
  simp [resetWords, State.csrRead, State.spurUser, hcaps, hdomid]

/-- Every Spur reads its ring-link sets' registers as zero: each set is disabled. -/
theorem State.csrRead_reset_ring (c : Nat) {n : Nat} (hlo : 0x40 ≤ n) (hhi : n < 0x80) (h3 : n % 4 ≠ 3) :
    State.reset.csrRead (State.reset.spurUser c) n = some 0 := by
  rw [State.csrRead_ring _ _ hlo hhi h3, State.spurUser, Core.ring_reset, Ring.word_default]

/-- The trap ring's base register reads its reset value in the privileged mode only (R412). -/
theorem State.csrRead_reset_trapBase (c : Nat) :
    State.reset.csrRead (State.reset.spurUser c) 0x90 = if c % 192 = 191 then some 12 else none := by
  simp [State.csrRead, State.reset, State.resetFor]

/-- So do the trap ring's control and read registers. -/
theorem State.csrRead_reset_trapIndex (c : Nat) {n : Nat} (hn : n = 0x91 ∨ n = 0x92) :
    State.reset.csrRead (State.reset.spurUser c) n = if c % 192 = 191 then some 0 else none := by
  rcases hn with rfl | rfl <;> simp [State.csrRead, State.reset, State.resetFor]

/-! ## The device -/

/-- The only address space is FRS's, which no interface owns: its owner number 64 is above every interface's (R403, R417; log 85). -/
theorem State.spacesOf_reset {v : Nat} (hv : v < 64) : State.reset.spacesOf v = [] := by
  have hne : 64 ≠ v := by omega
  simp [State.spacesOf, State.reset, State.resetFor, Space.firmware, hne]

/-- Settles O56, part by part: the control registers that a Spur reads, the cores and actors, and the device. -/
theorem resetState : Obligations.ResetState := by
  refine ⟨fun c _ => State.csrRead_reset c, fun c _ n => State.csrRead_reset_ring c, fun c _ => State.csrRead_reset_trapBase c,
    fun c _ n => State.csrRead_reset_trapIndex c, fun c k => ?_, ?device⟩
  · exact ⟨State.core_reset_launch c, by rw [State.tg_reset], State.core_reset_pend c⟩
  case device =>
    exact ⟨fun _ => rfl, rfl, rfl, rfl, rfl, rfl, fun _ => State.spacesOf_reset, fun _ => rfl, rfl, rfl⟩

end Sys2Proof.Machine
end

section
/-! PROOF. LOAD_IMAGE, START, SCRUB and ATTEST (O37): what a reply leaves, the stores that carry it, what the front end's reads and
the mapping of pages leave, and the layout of an attestation record. -/

namespace Sys2Proof.Machine

/-! ## The parts of a store (R121) -/

/-- The parts of some bytes are the bytes, where the bound covers their lines. -/
theorem lineParts_bytes (n va : Nat) (bs : List Byte) (h : bs.length + va % 128 ≤ 128 * n) :
    (lineParts n va bs).flatMap Prod.snd = bs := by
  induction n generalizing va bs with
  | zero => rw [List.eq_nil_of_length_eq_zero (by omega : bs.length = 0)]; rfl
  | succ n ih =>
    cases bs with
    | nil => rfl
    | cons b bs =>
      have hrest : ((b :: bs).drop (128 - va % 128)).length + (va + (128 - va % 128)) % 128 ≤ 128 * n := by
        rw [List.length_drop]; omega
      rw [lineParts, if_neg (by simp), List.flatMap_cons, ih _ _ hrest, List.take_append_drop]

/-- The first part begins where the bytes do. -/
theorem lineParts_head (n va : Nat) {bs : List Byte} (h : bs ≠ []) : (lineParts (n + 1) va bs).head?.map Prod.fst = some va := by
  cases bs with
  | nil => exact absurd rfl h
  | cons b bs => rfl

/-! ## Stores of a device-level actor -/

/-- One part of a device-level store issued, as `State.devStore` folds it. -/
def issuePart (acc : Acc) (asid : Nat) (r : State × List Nat) (p : Nat × List Byte) : State × List Nat :=
  (r.1.issueEntry acc (vaPlace asid p.1) 0 (.store p.2) none none, r.2 ++ [r.1.nextUid])

/-- A releasing store: its parts are issued, and the actor publishes. -/
theorem State.devStore_release (s : State) (actor asid va : Nat) (bs : List Byte) (sc : Nat) :
    (s.devStore actor asid va bs sc true).1 =
      (((lineParts (bs.length / 128 + 2) va bs).foldl
        (issuePart (s.newAcc actor (s.nextPos actor) 0 0 0 sc false true) asid) (s, [])).1.publish actor).bump actor := rfl

/-- Only actors, and the number of the next entry, differ. -/
def IssuesOnly (s t : State) : Prop := t = { s with actors := t.actors, nextUid := t.nextUid }

section
variable {s t : State} (h : IssuesOnly s t)
include h
theorem IssuesOnly.mem : t.mem = s.mem := by rw [h]
theorem IssuesOnly.outbox : t.outbox = s.outbox := by rw [h]
theorem IssuesOnly.vifs : t.vifs = s.vifs := by rw [h]
theorem IssuesOnly.starts : t.starts = s.starts := by rw [h]
theorem IssuesOnly.scrubJobs : t.scrubJobs = s.scrubJobs := by rw [h]
end

/-- An actor with an entry in its store queue is no unlisted actor. -/
theorem Actor.ne_of_storeQ {x : Actor} (h : x.storeQ ≠ []) : x ≠ {} := by rintro rfl; exact h rfl

/-- An actor with an entry more at the tail of its store queue. -/
def Actor.enqueue (x : Actor) (e : Entry) : Actor := { x with storeQ := x.storeQ ++ [e], unacked := x.unacked + 1 }

theorem Actor.enqueue_ne (x : Actor) (e : Entry) : x.enqueue e ≠ {} :=
  Actor.ne_of_storeQ (List.append_ne_nil_of_right_ne_nil _ (List.cons_ne_nil _ _))

/-- An entry joins the tail of its actor's store queue (R39). -/
theorem State.actor_issueEntry (s : State) (acc : Acc) (place : Place) (lanes : Mask) (eff : Eff) (dest : Option Dest)
    (page : Option Page) :
    (s.issueEntry acc place lanes eff dest page).actor acc.actor =
      (s.actor acc.actor).enqueue { uid := s.nextUid, acc, place, lanes, eff, dest, page } :=
  s.actor_onActor (f := (·.enqueue { uid := s.nextUid, acc, place, lanes, eff, dest, page })) (Actor.enqueue_ne _ _)

/-- A publication and the next issue point leave a store queue that holds an entry. -/
theorem State.storeQ_publish_bump (s : State) {a : Nat} (h : (s.actor a).storeQ ≠ []) :
    (((s.publish a).bump a).actor a).storeQ = (s.actor a).storeQ := by
  have hne : ({ s.actor a with clk := (s.actor a).clk + 1 } : Actor) ≠ {} := Actor.ne_of_storeQ h
  rw [State.actor_bump, Actor.issued, State.publish, s.actor_onActor hne]

/-- Parts issued one by one join the tail of the actor's store queue in order, each a store of its bytes at its VA. -/
theorem issueParts_spec (acc : Acc) (asid : Nat) (ps : List (Nat × List Byte)) (r : State × List Nat) :
    IssuesOnly r.1 (ps.foldl (issuePart acc asid) r).1 ∧
    ∃ es, ((ps.foldl (issuePart acc asid) r).1.actor acc.actor).storeQ = (r.1.actor acc.actor).storeQ ++ es ∧
      (∀ e ∈ es, e.acc = acc) ∧ es.map Entry.storedBytes = ps.map Prod.snd ∧
      es.map Entry.place = ps.map fun p => vaPlace asid p.1 := by
  induction ps generalizing r with
  | nil => exact ⟨rfl, [], by simp⟩
  | cons p ps ih =>
    obtain ⟨hrest, es, hq, hacc, hbytes, hplace⟩ := ih (issuePart acc asid r p)
    refine ⟨?_, ⟨r.1.nextUid, acc, vaPlace asid p.1, 0, .store p.2, none, none⟩ :: es, ?_, ?_, ?_, ?_⟩
    · exact hrest
    · rw [List.foldl_cons, hq, issuePart, State.actor_issueEntry, Actor.enqueue, List.append_assoc]; rfl
    · simpa using hacc
    · simpa [Entry.storedBytes] using hbytes
    · simpa using hplace

/-- A releasing store of some bytes: nothing but actors and the next entry's number differ, and its parts join the store queue. -/
theorem State.devStore_spec (s : State) (actor asid va : Nat) {bs : List Byte} (h : bs ≠ []) (sc : Nat) :
    IssuesOnly s (s.devStore actor asid va bs sc true).1 ∧
    ∃ es, ((s.devStore actor asid va bs sc true).1.actor actor).storeQ = (s.actor actor).storeQ ++ es ∧
      es.flatMap Entry.storedBytes = bs ∧ es.head?.map Entry.place = some (vaPlace asid va) ∧ ∀ e ∈ es, e.acc.rel = true := by
  rw [State.devStore_release]
  obtain ⟨honly, es, hq, hacc, hbytes, hplace⟩ := issueParts_spec (s.newAcc actor (s.nextPos actor) 0 0 0 sc false true) asid
    (lineParts (bs.length / 128 + 2) va bs) (s, [])
  have hhead : es.head?.map Entry.place = some (vaPlace asid va) := by
    have hva := congrArg (Option.map (vaPlace asid)) (lineParts_head (bs.length / 128 + 1) va h)
    rw [← List.head?_map, hplace, List.head?_map]
    simpa [Function.comp_def] using hva
  have hne : es ≠ [] := by rintro rfl; cases hhead
  change (State.actor _ actor).storeQ = (s.actor actor).storeQ ++ es at hq
  refine ⟨?_, es, ?_, ?_, hhead, fun e he => by rw [hacc e he]; rfl⟩
  · rw [IssuesOnly] at honly ⊢; rw [honly]; rfl
  · rw [State.storeQ_publish_bump _ (by rw [hq]; exact List.append_ne_nil_of_right_ne_nil _ hne)]; exact hq
  · calc es.flatMap Entry.storedBytes = (es.map Entry.storedBytes).flatten := List.flatMap_def
      _ = (lineParts (bs.length / 128 + 2) va bs).flatMap Prod.snd := by rw [hbytes, List.flatMap_def]
      _ = bs := lineParts_bytes _ _ _ (by omega)

/-! ## Replies (R418, R420) -/

/-- The bytes of a reply are the claim's. -/
theorem replyBytes_eq (rq : Rq) (status r0 r1 : Nat) : replyBytes rq status r0 r1 = answerBytes rq status r0 r1 := rfl

theorem answerBytes_ne_nil (rq : Rq) (status r0 r1 : Nat) : answerBytes rq status r0 r1 ≠ [] :=
  List.cons_ne_nil _ _

/-- A reply to a VA is a releasing store of its bytes by the port that carried the request. -/
theorem State.replyVa_eq (s : State) (rq : Rq) (asid status r0 r1 : Nat) :
    s.replyVa rq asid status r0 r1 =
      (s.devStore (portActor rq.via.port) asid rq.reply.toNat (answerBytes rq status r0 r1) 3 true).1 := by
  rw [State.replyVa, replyBytes_eq]

/-- A reply to a VA leaves everything but actors and the next entry's number. -/
theorem State.replyVa_only (s : State) (rq : Rq) (asid status r0 r1 : Nat) : IssuesOnly s (s.replyVa rq asid status r0 r1) := by
  rw [State.replyVa_eq]
  exact (s.devStore_spec _ asid _ (answerBytes_ne_nil rq status r0 r1) 3).1

/-- A reply to a VA is on its way as the claim says. -/
theorem State.replyVa_answers (s : State) (rq : Rq) (asid status r0 r1 : Nat) :
    AnswersAt s (s.replyVa rq asid status r0 r1) rq asid status r0 r1 := by
  rw [State.replyVa_eq]
  obtain ⟨honly, es, hq, hbytes, hhead, hrel⟩ :=
    s.devStore_spec (portActor rq.via.port) asid rq.reply.toNat (answerBytes_ne_nil rq status r0 r1) 3
  exact ⟨es, hq, hbytes, hhead, hrel, honly.outbox⟩

/-- An answer at a VA is one from any state with the same actors and outbox. -/
theorem AnswersAt.from_same {s u t : State} {rq : Rq} {asid status r0 r1 : Nat} (h : AnswersAt u t rq asid status r0 r1)
    (ha : u.actors = s.actors) (ho : u.outbox = s.outbox) : AnswersAt s t rq asid status r0 r1 := by
  unfold AnswersAt State.actor at h ⊢
  rwa [ha, ho] at h

/-- A reply on the context that carried the request is sent as the claim says. -/
theorem State.replyUet_answers (s : State) (rq : Rq) (status r0 r1 : Nat) (out : List Byte) :
    AnswersDirectly s (s.replyUet rq status r0 r1 out) rq status r0 r1 out := by
  unfold AnswersDirectly State.replyUet State.send
  rw [replyBytes_eq]
  split
  · exact ⟨rfl, rfl⟩
  · rfl

/-- A message that leaves changes no byte. -/
theorem State.send_keepsBytes (s : State) (m : Sent) : KeepsBytes s (s.send m) := by
  unfold State.send
  split <;> exact ⟨fun _ => rfl, fun _ => rfl, fun _ _ => rfl⟩

/-! ## Requests that are taken -/

/-- An open request without an address space is served. -/
theorem onFrs_open {rq : Rq} {s : State} (h : s.frsOpen rq = true) (f : State → State) : onFrs rq f s = .next (f s) := by
  rw [onFrs, if_pos h]

theorem ServesSpace.owns {s : State} {rq : Rq} {asid : BitVec 14} (h : ServesSpace s rq asid) : s.owns rq.vif asid.toNat = true := by
  obtain ⟨_, hlive, hvif⟩ := h
  simp [State.owns, hlive, hvif]

/-- A request on an address space of its interface is served and answered there. -/
theorem ServesSpace.onSpace {s : State} {rq : Rq} {asid : BitVec 14} (h : ServesSpace s rq asid) (f : State → ReqAns) :
    onSpace rq asid f s = .next (s.answer rq asid.toNat (f s)) := by
  rw [Machine.onSpace, onFrs_open h.1, if_pos h.owns]

/-! ## Reads of the command front end -/

/-- A read of one line leaves the state. -/
theorem State.frontLine_ok {s u : State} {asid va n : Nat} {bs : List Byte} (h : s.frontLine asid va n = .ok bs u) : u = s := by
  unfold State.frontLine at h
  split at h
  · cases h
  · split at h
    · cases h
    · split at h
      · cases h
      · cases h; rfl

/-- A read of bytes leaves the state. -/
theorem State.frontBytes_ok {fuel va n asid : Nat} {s u : State} {bs : List Byte} (h : s.frontBytes asid fuel va n = .ok bs u) :
    u = s := by
  induction fuel generalizing s va n bs with
  | zero => cases h; rfl
  | succ fuel ih =>
    rw [State.frontBytes] at h
    split at h
    · cases h; rfl
    · dsimp only at h
      split at h
      next hline =>
        split at h
        next hrest =>
          cases h
          exact (ih hrest).trans (State.frontLine_ok hline)
        next hno => exact absurd h (hno _ _)
      next hno => exact absurd h (hno _ _)

/-! ## What the mapping of pages leaves (R419) -/

/-- Only home memory, the frames and table pages taken, damage and the writes that Cairn remembers differ. -/
def MapsOnly (s t : State) : Prop :=
  { t with mem := s.mem, frames := s.frames, tables := s.tables, damage := s.damage, writers := s.writers } = s

section
variable {s t : State} (h : MapsOnly s t)
include h
theorem MapsOnly.actors : t.actors = s.actors := by rw [← h]
theorem MapsOnly.outbox : t.outbox = s.outbox := by rw [← h]
theorem MapsOnly.vifs : t.vifs = s.vifs := by rw [← h]
end

theorem MapsOnly.refl (s : State) : MapsOnly s s := rfl

theorem MapsOnly.trans {s t u : State} (h : MapsOnly s t) (h' : MapsOnly t u) : MapsOnly s u := by
  unfold MapsOnly at h h' ⊢
  rw [← h'] at h
  exact h

theorem State.physWrite_mapsOnly (s : State) (phys : Nat) (l : List Byte) : MapsOnly s (s.physWrite phys l) := rfl

/-- A fold of steps that only map only maps. -/
theorem foldlM_some_mapsOnly {α : Type} {f : State → α → Option State} (hf : ∀ s x t, f s x = some t → MapsOnly s t) (l : List α)
    {s t : State} (h : l.foldlM f s = some t) : MapsOnly s t := by
  induction l generalizing s with
  | nil => cases h; exact .refl _
  | cons x l ih =>
    rw [List.foldlM_cons] at h
    obtain ⟨u, hu, ht⟩ := Option.bind_eq_some_iff.mp h
    exact (hf s x u hu).trans (ih ht)

theorem State.newTable_mapsOnly {s : State} {r : State × Nat} (h : s.newTable = some r) : MapsOnly s r.1 := by
  obtain ⟨f, _, rfl⟩ := Option.map_eq_some_iff.mp h
  exact MapsOnly.refl s

theorem State.tableAt_mapsOnly {s : State} {entry : Nat} {r : State × Nat} (h : s.tableAt entry = some r) : MapsOnly s r.1 := by
  unfold State.tableAt at h
  split at h
  · cases h; exact .refl _
  · obtain ⟨q, hq, rfl⟩ := Option.map_eq_some_iff.mp h
    exact (State.newTable_mapsOnly hq).trans (State.physWrite_mapsOnly _ _ _)

theorem State.leafMake_mapsOnly {s : State} {asid va : Nat} {r : State × Nat} (h : s.leafMake asid va = some r) :
    MapsOnly s r.1 := by
  obtain ⟨t2, h2, h⟩ := Option.bind_eq_some_iff.mp h
  obtain ⟨t3, h3, h⟩ := Option.bind_eq_some_iff.mp h
  obtain ⟨t4, h4, h⟩ := Option.bind_eq_some_iff.mp h
  have hlast := State.tableAt_mapsOnly h4
  cases h
  exact (State.tableAt_mapsOnly h2).trans ((State.tableAt_mapsOnly h3).trans hlast)

theorem State.setLeaves_mapsOnly {s t : State} {asid va : Nat} {attrs : BitVec 9} {phys : Nat}
    (h : s.setLeaves asid va attrs phys = some t) : MapsOnly s t := by
  refine foldlM_some_mapsOnly (fun s v t ht => ?_) _ h
  obtain ⟨r, hr, rfl⟩ := Option.map_eq_some_iff.mp ht
  exact (State.leafMake_mapsOnly hr).trans (State.physWrite_mapsOnly _ _ _)

theorem State.takeFrames_mapsOnly {s : State} {asid va : Nat} {attrs : BitVec 9} {r : State × Nat}
    (h : s.takeFrames asid va attrs = some r) : MapsOnly s r.1 := by
  obtain ⟨f, _, rfl⟩ := Option.map_eq_some_iff.mp h
  exact MapsOnly.refl s

theorem State.freshPage_mapsOnly (s : State) (phys : Nat) (attrs : BitVec 9) : MapsOnly s (s.freshPage phys attrs) := by
  unfold State.freshPage
  cases attrC attrs <;> cases attrK attrs <;> rfl

theorem State.mapPage_mapsOnly {s t : State} {asid va : Nat} {attrs : BitVec 9} (h : s.mapPage asid va attrs = some t) :
    MapsOnly s t := by
  obtain ⟨r, hr, h⟩ := Option.bind_eq_some_iff.mp h
  exact (State.takeFrames_mapsOnly hr).trans ((State.freshPage_mapsOnly _ _ _).trans (State.setLeaves_mapsOnly h))

theorem State.mapBytes_mapsOnly {n : Nat} {s t : State} {asid va : Nat} {attrs : BitVec 9} {bs : List Byte}
    (h : s.mapBytes asid attrs n va bs = some t) : MapsOnly s t := by
  induction n generalizing s va bs with
  | zero => cases h; exact .refl _
  | succ n ih =>
    rw [State.mapBytes] at h
    split at h
    · cases h
    next hpage => exact (State.mapPage_mapsOnly hpage).trans ((State.physWrite_mapsOnly _ _ _).trans (ih h))

theorem State.loadTof_mapsOnly {s t : State} {vif asid : Nat} {f : Tof} {lay : List (Nat × Nat × TofSect)} {hdr : Nat}
    (h : s.loadTof vif asid f lay hdr = some t) : MapsOnly s t := by
  obtain ⟨u, hu, ht⟩ := Option.bind_eq_some_iff.mp h
  exact (foldlM_some_mapsOnly (fun _ _ _ hp => State.mapBytes_mapsOnly hp) _ hu).trans (State.mapBytes_mapsOnly ht)

/-! ## LOAD_IMAGE (R111, R423) -/

/-- A file is loaded: its pages are mapped, and then the interface's record takes it. -/
theorem State.loadImage_ok {s v : State} {vif asid r0 r1 : Nat} {bs : List Byte} (h : s.loadImage vif asid bs = .ok v r0 r1) :
    ∃ w, MapsOnly s w ∧ v = { w with vifs := mset {} s.vifs vif ((mget {} s.vifs vif).load bs) } := by
  unfold State.loadImage at h
  split at h
  · cases h
  · dsimp only at h
    -- every check that fails answers a status, so that only the branch of `loadTof` is left
    repeat' split at h
    all_goals cases h
    next w hload =>
      have hw := State.loadTof_mapsOnly hload
      exact ⟨w, hw, by rw [hw.vifs]⟩

/-- A file whose form fails check 1 is a BAD_TOF. -/
theorem State.loadImage_badTof (s : State) (vif asid : Nat) {bs : List Byte} (h : tofOk bs = false) :
    s.loadImage vif asid bs = .failLoad .badTof := by
  rw [State.loadImage, h]; rfl

/-- The dispatch of LOAD_IMAGE. -/
theorem exec_loadImage (rq : Rq) (asid : BitVec 14) (va len : DWord) (s : State) :
    exec (.loadImage rq asid va len) s = execLoadImage rq asid va len s := rfl

/-- LOAD_IMAGE of a file that can be read answers what its checks and its loading answer. -/
theorem execLoadImage_read {rq : Rq} {asid : BitVec 14} {va len : DWord} {s u : State} {bs : List Byte}
    (hs : ServesSpace s rq asid) (hread : s.frontBytes asid.toNat (len.toNat / 128 + 2) va.toNat len.toNat = .ok bs u) :
    exec (.loadImage rq asid va len) s = .next (s.answer rq asid.toNat (u.loadImage rq.vif asid.toNat bs)) := by
  rw [exec_loadImage, execLoadImage, hs.onSpace, hread]

/-- LOAD_IMAGE of a file that passes its checks. -/
theorem execLoadImage_loads {rq : Rq} {asid : BitVec 14} {va len : DWord} {s u v : State} {bs : List Byte} {r0 r1 : Nat}
    (hs : ServesSpace s rq asid) (hread : s.frontBytes asid.toNat (len.toNat / 128 + 2) va.toNat len.toNat = .ok bs u)
    (hload : u.loadImage rq.vif asid.toNat bs = .ok v r0 r1) :
    ∃ t, exec (.loadImage rq asid va len) s = .next t ∧ AnswersAt s t rq asid.toNat 0 r0 r1 ∧ t.mem = v.mem ∧
      t.vifs = mset {} s.vifs rq.vif ((mget {} s.vifs rq.vif).load bs) := by
  have hexec := execLoadImage_read hs hread
  obtain rfl := State.frontBytes_ok hread
  rw [hload] at hexec
  obtain ⟨w, hw, hv⟩ := State.loadImage_ok hload
  have hreply := v.replyVa_only rq asid.toNat 0 r0 r1
  refine ⟨_, hexec, (v.replyVa_answers rq asid.toNat 0 r0 r1).from_same ?_ ?_, hreply.mem, ?_⟩
  · rw [hv]; exact hw.actors
  · rw [hv]; exact hw.outbox
  · exact hreply.vifs.trans (by rw [hv])

/-- LOAD_IMAGE of bytes that are no file. -/
theorem execLoadImage_badTof {rq : Rq} {asid : BitVec 14} {va len : DWord} {s u : State} {bs : List Byte}
    (hs : ServesSpace s rq asid) (hread : s.frontBytes asid.toNat (len.toNat / 128 + 2) va.toNat len.toNat = .ok bs u)
    (hbad : tofOk bs = false) :
    ∃ t, exec (.loadImage rq asid va len) s = .next t ∧
      AnswersAt s t rq asid.toNat (Config.loadStatus .badTof).toNat 111 0 ∧ t.mem = s.mem := by
  have hexec := execLoadImage_read hs hread
  rw [State.loadImage_badTof _ _ _ hbad] at hexec
  exact ⟨_, hexec, s.replyVa_answers _ _ _ _ _, (s.replyVa_only _ _ _ _ _).mem⟩

/-! ## START (R121, R407, R471) -/

/-- The card that START puts behind the images to start. -/
def State.startCard (s : State) (rq : Rq) (asid : BitVec 14) (hdr : DWord) (core : BitVec 10) (st ctr : DWord) (inc : Word)
    (bs : List Byte) : Card where
  vif := rq.vif
  asid := asid.toNat
  prio := (Header.ofBytes bs).prio
  image := hdr
  args := []
  staddr := st
  ccaddr := ctr
  ccinc := inc.toNat
  core := if core.toNat = 0x3FF then none else some core.toNat
  order := s.nextOrder
  acct := s.heldTime rq

/-- The state once a START's card has joined the images to start and the request has left FRS. -/
def State.startJoins (s : State) (rq : Rq) (c : Card) : State :=
  { s.leaveFrs rq with starts := s.starts ++ [c], nextOrder := s.nextOrder + 1 }

/-- START of an image whose header passes its checks: the card joins the images to start, and the request leaves FRS. -/
theorem State.startAns_ok {s u : State} {rq : Rq} {asid : BitVec 14} {hdr st ctr : DWord} {core : BitVec 10} {bs : List Byte}
    (inc : Word) (hcore : core = 0x3FF ∨ s.computeCore core.toNat = true) (hal : hdr.toNat % 64 = 0) (hva : hdr.toNat < 2 ^ 56)
    (hst : st.toNat % 8 = 0) (hctr : ctr.toNat % 8 = 0) (hread : s.frontBytes asid.toNat 2 hdr.toNat 128 = .ok bs u)
    (hok : u.headerOk rq.vif asid.toNat bs = true) :
    s.startAns rq asid hdr core st ctr inc =
      .ok (s.startJoins rq (s.startCard rq asid hdr core st ctr inc bs)) 0 0 := by
  obtain rfl := State.frontBytes_ok hread
  have hcore' : (core.toNat != 0x3FF && !u.computeCore core.toNat) = false := by
    rcases hcore with rfl | h
    · rfl
    · simp [h]
  have hargs : ¬ ((core.toNat != 0x3FF && !u.computeCore core.toNat) || hdr.toNat % 64 != 0 || hdr.toNat ≥ 2 ^ 56 ||
      st.toNat % 8 != 0 || ctr.toNat % 8 != 0) = true := by
    simpa [hcore', hal, hst, hctr] using hva
  rw [State.startAns, if_neg hargs, hread]
  simp only [hok, Bool.not_true, Bool.false_eq_true, if_false]
  rfl

/-- The time of a START is that with which it waited, or runs from now (R471). -/
theorem State.heldTime_spec (s : State) (rq : Rq) :
    (∀ y, s.frsHeld.find? (fun y => y.1 = rq) = some y → s.heldTime rq = y.2) ∧
    (s.frsHeld.find? (fun y => y.1 = rq) = none → (s.heldTime rq).submit = s.refTime) := by
  unfold State.heldTime
  exact ⟨fun y hy => by rw [hy]; rfl, fun hnone => by rw [hnone]; rfl⟩

/-- The dispatch of START. -/
theorem exec_start (rq : Rq) (asid : BitVec 14) (hdr : DWord) (core : BitVec 10) (st ctr : DWord) (inc : Word) (s : State) :
    exec (.start rq asid hdr core st ctr inc) s = execStart rq asid hdr core st ctr inc s := rfl

/-- START of an image whose header passes its checks. -/
theorem execStart_starts {s u : State} {rq : Rq} {asid : BitVec 14} {hdr st ctr : DWord} {core : BitVec 10} {bs : List Byte}
    (inc : Word) (hs : ServesSpace s rq asid) (hcore : core = 0x3FF ∨ s.computeCore core.toNat = true) (hal : hdr.toNat % 64 = 0)
    (hva : hdr.toNat < 2 ^ 56) (hst : st.toNat % 8 = 0) (hctr : ctr.toNat % 8 = 0)
    (hread : s.frontBytes asid.toNat 2 hdr.toNat 128 = .ok bs u) (hok : u.headerOk rq.vif asid.toNat bs = true) :
    ∃ t, exec (.start rq asid hdr core st ctr inc) s = .next t ∧ AnswersAt s t rq asid.toNat 0 0 0 ∧
      t.starts = s.starts ++ [s.startCard rq asid hdr core st ctr inc bs] := by
  let v := s.startJoins rq (s.startCard rq asid hdr core st ctr inc bs)
  have hans := State.startAns_ok inc hcore hal hva hst hctr hread hok
  refine ⟨v.replyVa rq asid.toNat 0 0 0, ?_, (v.replyVa_answers rq asid.toNat 0 0 0).from_same rfl rfl,
    (v.replyVa_only rq asid.toNat 0 0 0).starts⟩
  simp only [exec_start, execStart, hs.1, hs.owns, hans, Bool.not_true, Bool.false_eq_true, if_false]
  rfl

/-- A START of an interface that FRS may not take yet waits there, and nothing else changes. -/
theorem State.holdStart_held (s : State) {rq : Rq} (h : rqOk rq = true) :
    (∃ y ∈ (s.holdStart rq).frsHeld, y.1 = rq) ∧ s.holdStart rq = { s with frsHeld := (s.holdStart rq).frsHeld } := by
  unfold State.holdStart
  split
  next hheld => exact ⟨by simpa [h] using hheld, rfl⟩
  next => exact ⟨⟨(rq, s.heldTime rq), by simp⟩, rfl⟩

theorem execStart_waits (asid : BitVec 14) (hdr st ctr : DWord) (core : BitVec 10) (inc : Word) {rq : Rq} {s : State}
    (hclosed : s.frsOpen rq = false) (hrq : rqOk rq = true) :
    ∃ t, exec (.start rq asid hdr core st ctr inc) s = .next t ∧ (∃ y ∈ t.frsHeld, y.1 = rq) ∧ t.starts = s.starts ∧
      t.outbox = s.outbox ∧ KeepsBytes s t := by
  obtain ⟨hheld, hrest⟩ := s.holdStart_held hrq
  refine ⟨s.holdStart rq, ?_, hheld, ?_, ?_, ?_⟩
  · rw [exec_start, execStart, if_pos (by rw [hclosed]; rfl)]
  · rw [hrest]
  · rw [hrest]
  · rw [hrest]; exact ⟨fun _ => rfl, fun _ => rfl, fun _ _ => rfl⟩

/-! ## SCRUB (R416; logs 27 and 64) -/

/-- A scrub behind its last entry has ended. -/
theorem State.scrubNext_end (s : State) (asid list : Nat) (p : Nat × Nat) : s.scrubNext asid p.1 list p = .done := by
  rw [State.scrubNext, if_pos (Nat.le_refl _)]

/-- The arguments of a SCRUB that are within their bounds are not bad. -/
theorem scrub_args_ok {count : BitVec 13} {list : DWord} (hcount : count.toNat ≤ 4096) (hal : list.toNat % 16 = 0) :
    ¬ (decide (count.toNat > 4096) || list.toNat % 16 != 0) = true := by
  simp [hal, hcount]

/-- The dispatch of SCRUB. -/
theorem exec_scrub (rq : Rq) (asid : BitVec 14) (list : DWord) (count : BitVec 13) (s : State) :
    exec (.scrub rq asid list count) s = execScrub rq asid list count s := rfl

/-- A SCRUB that goes on: one line a step (log 27). -/
theorem execScrub_more {rq : Rq} {asid : BitVec 14} {list : DWord} {count : BitVec 13} {s v : State} {y : Nat × Nat}
    (hs : ServesSpace s rq asid) (hcount : count.toNat ≤ 4096) (hal : list.toNat % 16 = 0)
    (h : s.scrubNext asid.toNat count.toNat list.toNat (s.scrubJob rq).at_ = .more v y) :
    exec (.scrub rq asid list count) s =
      .next { v with scrubJobs := v.otherScrubs rq ++ [{ s.scrubJob rq with at_ := y }] } := by
  rw [exec_scrub, execScrub, hs.onSpace, if_neg (scrub_args_ok hcount hal), h]
  rfl

/-- A SCRUB behind the last entry of its list: it answers with the time since its first step (log 64). -/
theorem execScrub_ends {rq : Rq} {asid : BitVec 14} {list : DWord} {count : BitVec 13} {s : State}
    (hs : ServesSpace s rq asid) (hcount : count.toNat ≤ 4096) (hal : list.toNat % 16 = 0)
    (h : (s.scrubJob rq).at_.1 = count.toNat) :
    ∃ t, exec (.scrub rq asid list count) s = .next t ∧ AnswersAt s t rq asid.toNat 0 (s.refTime - (s.scrubJob rq).since) 0 ∧
      t.mem = s.mem ∧ t.scrubJobs = s.otherScrubs rq := by
  have hreply := State.replyVa_only { s with scrubJobs := s.otherScrubs rq } rq asid.toNat 0 (s.refTime - (s.scrubJob rq).since) 0
  refine ⟨_, ?_, (State.replyVa_answers { s with scrubJobs := s.otherScrubs rq } rq asid.toNat 0 _ 0).from_same rfl rfl,
    hreply.mem, hreply.scrubJobs⟩
  rw [exec_scrub, execScrub, hs.onSpace, if_neg (scrub_args_ok hcount hal), ← h, State.scrubNext_end]
  rfl

/-! ## ATTEST (R422, R423) -/

@[simp] theorem padTo_length (n : Nat) (l : List Byte) : (padTo n l).length = n := by
  rw [padTo, List.length_take, List.length_append, List.length_replicate]; omega

/-- Bytes that fill the length are not padded. -/
theorem padTo_full {n : Nat} {l : List Byte} (h : l.length = n) : padTo n l = l := by
  subst h; simp [padTo]

/-- Bytes that fit stand at the front. -/
theorem padTo_fits {n : Nat} {l : List Byte} (h : l.length ≤ n) : padTo n l = l ++ List.replicate (n - l.length) 0 :=
  List.take_of_length_le (by rw [List.length_append, List.length_replicate]; omega)

@[simp] theorem freeBytes_length (kind n len : Nat) : (freeBytes kind n len).length = len := by simp [freeBytes]

@[simp] theorem attestSignature_length (r : List Byte) : (attestSignature r).length = 384 := by
  simp [attestSignature, rsaSign]

@[simp] theorem State.attestation_length (s : State) (vif : Nat) (nonce : List Byte) : (s.attestation vif nonce).length = 512 :=
  padTo_length _ _

/-- The fields of an attestation record: its magic, the number of images and the nonce, each at its place (R423). -/
theorem State.attestation_fields (s : State) (vif : Nat) {nonce : List Byte} (h : nonce.length = 32) :
    ∃ head time rest : List Byte, head.length = 12 ∧ time.length = 8 ∧
      s.attestation vif nonce = leBytes 4 0x54535441 ++ head ++ leBytes 8 (mget {} s.vifs vif).nimg ++ time ++ nonce ++ rest := by
  refine ⟨leBytes 2 1 ++ leBytes 1 vif ++ leBytes 1 0 ++ leBytes 8 s.caps.toNat, leBytes 8 s.refTime,
    freeBytes 0 0 32 ++ freeBytes 1 0 32 ++ freeBytes 2 0 32 ++ padTo 32 (mget {} s.vifs vif).chain ++
      padTo 32 (mget {} s.vifs vif).last ++ List.replicate 288 0, by simp, by simp, ?_⟩
  rw [State.attestation, padTo_full h, padTo_fits (by simp [h])]
  simp only [List.append_assoc, List.length_append, leBytes_length, padTo_length, freeBytes_length, h]

/-- A span behind some bytes. -/
theorem take_drop_append {a b c : List Byte} {i n : Nat} (ha : a.length = i) (hb : b.length = n) :
    ((a ++ b ++ c).drop i).take n = b := by
  rw [List.append_assoc, List.drop_left' ha, List.take_left' hb]

/-- The fields as they are read from bytes that begin with the record. -/
theorem State.attestation_reads (s : State) (vif : Nat) {nonce : List Byte} (h : nonce.length = 32) (sig : List Byte) :
    let out := s.attestation vif nonce ++ sig
    out.take 4 = [0x41, 0x54, 0x53, 0x54] ∧ (out.drop 16).take 8 = leBytes 8 (mget {} s.vifs vif).nimg ∧
      (out.drop 32).take 32 = nonce := by
  obtain ⟨head, time, rest, hhead, htime, heq⟩ := s.attestation_fields vif h
  intro out
  have hout : out = leBytes 4 0x54535441 ++ head ++ leBytes 8 (mget {} s.vifs vif).nimg ++ time ++ nonce ++ (rest ++ sig) := by
    simp only [out, heq, List.append_assoc]
  refine ⟨?_, ?_, ?_⟩
  · rw [hout]; rfl
  · rw [hout, List.append_assoc, List.append_assoc]
    exact take_drop_append (by simp [hhead]) (leBytes_length _ _)
  · rw [hout]
    exact take_drop_append (by simp [hhead, htime]) h

/-- The dispatch of ATTEST. -/
theorem exec_attest (rq : Rq) (nonce : List Byte) (s : State) : exec (.attest rq nonce) s = execAttest rq nonce s := rfl

/-- ATTEST answers with the record and its signature. -/
theorem execAttest_answers {rq : Rq} {nonce : List Byte} {s : State} (hopen : s.frsOpen rq = true) (h : nonce.length = 32) :
    ∃ t out, exec (.attest rq nonce) s = .next t ∧ AnswersDirectly s t rq 0 0 0 out ∧ out.length = 896 ∧
      out.take 4 = [0x41, 0x54, 0x53, 0x54] ∧ (out.drop 16).take 8 = leBytes 8 (mget {} s.vifs rq.vif).nimg ∧
      (out.drop 32).take 32 = nonce ∧ out.drop 512 = attestSignature (out.take 512) ∧ KeepsBytes s t := by
  obtain ⟨hmagic, hnimg, hnonce⟩ := s.attestation_reads rq.vif h (attestSignature (s.attestation rq.vif nonce))
  have hlen := s.attestation_length rq.vif nonce
  refine ⟨_, s.attestation rq.vif nonce ++ attestSignature (s.attestation rq.vif nonce),
    by rw [exec_attest, execAttest, onFrs_open hopen],
    s.replyUet_answers rq 0 0 0 _, by simp, hmagic, hnimg, hnonce, ?_, s.send_keepsBytes _⟩
  rw [List.drop_left' hlen, List.take_left' hlen]

/-! ## The obligation -/

/-- Settles O37, part by part: LOAD_IMAGE of a file and of bytes that are none, START served and held, SCRUB (a line a step, log 27; the
time since its first step, log 64), ATTEST. -/
theorem imagesAreLoadedAndStarted : Obligations.ImagesAreLoadedAndStarted := by
  intro rq asid va len hdr st ctr core inc count nonce s u v bs r0 r1
  refine ⟨fun hs hread => ⟨execLoadImage_loads hs hread, execLoadImage_badTof hs hread⟩, ?start,
    fun hclosed hrq => execStart_waits asid hdr st ctr core inc hclosed hrq, ?scrub, fun hopen h => execAttest_answers hopen h⟩
  case start =>
    intro hs hcore hal hva hst hctr hread hok
    obtain ⟨t, hexec, hans, hstarts⟩ := execStart_starts inc hs hcore hal hva hst hctr hread hok
    obtain ⟨hheld, hnew⟩ := s.heldTime_spec rq
    have hall : (if core.toNat = 0x3FF then none else some core.toNat) = if core = 0x3FF then none else some core.toNat := by
      simp only [← BitVec.toNat_inj]; rfl
    exact ⟨t, _, hexec, hans, hstarts, rfl, rfl, rfl, rfl, rfl, rfl, rfl, hall, hheld, hnew⟩
  case scrub =>
    intro hs hcount hal
    exact ⟨fun _ h => execScrub_more hs hcount hal h, execScrub_ends hs hcount hal⟩

end Sys2Proof.Machine
end
